-- ==== Sys2Proof/Word.lean ====
section
/-!
DEFINITION. The word types of the SZL-M8 (R3, R112 to R114) and the plain records that the steps of the
machine without an instruction word carry from the environment (flits, host writes, remote members).
-/
namespace Sys2Proof

/-- A 64-bit register value (R114). -/
abbrev W64 := BitVec 64
/-- A 32-bit instruction word (R112). -/
abbrev W32 := BitVec 32
/-- One byte. -/
abbrev Byte := BitVec 8
/-- A scalar register field, s0 to s31 (R114). -/
abbrev SReg := BitVec 5
/-- A handle field, k0 to k15 (R114). -/
abbrev KReg := BitVec 4
/-- A predicate field, p0 to p7 (R114). -/
abbrev PReg := BitVec 3
/-- A cochain handle image (R41). -/
abbrev Handle := BitVec 128

/-- A flit (R78): the header fields and the 256 payload bits. -/
structure Flit where
  dx : Nat
  dy : Nat
  age : Nat
  inc : BitVec 4
  kind : BitVec 4
  tag : BitVec 12
  hcrc : Byte
  payload : BitVec 256
deriving DecidableEq, Repr

/-- A flit with the CRC-32 that was sent with it (R84). -/
structure LinkFrame where
  flit : Flit
  crc : W32
deriving DecidableEq, Repr

/-- Whom a flit comes from (R78): the header's incarnation and tag, and the source core and incarnation of its payload. -/
structure FlitHead where
  inc : BitVec 4
  tag : BitVec 12
  src : Nat
  srcInc : BitVec 4
deriving DecidableEq, Repr

/-- A request that reaches this module over the fabric (R78, R86): what its header and payload say.
`space` is 0 for module memory at physical address `addr`, 1 for local memory: of logical core `addr / 2^18` on physical core `core`, at
offset `addr mod 2^18`; a message of space 2 is an SEV for that core (R346), whose event number its first doubleword holds; 3 for host memory at `addr`,
through this module's hub (R198). -/
structure FabricReq where
  inc : BitVec 4
  tag : BitVec 12
  src : Nat
  srcInc : BitVec 4
  space : Nat
  core : Nat
  addr : Nat
  size : Nat
deriving DecidableEq, Repr

/-- Where a soft error lies (R398): in a word of local memory of a physical core, with its full/empty bit; in a word of the die cache, GDDR 7 or the CXL tier
(machine-check source 2, 3 or 4) at a physical address; in a word of the accumulator store of a physical core; in a doubleword of a line of a stable's
complex cache. -/
inductive ErrLoc where
  | loc (pcid off : Nat)
  | mem (src pa : Nat)
  | tile (pcid word : Nat)
  | line (stable : Nat) (key : Nat × Nat × Nat) (dw : Nat)
deriving DecidableEq, Repr

/-- Who finds a soft error (R399): the scrubber that reads a GDDR 7 or a die-cache line, a write-back, or nobody yet. -/
inductive ErrRead where
  | gddr | die | writeBack | nobody
deriving DecidableEq, Repr

/-- An access of the host to device memory (R237, R403): a read, a write, or an AtomicOp (FetchAdd 0, Swap 1, CAS 2) with its operands. -/
inductive HostOp where
  | read | write | atomic (op : Nat) (x y : W64)
deriving DecidableEq, Repr

/-- A host link error at one of the posted stores of a core (R238): the store's place in the buffer, and the link (R403). -/
structure LinkErr where
  nth : Nat
  link : Nat
deriving DecidableEq, Repr

/-- The bytes of an MCTP request that name it (R408): the command and the instance. -/
structure MctpHead where
  cmd : Byte
  iid : Byte
deriving DecidableEq, Repr

/-- What a member of an episode on another module contributed (R338 to R344): mnemonic code 0 BAR, 1 VOTE,
2 PHASE; the vote operation; the contribution; its DOMPH kind and step. -/
structure RemoteArrival where
  kind : Nat
  op : Nat
  operand : W64
  phKind : Bool
  phStep : BitVec 32
deriving DecidableEq, Repr

/-- A deque entry that crosses the fabric (R174, R178): task index, home core, argument. -/
structure FarTask where
  index : Nat
  home : Nat
  arg : W64
deriving DecidableEq, Repr

/-- A thief on another module whose probe reaches a core of this one (R178, R19): its DOMPH and its free capacity. -/
structure FarThief where
  domph : W64
  room : Nat
deriving DecidableEq, Repr

/-- The other module's side of a steal (R178): what a victim there answers, or a thief there whose probe arrives. -/
inductive FarSteal where
  | answer (far : List FarTask)
  | thief (t : FarThief)
deriving DecidableEq, Repr

/-- A stolen task whose write set comes back from another module (R16): its place among the tasks lent out, and the bytes of its ranges. -/
structure FarReturn where
  nth : Nat
  ranges : List (Nat × List Byte)
deriving DecidableEq, Repr

/-- A demand record of another module for one exchange (R356): source package, destination package, slots. -/
structure DemandRec where
  src : Nat
  dst : Nat
  slots : Nat
deriving DecidableEq, Repr

end Sys2Proof
end

