-- ==== Sys2Proof/Syntax.lean ====
section
/-!
DEFINITION. The instructions of the SZL-M8: one constructor per row of spec/opcode_table.json, in the table's order.
The 240 rows with a word carry the fields of the table (each under the table's name, at its width); the 91 rows without
a word are the other steps of the machine and carry what the environment gives them.
-/
namespace Sys2Proof

/-- One step of the machine by name: an instruction word (R112 to R130), or one of the steps that have no word
("What each step holds", spec/95_what_each_step_holds.md). -/
inductive Instr where
  /-- R387: Does nothing and counts as one shadow position. -/
  | nop
  /-- R387: Raises a break trap (CAUSE 0x15) that carries a 15-bit code. -/
  | brk (n : BitVec 15)
  /-- R388: Reads a control register into a scalar register once no earlier write to it is pending. -/
  | crr (d : BitVec 5) (h : BitVec 5) (l : BitVec 5)
  /-- R388: Writes a scalar register to a control register, with reserved bits forced to zero. -/
  | crw (h : BitVec 5) (a : BitVec 5) (l : BitVec 5)
  /-- R388: Sets the control-register bits that are set in a scalar register, as one step. -/
  | crs (h : BitVec 5) (a : BitVec 5) (l : BitVec 5)
  /-- R388: Clears the control-register bits that are set in a scalar register, as one step. -/
  | crc (h : BitVec 5) (a : BitVec 5) (l : BitVec 5)
  /-- R55: Seals a staged code object in the code heap and returns its object id or a status code. -/
  | publish (d : BitVec 5) (a : BitVec 5) (b : BitVec 5)
  /-- R137: Integer addition, modulo 2^64. -/
  | add (d : BitVec 5) (a : BitVec 5) (b : BitVec 5)
  /-- R137: Integer subtraction, modulo 2^64. -/
  | sub (d : BitVec 5) (a : BitVec 5) (b : BitVec 5)
  /-- R137: Bitwise AND. -/
  | and (d : BitVec 5) (a : BitVec 5) (b : BitVec 5)
  /-- R137: Bitwise OR. -/
  | or (d : BitVec 5) (a : BitVec 5) (b : BitVec 5)
  /-- R137: Bitwise exclusive OR. -/
  | xor (d : BitVec 5) (a : BitVec 5) (b : BitVec 5)
  /-- R137: x AND NOT y. -/
  | andn (d : BitVec 5) (a : BitVec 5) (b : BitVec 5)
  /-- R137: x OR NOT y. -/
  | orn (d : BitVec 5) (a : BitVec 5) (b : BitVec 5)
  /-- R137: Shift left by y[5:0]. -/
  | sll (d : BitVec 5) (a : BitVec 5) (b : BitVec 5)
  /-- R137: Logical shift right by y[5:0]. -/
  | srl (d : BitVec 5) (a : BitVec 5) (b : BitVec 5)
  /-- R137: Arithmetic shift right by y[5:0]. -/
  | sra (d : BitVec 5) (a : BitVec 5) (b : BitVec 5)
  /-- R137: Rotate left by y[5:0]. -/
  | rol (d : BitVec 5) (a : BitVec 5) (b : BitVec 5)
  /-- R137: Rotate right by y[5:0]. -/
  | ror (d : BitVec 5) (a : BitVec 5) (b : BitVec 5)
  /-- R137: Signed set-less-than. -/
  | slt (d : BitVec 5) (a : BitVec 5) (b : BitVec 5)
  /-- R137: Unsigned set-less-than. -/
  | sltu (d : BitVec 5) (a : BitVec 5) (b : BitVec 5)
  /-- R137: Signed minimum. -/
  | min (d : BitVec 5) (a : BitVec 5) (b : BitVec 5)
  /-- R137: Signed maximum. -/
  | max (d : BitVec 5) (a : BitVec 5) (b : BitVec 5)
  /-- R137: Unsigned minimum. -/
  | minu (d : BitVec 5) (a : BitVec 5) (b : BitVec 5)
  /-- R137: Unsigned maximum. -/
  | maxu (d : BitVec 5) (a : BitVec 5) (b : BitVec 5)
  /-- R137: Low 64 bits of the product; long-latency. -/
  | mul (d : BitVec 5) (a : BitVec 5) (b : BitVec 5) (l : BitVec 4)
  /-- R137: High 64 bits of the signed product. -/
  | mulh (d : BitVec 5) (a : BitVec 5) (b : BitVec 5) (l : BitVec 4)
  /-- R137: High 64 bits of the unsigned product. -/
  | mulhu (d : BitVec 5) (a : BitVec 5) (b : BitVec 5) (l : BitVec 4)
  /-- R139: Signed division rounded toward zero; never traps. -/
  | div (d : BitVec 5) (a : BitVec 5) (b : BitVec 5) (l : BitVec 4)
  /-- R139: Unsigned division. -/
  | divu (d : BitVec 5) (a : BitVec 5) (b : BitVec 5) (l : BitVec 4)
  /-- R139: Signed remainder. -/
  | rem (d : BitVec 5) (a : BitVec 5) (b : BitVec 5) (l : BitVec 4)
  /-- R139: Unsigned remainder. -/
  | remu (d : BitVec 5) (a : BitVec 5) (b : BitVec 5) (l : BitVec 4)
  /-- R137: Count of leading zero bits. -/
  | clz (d : BitVec 5) (a : BitVec 5)
  /-- R137: Count of trailing zero bits. -/
  | ctz (d : BitVec 5) (a : BitVec 5)
  /-- R137: Count of one bits. -/
  | popc (d : BitVec 5) (a : BitVec 5)
  /-- R137: Reverses the byte order. -/
  | bswap (d : BitVec 5) (a : BitVec 5)
  /-- R137: Sign-extends from bit 7. -/
  | sextb (d : BitVec 5) (a : BitVec 5)
  /-- R137: Sign-extends from bit 15. -/
  | sexth (d : BitVec 5) (a : BitVec 5)
  /-- R137: Sign-extends from bit 31. -/
  | sextw (d : BitVec 5) (a : BitVec 5)
  /-- R137: Zero-extends from bit 7. -/
  | zextb (d : BitVec 5) (a : BitVec 5)
  /-- R137: Zero-extends from bit 15. -/
  | zexth (d : BitVec 5) (a : BitVec 5)
  /-- R137: Zero-extends from bit 31. -/
  | zextw (d : BitVec 5) (a : BitVec 5)
  /-- R140: Conditional move of s[b] into s[d] when s[a] is non-zero. -/
  | csel (d : BitVec 5) (a : BitVec 5) (b : BitVec 5)
  /-- R142: Adds a sign-extended immediate. -/
  | addi (d : BitVec 5) (a : BitVec 5) (i : BitVec 16)
  /-- R142: ANDs a zero-extended immediate. -/
  | andi (d : BitVec 5) (a : BitVec 5) (i : BitVec 16)
  /-- R142: ORs a zero-extended immediate. -/
  | ori (d : BitVec 5) (a : BitVec 5) (i : BitVec 16)
  /-- R142: XORs a zero-extended immediate. -/
  | xori (d : BitVec 5) (a : BitVec 5) (i : BitVec 16)
  /-- R142: Signed compare with a sign-extended immediate. -/
  | slti (d : BitVec 5) (a : BitVec 5) (i : BitVec 16)
  /-- R142: Unsigned compare with a sign-extended immediate. -/
  | sltiu (d : BitVec 5) (a : BitVec 5) (i : BitVec 16)
  /-- R143: Shift left by an immediate amount. -/
  | slli (d : BitVec 5) (a : BitVec 5) (n : BitVec 6)
  /-- R143: Logical shift right by an immediate amount. -/
  | srli (d : BitVec 5) (a : BitVec 5) (n : BitVec 6)
  /-- R143: Arithmetic shift right by an immediate amount. -/
  | srai (d : BitVec 5) (a : BitVec 5) (n : BitVec 6)
  /-- R143: Rotate right by an immediate amount. -/
  | rori (d : BitVec 5) (a : BitVec 5) (n : BitVec 6)
  /-- R142: Loads the immediate shifted left by 16, sign-extended from bit 31. -/
  | lui (d : BitVec 5) (i : BitVec 16)
  /-- R142: Shifts left by 16 and inserts the immediate. -/
  | insh (d : BitVec 5) (a : BitVec 5) (i : BitVec 16)
  /-- R144: Predicate set when the registers are equal. -/
  | ceq (p : BitVec 3) (a : BitVec 5) (b : BitVec 5)
  /-- R144: Predicate set when the registers are not equal. -/
  | cne (p : BitVec 3) (a : BitVec 5) (b : BitVec 5)
  /-- R144: Predicate set on a signed less-than. -/
  | clt (p : BitVec 3) (a : BitVec 5) (b : BitVec 5)
  /-- R144: Predicate set on an unsigned less-than. -/
  | cltu (p : BitVec 3) (a : BitVec 5) (b : BitVec 5)
  /-- R144: Predicate set on a signed greater-or-equal. -/
  | cge (p : BitVec 3) (a : BitVec 5) (b : BitVec 5)
  /-- R144: Predicate set on an unsigned greater-or-equal. -/
  | cgeu (p : BitVec 3) (a : BitVec 5) (b : BitVec 5)
  /-- R145: FP32 equality into a predicate. -/
  | fceq (p : BitVec 3) (a : BitVec 5) (b : BitVec 5)
  /-- R145: FP32 less-than into a predicate. -/
  | fclt (p : BitVec 3) (a : BitVec 5) (b : BitVec 5)
  /-- R145: FP32 less-or-equal into a predicate. -/
  | fcle (p : BitVec 3) (a : BitVec 5) (b : BitVec 5)
  /-- R145: Predicate set when either FP32 operand is NaN. -/
  | fcun (p : BitVec 3) (a : BitVec 5) (b : BitVec 5)
  /-- R144: Predicate AND. -/
  | pand (p : BitVec 3) (a : BitVec 3) (b : BitVec 3)
  /-- R144: Predicate OR. -/
  | por (p : BitVec 3) (a : BitVec 3) (b : BitVec 3)
  /-- R144: Predicate XOR. -/
  | pxor (p : BitVec 3) (a : BitVec 3) (b : BitVec 3)
  /-- R144: Predicate AND NOT. -/
  | pandn (p : BitVec 3) (a : BitVec 3) (b : BitVec 3)
  /-- R144: Predicate set when the scalar register is non-zero. -/
  | ptos (p : BitVec 3) (a : BitVec 5)
  /-- R144: Predicate set to one selected bit of a scalar register. -/
  | sbitp (p : BitVec 3) (a : BitVec 5) (b : BitVec 5)
  /-- R146: Branch if equal. -/
  | beq (a : BitVec 5) (b : BitVec 5) (o : BitVec 16)
  /-- R146: Branch if not equal. -/
  | bne (a : BitVec 5) (b : BitVec 5) (o : BitVec 16)
  /-- R146: Branch on a signed less-than. -/
  | blt (a : BitVec 5) (b : BitVec 5) (o : BitVec 16)
  /-- R146: Branch on a signed greater-or-equal. -/
  | bge (a : BitVec 5) (b : BitVec 5) (o : BitVec 16)
  /-- R146: Branch on an unsigned less-than. -/
  | bltu (a : BitVec 5) (b : BitVec 5) (o : BitVec 16)
  /-- R146: Branch on an unsigned greater-or-equal. -/
  | bgeu (a : BitVec 5) (b : BitVec 5) (o : BitVec 16)
  /-- R147: Branch when the predicate is true. -/
  | bpt (p : BitVec 3) (o : BitVec 16)
  /-- R147: Branch when the predicate is false. -/
  | bpf (p : BitVec 3) (o : BitVec 16)
  /-- R148: PC-relative jump. -/
  | j (o : BitVec 26)
  /-- R148: PC-relative jump that writes the link register s1. -/
  | jal (o : BitVec 26)
  /-- R149: Jump to a register plus an immediate, writing the return address. -/
  | jalr (d : BitVec 5) (a : BitVec 5) (i : BitVec 16)
  /-- R165: Opens a repeat frame with an immediate trip count and field strides. -/
  | rpt (n : BitVec 4) (x : BitVec 2) (y : BitVec 2) (z : BitVec 2) (t : BitVec 16)
  /-- R165: Opens a repeat frame whose trip count comes from a register. -/
  | rptr (n : BitVec 4) (x : BitVec 2) (y : BitVec 2) (z : BitVec 2) (b : BitVec 5)
  /-- R152: FP32 addition. -/
  | fadd (d : BitVec 5) (a : BitVec 5) (b : BitVec 5) (l : BitVec 4)
  /-- R152: FP32 subtraction. -/
  | fsub (d : BitVec 5) (a : BitVec 5) (b : BitVec 5) (l : BitVec 4)
  /-- R152: FP32 multiplication. -/
  | fmul (d : BitVec 5) (a : BitVec 5) (b : BitVec 5) (l : BitVec 4)
  /-- R153: FP32 division. -/
  | fdiv (d : BitVec 5) (a : BitVec 5) (b : BitVec 5) (l : BitVec 4)
  /-- R153: FP32 square root. -/
  | fsqrt (d : BitVec 5) (a : BitVec 5) (l : BitVec 4)
  /-- R154: Fused d + a × b, rounded once. -/
  | fmac (d : BitVec 5) (a : BitVec 5) (b : BitVec 5) (l : BitVec 4)
  /-- R155: FP32 minimum. -/
  | fmin (d : BitVec 5) (a : BitVec 5) (b : BitVec 5) (l : BitVec 4)
  /-- R155: FP32 maximum. -/
  | fmax (d : BitVec 5) (a : BitVec 5) (b : BitVec 5) (l : BitVec 4)
  /-- R156: Rounds to an integral FP32 value in FRM mode. -/
  | frnd (d : BitVec 5) (a : BitVec 5) (l : BitVec 4)
  /-- R157: Writes a one-hot class mask of an FP32 value. -/
  | fclass (d : BitVec 5) (a : BitVec 5) (l : BitVec 4)
  /-- R158: Converts FP32 to INT32 with saturation. -/
  | fcvtWS (d : BitVec 5) (a : BitVec 5) (l : BitVec 4)
  /-- R158: Converts INT32 to FP32. -/
  | fcvtSW (d : BitVec 5) (a : BitVec 5) (l : BitVec 4)
  /-- R158: Widens BF16 to FP32. -/
  | fcvtSBf (d : BitVec 5) (a : BitVec 5) (l : BitVec 4)
  /-- R158: Narrows FP32 to BF16. -/
  | fcvtBfS (d : BitVec 5) (a : BitVec 5) (l : BitVec 4)
  /-- R158: Widens FP16 to FP32. -/
  | fcvtSH (d : BitVec 5) (a : BitVec 5) (l : BitVec 4)
  /-- R158: Narrows FP32 to FP16. -/
  | fcvtHS (d : BitVec 5) (a : BitVec 5) (l : BitVec 4)
  /-- R158: Widens E4M3 to FP32. -/
  | fcvtSE4 (d : BitVec 5) (a : BitVec 5) (l : BitVec 4)
  /-- R158: Narrows FP32 to E4M3. -/
  | fcvtE4S (d : BitVec 5) (a : BitVec 5) (l : BitVec 4)
  /-- R158: Widens E5M2 to FP32. -/
  | fcvtSE5 (d : BitVec 5) (a : BitVec 5) (l : BitVec 4)
  /-- R158: Narrows FP32 to E5M2. -/
  | fcvtE5S (d : BitVec 5) (a : BitVec 5) (l : BitVec 4)
  /-- R206: Loads a sign-extended byte. -/
  | ldb (d : BitVec 5) (a : BitVec 5) (o : BitVec 9) (l : BitVec 4)
  /-- R206: Loads a zero-extended byte. -/
  | ldbu (d : BitVec 5) (a : BitVec 5) (o : BitVec 9) (l : BitVec 4)
  /-- R206: Loads a sign-extended halfword. -/
  | ldh (d : BitVec 5) (a : BitVec 5) (o : BitVec 9) (l : BitVec 4)
  /-- R206: Loads a zero-extended halfword. -/
  | ldhu (d : BitVec 5) (a : BitVec 5) (o : BitVec 9) (l : BitVec 4)
  /-- R206: Loads a sign-extended word. -/
  | ldw (d : BitVec 5) (a : BitVec 5) (o : BitVec 9) (l : BitVec 4)
  /-- R206: Loads a zero-extended word. -/
  | ldwu (d : BitVec 5) (a : BitVec 5) (o : BitVec 9) (l : BitVec 4)
  /-- R206: Loads a doubleword. -/
  | ldd (d : BitVec 5) (a : BitVec 5) (o : BitVec 9) (l : BitVec 4)
  /-- R206: Stores a byte. -/
  | stb (d : BitVec 5) (a : BitVec 5) (o : BitVec 9) (l : BitVec 4)
  /-- R206: Stores a halfword. -/
  | sth (d : BitVec 5) (a : BitVec 5) (o : BitVec 9) (l : BitVec 4)
  /-- R206: Stores a word. -/
  | stw (d : BitVec 5) (a : BitVec 5) (o : BitVec 9) (l : BitVec 4)
  /-- R206: Stores a doubleword. -/
  | std (d : BitVec 5) (a : BitVec 5) (o : BitVec 9) (l : BitVec 4)
  /-- R305: Stores eight registers as one 64-byte indivisible store; to the queue window it pushes a matrix command. -/
  | st64 (d : BitVec 2) (a : BitVec 5) (o : BitVec 9) (l : BitVec 4)
  /-- R209: Stores a doubleword and sets its full/empty bit as one release step. -/
  | stfl (d : BitVec 5) (a : BitVec 5) (o : BitVec 9) (l : BitVec 4)
  /-- R209: Waits until the word is full, then loads it. -/
  | ldf (d : BitVec 5) (a : BitVec 5) (o : BitVec 9) (l : BitVec 4)
  /-- R209: Waits until the word is full, then loads it and empties it in one step. -/
  | ldfe (d : BitVec 5) (a : BitVec 5) (o : BitVec 9) (l : BitVec 4)
  /-- R209: Reads a word's full/empty bit without waiting. -/
  | fetest (d : BitVec 5) (a : BitVec 5) (o : BitVec 9) (l : BitVec 4)
  /-- R209: Clears a word's full/empty bit. -/
  | feclr (a : BitVec 5) (o : BitVec 9) (l : BitVec 4)
  /-- R218: Atomic add at the teller; returns the old word. -/
  | amoadd (d : BitVec 5) (a : BitVec 5) (b : BitVec 5) (r : BitVec 2) (l : BitVec 4)
  /-- R218: Atomic swap. -/
  | amoswp (d : BitVec 5) (a : BitVec 5) (b : BitVec 5) (r : BitVec 2) (l : BitVec 4)
  /-- R218: Atomic compare-and-swap against s[d]. -/
  | amocas (d : BitVec 5) (a : BitVec 5) (b : BitVec 5) (r : BitVec 2) (l : BitVec 4)
  /-- R218: Atomic signed minimum. -/
  | amomin (d : BitVec 5) (a : BitVec 5) (b : BitVec 5) (r : BitVec 2) (l : BitVec 4)
  /-- R218: Atomic signed maximum. -/
  | amomax (d : BitVec 5) (a : BitVec 5) (b : BitVec 5) (r : BitVec 2) (l : BitVec 4)
  /-- R218: Atomic unsigned minimum. -/
  | amominu (d : BitVec 5) (a : BitVec 5) (b : BitVec 5) (r : BitVec 2) (l : BitVec 4)
  /-- R218: Atomic unsigned maximum. -/
  | amomaxu (d : BitVec 5) (a : BitVec 5) (b : BitVec 5) (r : BitVec 2) (l : BitVec 4)
  /-- R218: Atomic AND. -/
  | amoand (d : BitVec 5) (a : BitVec 5) (b : BitVec 5) (r : BitVec 2) (l : BitVec 4)
  /-- R218: Atomic OR. -/
  | amoor (d : BitVec 5) (a : BitVec 5) (b : BitVec 5) (r : BitVec 2) (l : BitVec 4)
  /-- R218: Atomic XOR. -/
  | amoxor (d : BitVec 5) (a : BitVec 5) (b : BitVec 5) (r : BitVec 2) (l : BitVec 4)
  /-- R218: Adds an FP32 value to an exact slot. -/
  | redx (a : BitVec 5) (b : BitVec 5) (r : BitVec 2) (l : BitVec 4)
  /-- R218: Adds a scaled integer value to an exact slot. -/
  | redq (a : BitVec 5) (b : BitVec 5) (r : BitVec 2) (l : BitVec 4)
  /-- R223: Reads an exact slot, rounded once, into a register pair together with its NaN origin. -/
  | redget (d : BitVec 4) (a : BitVec 5) (b : BitVec 5) (r : BitVec 2) (l : BitVec 4)
  /-- R222: Empties an exact slot and frees it. -/
  | redclr (a : BitVec 5) (r : BitVec 2) (l : BitVec 4)
  /-- R349: Sends a two-doubleword message to a logical core and returns accepted or refused. -/
  | send (d : BitVec 5) (a : BitVec 4) (b : BitVec 5)
  /-- R349: Waits for and takes the oldest accepted message. -/
  | recv (d : BitVec 4)
  /-- R349: Takes the oldest message without waiting, or reports that none is held. -/
  | recvp (d : BitVec 4)
  /-- R175: Pushes a task entry on the young end of the deque. -/
  | tkpush (d : BitVec 5) (a : BitVec 5) (b : BitVec 5)
  /-- R176: Pops a task, probing victims when the deque is empty, and sets up the task. -/
  | tkpop (d : BitVec 4)
  /-- R177: Ends the current task, or ends the core's work when nothing remains. -/
  | tkdone
  /-- R171: Makes the core a follower of another core of its stable. -/
  | gang (a : BitVec 5)
  /-- R171: Ends ganging. -/
  | ungang
  /-- R342: Arrives at a barrier episode at a domain level and waits for it to complete. -/
  | bar (l : BitVec 3)
  /-- R343: Arrives at a vote episode and receives the combined value. -/
  | vote (d : BitVec 5) (a : BitVec 5) (o : BitVec 2) (l : BitVec 3)
  /-- R344: Arrives at a phase episode, then flips the phase kind and advances the superstep. -/
  | phase (l : BitVec 3)
  /-- R346: Waits for masked event bits, then returns and clears them. -/
  | wfe (d : BitVec 5) (a : BitVec 5)
  /-- R346: Sets an event bit in another logical core's latch, as a release. -/
  | sev (a : BitVec 5) (b : BitVec 5)
  /-- R258: Sleeps until a CYC value, then checks the copy promises due by then. -/
  | waitt (d : BitVec 5) (a : BitVec 5)
  /-- R239: Waits for accesses in a scope (and engines with all), drops far lines, and returns and clears FSTAT. -/
  | fence (d : BitVec 5) (s : BitVec 2) (w : BitVec 1)
  /-- R243: Orders complex records against the complex cache and drops this core's resident lines. -/
  | cfence
  /-- R248: Hands a copy request to the copy FIFO, waiting for space, and returns its promise. -/
  | cpy (d : BitVec 5) (a : BitVec 3) (l : BitVec 4)
  /-- R248: As CPY, but writes 0 and pushes nothing when the FIFO is full. -/
  | cpynb (d : BitVec 5) (a : BitVec 3) (l : BitVec 4)
  /-- R250: Reads the copy FIFO status and clears FL. -/
  | cpyq (d : BitVec 5) (l : BitVec 4)
  /-- R355: Declares exchange demand in bytes toward a core's module. -/
  | dpost (a : BitVec 5) (b : BitVec 5) (l : BitVec 4)
  /-- R364: Arrives at an exchange, moves the listed parcels and returns a status. -/
  | xchg (d : BitVec 5) (a : BitVec 5) (b : BitVec 5) (l : BitVec 4)
  /-- R367: Reads one item of the last exchange report. -/
  | calq (d : BitVec 5) (a : BitVec 5) (l : BitVec 4)
  /-- R370: Copy-FIFO request that gathers scattered words into dense local data. -/
  | gather (d : BitVec 5) (a : BitVec 3) (l : BitVec 4)
  /-- R370: Copy-FIFO request that scatters dense data by store or by AMOADD. -/
  | scatter (d : BitVec 5) (a : BitVec 3) (l : BitVec 4)
  /-- R372: Sends token rows to expert buffers through count-word atomics. -/
  | dispatch (d : BitVec 5) (a : BitVec 3) (l : BitVec 4)
  /-- R372: Returns expert result rows to their origins by tag. -/
  | combine (d : BitVec 5) (a : BitVec 3) (l : BitVec 4)
  /-- R212: Reads and checks a stream descriptor and binds the port. -/
  | sbind (n : BitVec 3)
  /-- R212: Drains, discards buffered reads, and unbinds a port. -/
  | sfree (n : BitVec 3)
  /-- R212: Waits until every pushed element of a write stream is performed. -/
  | sdrain (n : BitVec 3)
  /-- R213: Reads a port's status without trapping. -/
  | sstat (d : BitVec 5) (n : BitVec 3)
  /-- R317: Copies a whole accumulator tile to local memory. -/
  | accrd (t : BitVec 4) (a : BitVec 5) (b : BitVec 5) (l : BitVec 4)
  /-- R317: Copies local memory into a whole accumulator tile and sets its type. -/
  | accwr (t : BitVec 4) (a : BitVec 5) (b : BitVec 5) (l : BitVec 4)
  /-- R318: Waits for matrix commands up to a sequence number, then returns and clears MXFL. -/
  | mxwait (d : BitVec 5) (a : BitVec 5) (l : BitVec 4)
  /-- R319: Returns the sequence number of the most recently accepted matrix command. -/
  | mxseq (d : BitVec 5) (l : BitVec 4)
  /-- R268: Elementwise addition of handles. -/
  | vadd (d : BitVec 4) (a : BitVec 4) (b : BitVec 4) (g : BitVec 3) (l : BitVec 4)
  /-- R268: Elementwise subtraction. -/
  | vsub (d : BitVec 4) (a : BitVec 4) (b : BitVec 4) (g : BitVec 3) (l : BitVec 4)
  /-- R268: Elementwise multiplication. -/
  | vmul (d : BitVec 4) (a : BitVec 4) (b : BitVec 4) (g : BitVec 3) (l : BitVec 4)
  /-- R268: Elementwise division. -/
  | vdiv (d : BitVec 4) (a : BitVec 4) (b : BitVec 4) (g : BitVec 3) (l : BitVec 4)
  /-- R268: Elementwise minimum. -/
  | vmin (d : BitVec 4) (a : BitVec 4) (b : BitVec 4) (g : BitVec 3) (l : BitVec 4)
  /-- R268: Elementwise maximum. -/
  | vmax (d : BitVec 4) (a : BitVec 4) (b : BitVec 4) (g : BitVec 3) (l : BitVec 4)
  /-- R268: Elementwise fused C + A × B. -/
  | vfma (d : BitVec 4) (a : BitVec 4) (b : BitVec 4) (g : BitVec 3) (l : BitVec 4)
  /-- R268: Elementwise fused C − A × B. -/
  | vfms (d : BitVec 4) (a : BitVec 4) (b : BitVec 4) (g : BitVec 3) (l : BitVec 4)
  /-- R269: Elementwise bitwise AND. -/
  | vand (d : BitVec 4) (a : BitVec 4) (b : BitVec 4) (g : BitVec 3) (l : BitVec 4)
  /-- R269: Elementwise bitwise OR. -/
  | vor (d : BitVec 4) (a : BitVec 4) (b : BitVec 4) (g : BitVec 3) (l : BitVec 4)
  /-- R269: Elementwise bitwise XOR. -/
  | vxor (d : BitVec 4) (a : BitVec 4) (b : BitVec 4) (g : BitVec 3) (l : BitVec 4)
  /-- R269: Elementwise greater-than into a BIT mask. -/
  | vcgt (d : BitVec 4) (a : BitVec 4) (b : BitVec 4) (g : BitVec 3) (l : BitVec 4)
  /-- R269: Elementwise greater-or-equal into a BIT mask. -/
  | vcge (d : BitVec 4) (a : BitVec 4) (b : BitVec 4) (g : BitVec 3) (l : BitVec 4)
  /-- R269: Elementwise equality into a BIT mask. -/
  | vceq (d : BitVec 4) (a : BitVec 4) (b : BitVec 4) (g : BitVec 3) (l : BitVec 4)
  /-- R269: Elementwise select of B under a BIT mask. -/
  | vsel (d : BitVec 4) (a : BitVec 4) (b : BitVec 4) (g : BitVec 3) (l : BitVec 4)
  /-- R271: Copies element bits unchanged. -/
  | vmov (d : BitVec 4) (a : BitVec 4) (g : BitVec 3) (l : BitVec 4)
  /-- R271: Elementwise square root, correctly rounded. -/
  | vsqrt (d : BitVec 4) (a : BitVec 4) (g : BitVec 3) (l : BitVec 4)
  /-- R271: Elementwise reciprocal. -/
  | vrcp (d : BitVec 4) (a : BitVec 4) (g : BitVec 3) (l : BitVec 4)
  /-- R271: Elementwise reciprocal square root. -/
  | vrsq (d : BitVec 4) (a : BitVec 4) (g : BitVec 3) (l : BitVec 4)
  /-- R271: Elementwise power of two. -/
  | vexp2 (d : BitVec 4) (a : BitVec 4) (g : BitVec 3) (l : BitVec 4)
  /-- R271: Elementwise base-2 logarithm. -/
  | vlog2 (d : BitVec 4) (a : BitVec 4) (g : BitVec 3) (l : BitVec 4)
  /-- R271: Elementwise conversion between encodings. -/
  | vcvt (d : BitVec 4) (a : BitVec 4) (g : BitVec 3) (l : BitVec 4)
  /-- R272: Adds a scalar to each element. -/
  | vadds (d : BitVec 4) (a : BitVec 4) (s : BitVec 5) (g : BitVec 3) (l : BitVec 4)
  /-- R272: Subtracts a scalar from each element. -/
  | vsubs (d : BitVec 4) (a : BitVec 4) (s : BitVec 5) (g : BitVec 3) (l : BitVec 4)
  /-- R272: Multiplies each element by a scalar. -/
  | vmuls (d : BitVec 4) (a : BitVec 4) (s : BitVec 5) (g : BitVec 3) (l : BitVec 4)
  /-- R272: Fused C + A × x for each element. -/
  | vfmas (d : BitVec 4) (a : BitVec 4) (s : BitVec 5) (g : BitVec 3) (l : BitVec 4)
  /-- R272: Elementwise minimum with a scalar. -/
  | vmins (d : BitVec 4) (a : BitVec 4) (s : BitVec 5) (g : BitVec 3) (l : BitVec 4)
  /-- R272: Elementwise maximum with a scalar. -/
  | vmaxs (d : BitVec 4) (a : BitVec 4) (s : BitVec 5) (g : BitVec 3) (l : BitVec 4)
  /-- R272: Fills every element with a scalar. -/
  | vfill (d : BitVec 4) (s : BitVec 5) (g : BitVec 3) (l : BitVec 4)
  /-- R273: Reads one element into a scalar register. -/
  | vgete (a : BitVec 4) (s : BitVec 4) (g : BitVec 3) (l : BitVec 4)
  /-- R273: Writes one element from a scalar register, rounded once. -/
  | vpute (d : BitVec 4) (s : BitVec 4) (g : BitVec 3) (l : BitVec 4)
  /-- R274: Exact sum of a handle's elements into a scalar register. -/
  | vsum (a : BitVec 4) (s : BitVec 5) (g : BitVec 3) (l : BitVec 4)
  /-- R274: Exact dot product of two handles into a scalar register. -/
  | vdot (b : BitVec 4) (a : BitVec 4) (s : BitVec 5) (g : BitVec 3) (l : BitVec 4)
  /-- R275: Greatest element of a handle and its lowest index. -/
  | vmaxr (a : BitVec 4) (s : BitVec 4) (g : BitVec 3) (l : BitVec 4)
  /-- R275: Least element of a handle and its lowest index. -/
  | vminr (a : BitVec 4) (s : BitVec 4) (g : BitVec 3) (l : BitVec 4)
  /-- R276: Marks the k elements of largest magnitude in a BIT mask. -/
  | topk (d : BitVec 4) (a : BitVec 4) (s : BitVec 5) (g : BitVec 3) (l : BitVec 4)
  /-- R277: Compresses four of every eight elements and returns the mask. -/
  | cmpr48 (d : BitVec 4) (a : BitVec 4) (s : BitVec 5) (g : BitVec 3) (l : BitVec 4)
  /-- R278: Expands four-in-eight compressed elements under a mask. -/
  | vdec48 (d : BitVec 4) (a : BitVec 4) (s : BitVec 5) (g : BitVec 3) (l : BitVec 4)
  /-- R279: Fills a handle with Mint draws. -/
  | vrand (d : BitVec 4) (s : BitVec 5) (g : BitVec 3) (l : BitVec 4)
  /-- R280: Defines a handle from a register pair. -/
  | kdef (d : BitVec 4) (s : BitVec 4) (g : BitVec 3) (l : BitVec 4)
  /-- R280: Reads a handle's flags and clears OV, NV and NX. -/
  | kst (a : BitVec 4) (s : BitVec 5) (g : BitVec 3) (l : BitVec 4)
  /-- R280: Copies a handle into a register pair. -/
  | kget (a : BitVec 4) (s : BitVec 4) (g : BitVec 3) (l : BitVec 4)
  /-- R281: Copies a handle with one selected field replaced. -/
  | kset (d : BitVec 4) (a : BitVec 4) (s : BitVec 5) (g : BitVec 3) (l : BitVec 4)
  /-- R282: Makes a plain-vector view of part of a handle. -/
  | kview (d : BitVec 4) (a : BitVec 4) (s : BitVec 5) (g : BitVec 3) (l : BitVec 4)
  /-- R286: Exterior derivative by signed incidences. -/
  | dext (d : BitVec 4) (a : BitVec 4) (g : BitVec 3) (l : BitVec 4)
  /-- R286: Boundary of a chain. -/
  | dbnd (d : BitVec 4) (a : BitVec 4) (g : BitVec 3) (l : BitVec 4)
  /-- R291: Hodge star: scales each element by its metric ratio. -/
  | hstar (d : BitVec 4) (a : BitVec 4) (g : BitVec 3) (l : BitVec 4)
  /-- R291: Inverse Hodge star: divides each element by its metric ratio. -/
  | hstari (d : BitVec 4) (a : BitVec 4) (g : BitVec 3) (l : BitVec 4)
  /-- R292: Antisymmetrised cup product of two primal cochains. -/
  | wedge (d : BitVec 4) (a : BitVec 4) (b : BitVec 4) (g : BitVec 3) (l : BitVec 4)
  /-- R293: Evaluates the Whitney interpolant at barycentric samples. -/
  | interp (d : BitVec 4) (a : BitVec 4) (b : BitVec 4) (g : BitVec 3) (l : BitVec 4)
  /-- R300: Transfers a coarse cochain to a refined patch through the refinement map. -/
  | prolong (d : BitVec 4) (a : BitVec 4) (g : BitVec 3) (l : BitVec 4)
  /-- R294: Gathers elements by an index vector. -/
  | gathi (d : BitVec 4) (a : BitVec 4) (b : BitVec 4) (g : BitVec 3) (l : BitVec 4)
  /-- R294: Scatter-adds elements by an index vector, with exact sums. -/
  | scati (d : BitVec 4) (a : BitVec 4) (b : BitVec 4) (g : BitVec 3) (l : BitVec 4)
  /-- R296: Checks a patch record and makes it resident in a slot. -/
  | cload (d : BitVec 5) (a : BitVec 5) (l : BitVec 4)
  /-- R297: Frees the residency slot of a patch. -/
  | cdrop (a : BitVec 5) (l : BitVec 4)
  /-- R297: Reads header, global-id, ghost or residency information of a patch. -/
  | cquery (d : BitVec 5) (a : BitVec 5) (b : BitVec 5) (l : BitVec 4)
  /-- R298: Refines a resident patch by edge bisection into an output record. -/
  | cref (d : BitVec 5) (a : BitVec 5) (l : BitVec 4)
  /-- R331: Requests ownership of the yard's race array. -/
  | tracq (d : BitVec 5) (l : BitVec 4)
  /-- R331: Releases the race array after earlier TRA instructions complete. -/
  | trrel (l : BitVec 4)
  /-- R332: Loads node records in table mode or builds them from patch incidence. -/
  | trload (a : BitVec 5) (b : BitVec 5) (l : BitVec 4)
  /-- R331: Sets one node's seed. -/
  | trset (a : BitVec 5) (b : BitVec 5) (l : BitVec 4)
  /-- R328: Runs the network for one window and returns the number of nodes that rose. -/
  | trgo (d : BitVec 5) (l : BitVec 4)
  /-- R333: Writes captures to memory and sets each word full. -/
  | trget (a : BitVec 5) (b : BitVec 5) (l : BitVec 4)
  /-- R331: Resets every seed and capture to 0xFFF. -/
  | trrst (l : BitVec 4)
  /-- R162: Computes MINT(key, counter) into a register. -/
  | mint (d : BitVec 5) (a : BitVec 5) (b : BitVec 5)
  /-- R163: Sets STREAMID and recomputes MINTKEY. -/
  | mintk (a : BitVec 5)
  /-- R125: Prefix that gives its target saturation, clamp, abs, negation and scale. -/
  | mod (t : BitVec 1) (k : BitVec 1) (a : BitVec 1) (n : BitVec 1) (b : BitVec 1) (m : BitVec 1) (e : BitVec 6) (r : BitVec 5)
  /-- R128: Hint with no action. -/
  | hnop (d : BitVec 5) (a : BitVec 5) (b : BitVec 5) (l : BitVec 4)
  /-- R128: Hint that may prefetch a line into the L1 data cache. -/
  | prefl (d : BitVec 5) (a : BitVec 5) (b : BitVec 5) (l : BitVec 4)
  /-- R128: Hint that may prefetch a line into the die cache. -/
  | prefd (d : BitVec 5) (a : BitVec 5) (b : BitVec 5) (l : BitVec 4)
  /-- R128: Hint that may pause issue for up to 16 cycles. -/
  | spinh (d : BitVec 5) (a : BitVec 5) (b : BitVec 5) (l : BitVec 4)
  /-- R118: A long-latency instruction completes, and its writes land after its shadow. -/
  | longLatencyComplete (q l : Nat)
  /-- R22: A waiting core's condition becomes true, and the core resumes. -/
  | coreWaitEnd (q l : Nat)
  /-- R60: Host CMD = 1 checks the context parameters and makes the slot live. -/
  | contextCreate (slot link : Nat)
  /-- R60: Host CMD = 2 releases the heap, translations and resources of a live context. -/
  | contextDestroy (slot : Nat)
  /-- R61: A write of QTAIL notifies the mapper of new records. -/
  | queueNotify (q tail : Nat)
  /-- R61: Clearing ERR advances QHEAD past the invalid record. -/
  | queueErrClear (q : Nat)
  /-- R65: The mapper takes a launch record, checks the image, publishes code and places the launch. -/
  | launchRecord (q : Nat)
  /-- R59: The mapper takes a publish record and hands it to the publisher. -/
  | publishRecord (q : Nat)
  /-- R64: A no-operation record completes at once with DW0 zero. -/
  | nopRecord (q : Nat)
  /-- R59: The context's publisher serves the next queued publish request. -/
  | publisherServe (slot : Nat)
  /-- R68: Once its cores are free, the launch writes tables, clears memory, copies segments and injects wake flits; `x` and `y` give, for each logical
  module in row-major order, the global coordinates of the first router of its place. -/
  | launchPlacement (q : Nat) (x y : List Nat)
  /-- R69: A router floods a wake and wakes its cores in their initial state. -/
  | wakeFlit (q x y : Nat)
  /-- R62: At each 100 µs quantum the mapper may evict a slot holder for a waiting queue. -/
  | queueQuantumEnd
  /-- R394: Once every core is done and requests are settled, the hub flushes slots, releases resources and retains cores. -/
  | launchRetirement (q : Nat)
  /-- R205: A host write queues a translation invalidation of a scope. -/
  | tlbinv (slot : Nat) (w : W64)
  /-- R205: Once entries are dropped and translated accesses have completed, the hub reports the SEQ in TLBDONE. -/
  | tlbinvDone (slot : Nat)
  /-- R381: Host RESUME re-executes the instruction at EPC. -/
  | hcmdResume (slot : Nat) (w : W64)
  /-- R381: Host SKIP leaves the trapped instruction without effect and continues after it. -/
  | hcmdSkip (slot : Nat) (w : W64)
  /-- R382: Host KILL stops every core of a queue's launch and completes it with code 0x0006. -/
  | hcmdKill (slot : Nat) (w : W64)
  /-- R380: Host abort ends a wait on a lost fabric reply or on unacknowledged posted stores. -/
  | hcmdAbt (slot : Nat) (w : W64)
  /-- R378: A host write of FRHEAD frees fault-ring slots. -/
  | frheadWrite (slot : Nat) (w : W64)
  /-- R377: The hub moves a die-queue record into the fault ring, advances FRTAIL and signals FRVEC. -/
  | faultRecordDelivery
  /-- R396: Read-back kind 0 writes a stopped core's image to host memory. -/
  | readbackCoreImage (slot : Nat) (w : W64)
  /-- R396: Read-back kind 1 writes a yard's race-array image. -/
  | readbackRaceArray (slot : Nat) (w : W64)
  /-- R396: Read-back kind 2 writes every live teller slot of a yard to its home. -/
  | readbackTellerFlush (slot : Nat) (w : W64)
  /-- R408: Reads one management register over MCTP. -/
  | mctpRead8 (h : MctpHead) (off : List Byte)
  /-- R408: Writes one management register over MCTP. -/
  | mctpWrite8 (h : MctpHead) (off data : List Byte)
  /-- R397: Stops the compute dies at one cycle boundary and writes a capture image. -/
  | freeze (h : MctpHead) (addr len : List Byte)
  /-- R413: Returns a doubly signed attestation report for a nonce. -/
  | attest (h : MctpHead) (nonce : List Byte)
  /-- R412: In recovery, verifies the image in the recovery window. -/
  | bootstLoad
  /-- R409: RAMPCFG.CLR clears RAMPTEL. -/
  | ramptelClear
  /-- R85: LNKSTAT.CLR clears a lane's counters. -/
  | lnkstatClear (side pos : Nat)
  /-- R4: A write to a register without its own row follows its access codes. -/
  | registerWrite (bar off : Nat) (w : Option W64)
  /-- R410: Every millisecond the controller adjusts KMAX against the power cap. -/
  | powerControlTick (avg peak : BitVec 16)
  /-- R409: The inlet exceeds 45 °C: KMAX is held at 64 and COOLST.HOT is set. -/
  | coolantHot (temp flow : Byte)
  /-- R409: The inlet falls below 43 °C, and the hold ends. -/
  | coolantRecover (temp flow : Byte)
  /-- R411: After a reset the boot ROM verifies the image, trains links, takes CYC and sets the incarnation. -/
  | resetBoot (image : List Byte) (train : Bool) (gd cx : Nat) (w : W64)
  /-- R399: The scrubber reads a GDDR 7 or die-cache line on its period and corrects or reports it; `err` is what has struck the word: 0 nothing, 1 an error
  that its code corrects, more for one that it cannot. -/
  | patrolScrub (die : Nat) (who : ErrRead) (loc : ErrLoc) (err : Nat)
  /-- R85: A lane trains from down to up, correcting polarity and lane order; no `rev` where its lanes are permuted in another way. -/
  | laneTraining (side pos : Nat) (pol : Bool) (rev : Option Bool)
  /-- R85: A lane that does not reach up within 1 ms becomes failed. -/
  | laneTrainingTimeout (side pos : Nat)
  /-- R85: A lane leaves the up state and a machine check (source 0x07) is sent. -/
  | laneDown (side pos : Nat)
  /-- R84: An edge-lane frame is corrected by FEC, or replayed from the sender's buffer; `sym` symbols needed it, and the other end
  asks for its last `again` frames. -/
  | edgeFrameReceive (side pos sym again : Nat) (f : LinkFrame)
  /-- R81: Each cycle a router ejects, routes or deflects every arriving flit, then injects; `lost` are the in-ports whose flit a link damaged. -/
  | routerCycle (r : Nat × Nat) (lost : List Nat)
  /-- R86: The destination serves a read request when INC matches, and otherwise answers with a NACK. -/
  | readRequestFlit (r : FabricReq)
  /-- R86: The destination performs a write request when INC matches. -/
  | writeRequestFlit (r : FabricReq) (data : List Byte) (full : Bool)
  /-- R220: A fabric atomic arrives for the teller of its target word. -/
  | atomicRequestFlit (r : FabricReq) (op : Nat) (x y : W64) (origin : BitVec 58)
  /-- R86: A read reply completes the waiting load, or is dropped on an incarnation mismatch. -/
  | readReplyFlit (inc : BitVec 4) (tag : BitVec 12) (ws : List W64)
  /-- R238: A write acknowledgement retires a posted store. -/
  | writeAckFlit (inc : BitVec 4) (tag : BitVec 12) (w : W64)
  /-- R219: An atomic reply completes the atomic and its acquire. -/
  | atomicReplyFlit (inc : BitVec 4) (tag : BitVec 12) (w v : W64)
  /-- R87: A NACK ends a waiting access with a fault, or marks a posted store failed. -/
  | nackFlit (inc : BitVec 4) (tag : BitVec 12) (code : BitVec 4)
  /-- R348: A message is accepted into the receive queue or pen, or refused. -/
  | messageFlit (r : FabricReq) (mtag : BitVec 16) (lcn : BitVec 26) (x y : W64)
  /-- R252: A copy-data flit writes destination words with byte enables and sets their full bits. -/
  | copyDataFlit (f : FlitHead) (core addr : Nat) (w : W64) (mask : Byte)
  /-- R362: A time beacon keeps CYC aligned across modules. -/
  | timeBeacon (w : W64)
  /-- R242: A flag flit writes its word and sets the word full, as STFL does. -/
  | remoteCompletionFlag (f : FlitHead) (core addr : Nat) (w : W64)
  /-- R87: A module is marked down, and routers drop its flits with NACKs to the sources. -/
  | moduleMarkedDown (pkg : Nat)
  /-- R221: Each cycle the teller accepts one port head in rotation. -/
  | tellerAccept (yard : Nat)
  /-- R221: A hot line performs its oldest queued request. -/
  | tellerExecute (yard : Nat)
  /-- R245: The engine starts a FIFO's next request once the previous one has written its last word. -/
  | copyRequestStart (q l : Nat)
  /-- R245: The engine moves one 32-byte beat, rotating over the FIFOs. -/
  | copyBeat (yard : Nat)
  /-- R256: Once a destination's writes are performed, a remote-completion flag is posted. -/
  | copyFlagPost (q l : Nat)
  /-- R305: The matrix unit starts its next command and runs its start checks. -/
  | matrixCommandStart (q l : Nat)
  /-- R314: The array performs one k-step, or a dummy step under the limiter. -/
  | matrixKStep (q l : Nat)
  /-- R314: A matrix command completes at least 16 cycles after its last step. -/
  | matrixCommandComplete (q l : Nat)
  /-- R185: At each 800-cycle window the limiter takes new step bounds. -/
  | rampWindowBoundary
  /-- R183: Each cycle the arbiter grants lane groups to at most one queue head. -/
  | cochainArbitrate (stable : Nat)
  /-- R265: A bound cochain instruction completes, and its writes and flags land. -/
  | cochainComplete (q l : Nat)
  /-- R216: The stream unit fetches read elements ahead, up to 256 bytes. -/
  | streamFetch (q l n : Nat)
  /-- R216: The stream unit performs a pushed write element in order. -/
  | streamElementWrite (q l n : Nat)
  /-- R178: The victim's steal unit moves half its entries to the thief, or returns none; `c` is a queue and a logical core of it. -/
  | stealProbe (c : Nat × Nat) (side : FarSteal)
  /-- R16: A stolen task's write set is copied back into its home core. -/
  | writeSetReturn (c : Nat × Nat) (back : Option FarReturn)
  /-- R340: The last member arrives, and the release floods back to every member. -/
  | episodeComplete (q level dom : Nat) (far : List RemoteArrival)
  /-- R355: The die's demand unit adds declared bytes and acknowledges 8 cycles later. -/
  | dpostServe (die : Nat)
  /-- R357: Holding all ready records, the primary decomposes demand into circuits and sends its calendar. -/
  | calendarCompute (q : Nat) (far : List DemandRec) (ready : List W64)
  /-- R360: At TR + 4,096 the standby sends its calendar. -/
  | standbyCalendarSend (q : Nat)
  /-- R360: A module takes the first calendar numbered k and sets its failover and late marks. -/
  | calendarTake (q : Nat) (standby : Bool) (cal : List W64)
  /-- R362: At S_i a router holds the ports of its phase-i circuits. -/
  | circuitPhaseStart (q i : Nat)
  /-- R362: At S_i + 2,096 the first router stops sending circuit flits. -/
  | circuitSendEnd (q i : Nat)
  /-- R362: The held interval ends and the ports return to deflection routing. -/
  | circuitPhaseEnd (q i : Nat)
  /-- R365: After the last phase, residue parcels go as ordinary flits. -/
  | residueSend (q : Nat)
  /-- R364: Every parcel is performed or has failed, and waiting cores take their status. -/
  | exchangeComplete (q : Nat) (far : List Nat)
  /-- R383: The save sequencer drains a core and writes its context record. -/
  | preemptionSave (q l : Nat)
  /-- R386: A saved core's record is written back onto a physical core, and the core resumes. -/
  | restoration (q l pcid : Nat)
  /-- R171: No matching forwarded word arrives within 256 cycles of GANG, and the core fetches alone. -/
  | gangWaitTimeout (q l : Nat)
  /-- R132: A follower detaches on mismatch, a full buffer, or a leader event. -/
  | gangDetach (q l why : Nat)
  /-- R129: A fetched word that is not an instruction (reserved major, reserved code, non-zero must-be-zero field or la) raises CAUSE 0x01 at decode. -/
  | illegalInstruction (w : W32)
  /-- R131: A fetch at a PC outside every sealed object, or past its object's bounds by sequential fetch, raises CAUSE 0x03. -/
  | fetchFault
  /-- R237: The hub serves one host read or write of device memory at a time, in link order, each after the previous is performed. -/
  | hostDeviceMemoryAccess (link : Nat) (op : HostOp) (addr len : Nat) (data : List Byte)
  /-- R88: A reset peer rejoins, and the module-state table takes its new incarnation and clears its down bit. -/
  | moduleRejoin (pkg : Nat) (inc : BitVec 4)
  /-- R238: A host link error fails an outstanding device store to host memory, which enters FSTAT with RSN 3. -/
  | hostLinkError (q l : Nat) (e : LinkErr)
  /-- R409: A read of PWRNOW returns PEAK and restarts PEAK, the highest 1 ms average since the last read. -/
  | pwrnowRead
  /-- R411: Loss of module power clears the register that holds the previous incarnation, so the next boot sets incarnation 0. -/
  | powerDown
deriving DecidableEq, Repr

end Sys2Proof
end

