-- ==== Sys2Proof/WellFormed.lean ====
section
/-!
DEFINITION. Which terms of Instr the machine can meet: for a word, the limits that the widths of its fields do not say (R129,
R388); for a step without a word, the ranges of what the environment names (R54, R61, R71).
-/
namespace Sys2Proof

/-- A control-register number of R389. -/
def crKnown (n : BitVec 10) : Bool :=
  let k := n.toNat
  k ≤ 0x0B || (0x10 ≤ k && k ≤ 0x16) || (0x18 ≤ k && k ≤ 0x1E) || (0x20 ≤ k && k ≤ 0x29) || (0x30 ≤ k && k ≤ 0x37)

/-- A control register that is not read-only as a whole (R389). -/
def crWritable (n : BitVec 10) : Bool :=
  let k := n.toNat
  crKnown n && !(k ≤ 0x0B || (0x18 ≤ k && k ≤ 0x1A))

/-- The step has an instruction word. -/
def isWord (i : Instr) : Bool :=
  match i with
  | .nop => true
  | .brk _ => true
  | .crr _ _ _ => true
  | .crw _ _ _ => true
  | .crs _ _ _ => true
  | .crc _ _ _ => true
  | .publish _ _ _ => true
  | .add _ _ _ => true
  | .sub _ _ _ => true
  | .and _ _ _ => true
  | .or _ _ _ => true
  | .xor _ _ _ => true
  | .andn _ _ _ => true
  | .orn _ _ _ => true
  | .sll _ _ _ => true
  | .srl _ _ _ => true
  | .sra _ _ _ => true
  | .rol _ _ _ => true
  | .ror _ _ _ => true
  | .slt _ _ _ => true
  | .sltu _ _ _ => true
  | .min _ _ _ => true
  | .max _ _ _ => true
  | .minu _ _ _ => true
  | .maxu _ _ _ => true
  | .mul _ _ _ _ => true
  | .mulh _ _ _ _ => true
  | .mulhu _ _ _ _ => true
  | .div _ _ _ _ => true
  | .divu _ _ _ _ => true
  | .rem _ _ _ _ => true
  | .remu _ _ _ _ => true
  | .clz _ _ => true
  | .ctz _ _ => true
  | .popc _ _ => true
  | .bswap _ _ => true
  | .sextb _ _ => true
  | .sexth _ _ => true
  | .sextw _ _ => true
  | .zextb _ _ => true
  | .zexth _ _ => true
  | .zextw _ _ => true
  | .csel _ _ _ => true
  | .addi _ _ _ => true
  | .andi _ _ _ => true
  | .ori _ _ _ => true
  | .xori _ _ _ => true
  | .slti _ _ _ => true
  | .sltiu _ _ _ => true
  | .slli _ _ _ => true
  | .srli _ _ _ => true
  | .srai _ _ _ => true
  | .rori _ _ _ => true
  | .lui _ _ => true
  | .insh _ _ _ => true
  | .ceq _ _ _ => true
  | .cne _ _ _ => true
  | .clt _ _ _ => true
  | .cltu _ _ _ => true
  | .cge _ _ _ => true
  | .cgeu _ _ _ => true
  | .fceq _ _ _ => true
  | .fclt _ _ _ => true
  | .fcle _ _ _ => true
  | .fcun _ _ _ => true
  | .pand _ _ _ => true
  | .por _ _ _ => true
  | .pxor _ _ _ => true
  | .pandn _ _ _ => true
  | .ptos _ _ => true
  | .sbitp _ _ _ => true
  | .beq _ _ _ => true
  | .bne _ _ _ => true
  | .blt _ _ _ => true
  | .bge _ _ _ => true
  | .bltu _ _ _ => true
  | .bgeu _ _ _ => true
  | .bpt _ _ => true
  | .bpf _ _ => true
  | .j _ => true
  | .jal _ => true
  | .jalr _ _ _ => true
  | .rpt _ _ _ _ _ => true
  | .rptr _ _ _ _ _ => true
  | .fadd _ _ _ _ => true
  | .fsub _ _ _ _ => true
  | .fmul _ _ _ _ => true
  | .fdiv _ _ _ _ => true
  | .fsqrt _ _ _ => true
  | .fmac _ _ _ _ => true
  | .fmin _ _ _ _ => true
  | .fmax _ _ _ _ => true
  | .frnd _ _ _ => true
  | .fclass _ _ _ => true
  | .fcvtWS _ _ _ => true
  | .fcvtSW _ _ _ => true
  | .fcvtSBf _ _ _ => true
  | .fcvtBfS _ _ _ => true
  | .fcvtSH _ _ _ => true
  | .fcvtHS _ _ _ => true
  | .fcvtSE4 _ _ _ => true
  | .fcvtE4S _ _ _ => true
  | .fcvtSE5 _ _ _ => true
  | .fcvtE5S _ _ _ => true
  | .ldb _ _ _ _ => true
  | .ldbu _ _ _ _ => true
  | .ldh _ _ _ _ => true
  | .ldhu _ _ _ _ => true
  | .ldw _ _ _ _ => true
  | .ldwu _ _ _ _ => true
  | .ldd _ _ _ _ => true
  | .stb _ _ _ _ => true
  | .sth _ _ _ _ => true
  | .stw _ _ _ _ => true
  | .std _ _ _ _ => true
  | .st64 _ _ _ _ => true
  | .stfl _ _ _ _ => true
  | .ldf _ _ _ _ => true
  | .ldfe _ _ _ _ => true
  | .fetest _ _ _ _ => true
  | .feclr _ _ _ => true
  | .amoadd _ _ _ _ _ => true
  | .amoswp _ _ _ _ _ => true
  | .amocas _ _ _ _ _ => true
  | .amomin _ _ _ _ _ => true
  | .amomax _ _ _ _ _ => true
  | .amominu _ _ _ _ _ => true
  | .amomaxu _ _ _ _ _ => true
  | .amoand _ _ _ _ _ => true
  | .amoor _ _ _ _ _ => true
  | .amoxor _ _ _ _ _ => true
  | .redx _ _ _ _ => true
  | .redq _ _ _ _ => true
  | .redget _ _ _ _ _ => true
  | .redclr _ _ _ => true
  | .send _ _ _ => true
  | .recv _ => true
  | .recvp _ => true
  | .tkpush _ _ _ => true
  | .tkpop _ => true
  | .tkdone => true
  | .gang _ => true
  | .ungang => true
  | .bar _ => true
  | .vote _ _ _ _ => true
  | .phase _ => true
  | .wfe _ _ => true
  | .sev _ _ => true
  | .waitt _ _ => true
  | .fence _ _ _ => true
  | .cfence => true
  | .cpy _ _ _ => true
  | .cpynb _ _ _ => true
  | .cpyq _ _ => true
  | .dpost _ _ _ => true
  | .xchg _ _ _ _ => true
  | .calq _ _ _ => true
  | .gather _ _ _ => true
  | .scatter _ _ _ => true
  | .dispatch _ _ _ => true
  | .combine _ _ _ => true
  | .sbind _ => true
  | .sfree _ => true
  | .sdrain _ => true
  | .sstat _ _ => true
  | .accrd _ _ _ _ => true
  | .accwr _ _ _ _ => true
  | .mxwait _ _ _ => true
  | .mxseq _ _ => true
  | .vadd _ _ _ _ _ => true
  | .vsub _ _ _ _ _ => true
  | .vmul _ _ _ _ _ => true
  | .vdiv _ _ _ _ _ => true
  | .vmin _ _ _ _ _ => true
  | .vmax _ _ _ _ _ => true
  | .vfma _ _ _ _ _ => true
  | .vfms _ _ _ _ _ => true
  | .vand _ _ _ _ _ => true
  | .vor _ _ _ _ _ => true
  | .vxor _ _ _ _ _ => true
  | .vcgt _ _ _ _ _ => true
  | .vcge _ _ _ _ _ => true
  | .vceq _ _ _ _ _ => true
  | .vsel _ _ _ _ _ => true
  | .vmov _ _ _ _ => true
  | .vsqrt _ _ _ _ => true
  | .vrcp _ _ _ _ => true
  | .vrsq _ _ _ _ => true
  | .vexp2 _ _ _ _ => true
  | .vlog2 _ _ _ _ => true
  | .vcvt _ _ _ _ => true
  | .vadds _ _ _ _ _ => true
  | .vsubs _ _ _ _ _ => true
  | .vmuls _ _ _ _ _ => true
  | .vfmas _ _ _ _ _ => true
  | .vmins _ _ _ _ _ => true
  | .vmaxs _ _ _ _ _ => true
  | .vfill _ _ _ _ => true
  | .vgete _ _ _ _ => true
  | .vpute _ _ _ _ => true
  | .vsum _ _ _ _ => true
  | .vdot _ _ _ _ _ => true
  | .vmaxr _ _ _ _ => true
  | .vminr _ _ _ _ => true
  | .topk _ _ _ _ _ => true
  | .cmpr48 _ _ _ _ _ => true
  | .vdec48 _ _ _ _ _ => true
  | .vrand _ _ _ _ => true
  | .kdef _ _ _ _ => true
  | .kst _ _ _ _ => true
  | .kget _ _ _ _ => true
  | .kset _ _ _ _ _ => true
  | .kview _ _ _ _ _ => true
  | .dext _ _ _ _ => true
  | .dbnd _ _ _ _ => true
  | .hstar _ _ _ _ => true
  | .hstari _ _ _ _ => true
  | .wedge _ _ _ _ _ => true
  | .interp _ _ _ _ _ => true
  | .prolong _ _ _ _ => true
  | .gathi _ _ _ _ _ => true
  | .scati _ _ _ _ _ => true
  | .cload _ _ _ => true
  | .cdrop _ _ => true
  | .cquery _ _ _ _ => true
  | .cref _ _ _ => true
  | .tracq _ _ => true
  | .trrel _ => true
  | .trload _ _ _ => true
  | .trset _ _ _ => true
  | .trgo _ _ => true
  | .trget _ _ _ => true
  | .trrst _ => true
  | .mint _ _ _ => true
  | .mintk _ => true
  | .mod _ _ _ _ _ _ _ _ => true
  | .hnop _ _ _ _ => true
  | .prefl _ _ _ _ => true
  | .prefd _ _ _ _ => true
  | .spinh _ _ _ _ => true
  | .longLatencyComplete _ _ => false
  | .coreWaitEnd _ _ => false
  | .contextCreate _ _ => false
  | .contextDestroy _ => false
  | .queueNotify _ _ => false
  | .queueErrClear _ => false
  | .launchRecord _ => false
  | .publishRecord _ => false
  | .nopRecord _ => false
  | .publisherServe _ => false
  | .launchPlacement _ _ _ => false
  | .wakeFlit _ _ _ => false
  | .queueQuantumEnd => false
  | .launchRetirement _ => false
  | .tlbinv _ _ => false
  | .tlbinvDone _ => false
  | .hcmdResume _ _ => false
  | .hcmdSkip _ _ => false
  | .hcmdKill _ _ => false
  | .hcmdAbt _ _ => false
  | .frheadWrite _ _ => false
  | .faultRecordDelivery => false
  | .readbackCoreImage _ _ => false
  | .readbackRaceArray _ _ => false
  | .readbackTellerFlush _ _ => false
  | .mctpRead8 _ _ => false
  | .mctpWrite8 _ _ _ => false
  | .freeze _ _ _ => false
  | .attest _ _ => false
  | .bootstLoad => false
  | .ramptelClear => false
  | .lnkstatClear _ _ => false
  | .registerWrite _ _ _ => false
  | .powerControlTick _ _ => false
  | .coolantHot _ _ => false
  | .coolantRecover _ _ => false
  | .resetBoot _ _ _ _ _ => false
  | .patrolScrub _ _ _ _ => false
  | .laneTraining _ _ _ _ => false
  | .laneTrainingTimeout _ _ => false
  | .laneDown _ _ => false
  | .edgeFrameReceive _ _ _ _ _ => false
  | .routerCycle _ _ => false
  | .readRequestFlit _ => false
  | .writeRequestFlit _ _ _ => false
  | .atomicRequestFlit _ _ _ _ _ => false
  | .readReplyFlit _ _ _ => false
  | .writeAckFlit _ _ _ => false
  | .atomicReplyFlit _ _ _ _ => false
  | .nackFlit _ _ _ => false
  | .messageFlit _ _ _ _ _ => false
  | .copyDataFlit _ _ _ _ _ => false
  | .timeBeacon _ => false
  | .remoteCompletionFlag _ _ _ _ => false
  | .moduleMarkedDown _ => false
  | .tellerAccept _ => false
  | .tellerExecute _ => false
  | .copyRequestStart _ _ => false
  | .copyBeat _ => false
  | .copyFlagPost _ _ => false
  | .matrixCommandStart _ _ => false
  | .matrixKStep _ _ => false
  | .matrixCommandComplete _ _ => false
  | .rampWindowBoundary => false
  | .cochainArbitrate _ => false
  | .cochainComplete _ _ => false
  | .streamFetch _ _ _ => false
  | .streamElementWrite _ _ _ => false
  | .stealProbe _ _ => false
  | .writeSetReturn _ _ => false
  | .episodeComplete _ _ _ _ => false
  | .dpostServe _ => false
  | .calendarCompute _ _ _ => false
  | .standbyCalendarSend _ => false
  | .calendarTake _ _ _ => false
  | .circuitPhaseStart _ _ => false
  | .circuitSendEnd _ _ => false
  | .circuitPhaseEnd _ _ => false
  | .residueSend _ => false
  | .exchangeComplete _ _ => false
  | .preemptionSave _ _ => false
  | .restoration _ _ _ => false
  | .gangWaitTimeout _ _ => false
  | .gangDetach _ _ _ => false
  | .illegalInstruction _ => false
  | .fetchFault => false
  | .hostDeviceMemoryAccess _ _ _ _ _ => false
  | .moduleRejoin _ _ => false
  | .hostLinkError _ _ _ => false
  | .pwrnowRead => false
  | .powerDown => false

/-- The term is one that the machine can meet. -/
def WellFormed (i : Instr) : Bool :=
  match i with
  | .nop => true
  | .brk _ => true
  | .crr _ h l => crKnown (h ++ l)
  | .crw h _ l => crWritable (h ++ l)
  | .crs h _ l => crWritable (h ++ l)
  | .crc h _ l => crWritable (h ++ l)
  | .publish _ _ _ => true
  | .add _ _ _ => true
  | .sub _ _ _ => true
  | .and _ _ _ => true
  | .or _ _ _ => true
  | .xor _ _ _ => true
  | .andn _ _ _ => true
  | .orn _ _ _ => true
  | .sll _ _ _ => true
  | .srl _ _ _ => true
  | .sra _ _ _ => true
  | .rol _ _ _ => true
  | .ror _ _ _ => true
  | .slt _ _ _ => true
  | .sltu _ _ _ => true
  | .min _ _ _ => true
  | .max _ _ _ => true
  | .minu _ _ _ => true
  | .maxu _ _ _ => true
  | .mul _ _ _ _ => true
  | .mulh _ _ _ _ => true
  | .mulhu _ _ _ _ => true
  | .div _ _ _ _ => true
  | .divu _ _ _ _ => true
  | .rem _ _ _ _ => true
  | .remu _ _ _ _ => true
  | .clz _ _ => true
  | .ctz _ _ => true
  | .popc _ _ => true
  | .bswap _ _ => true
  | .sextb _ _ => true
  | .sexth _ _ => true
  | .sextw _ _ => true
  | .zextb _ _ => true
  | .zexth _ _ => true
  | .zextw _ _ => true
  | .csel _ _ _ => true
  | .addi _ _ _ => true
  | .andi _ _ _ => true
  | .ori _ _ _ => true
  | .xori _ _ _ => true
  | .slti _ _ _ => true
  | .sltiu _ _ _ => true
  | .slli _ _ _ => true
  | .srli _ _ _ => true
  | .srai _ _ _ => true
  | .rori _ _ _ => true
  | .lui _ _ => true
  | .insh _ _ _ => true
  | .ceq _ _ _ => true
  | .cne _ _ _ => true
  | .clt _ _ _ => true
  | .cltu _ _ _ => true
  | .cge _ _ _ => true
  | .cgeu _ _ _ => true
  | .fceq _ _ _ => true
  | .fclt _ _ _ => true
  | .fcle _ _ _ => true
  | .fcun _ _ _ => true
  | .pand _ _ _ => true
  | .por _ _ _ => true
  | .pxor _ _ _ => true
  | .pandn _ _ _ => true
  | .ptos _ _ => true
  | .sbitp _ _ _ => true
  | .beq _ _ _ => true
  | .bne _ _ _ => true
  | .blt _ _ _ => true
  | .bge _ _ _ => true
  | .bltu _ _ _ => true
  | .bgeu _ _ _ => true
  | .bpt _ _ => true
  | .bpf _ _ => true
  | .j _ => true
  | .jal _ => true
  | .jalr _ _ _ => true
  | .rpt _ _ _ _ _ => true
  | .rptr _ _ _ _ _ => true
  | .fadd _ _ _ _ => true
  | .fsub _ _ _ _ => true
  | .fmul _ _ _ _ => true
  | .fdiv _ _ _ _ => true
  | .fsqrt _ _ _ => true
  | .fmac _ _ _ _ => true
  | .fmin _ _ _ _ => true
  | .fmax _ _ _ _ => true
  | .frnd _ _ _ => true
  | .fclass _ _ _ => true
  | .fcvtWS _ _ _ => true
  | .fcvtSW _ _ _ => true
  | .fcvtSBf _ _ _ => true
  | .fcvtBfS _ _ _ => true
  | .fcvtSH _ _ _ => true
  | .fcvtHS _ _ _ => true
  | .fcvtSE4 _ _ _ => true
  | .fcvtE4S _ _ _ => true
  | .fcvtSE5 _ _ _ => true
  | .fcvtE5S _ _ _ => true
  | .ldb _ _ _ _ => true
  | .ldbu _ _ _ _ => true
  | .ldh _ _ _ _ => true
  | .ldhu _ _ _ _ => true
  | .ldw _ _ _ _ => true
  | .ldwu _ _ _ _ => true
  | .ldd _ _ _ _ => true
  | .stb _ _ _ _ => true
  | .sth _ _ _ _ => true
  | .stw _ _ _ _ => true
  | .std _ _ _ _ => true
  | .st64 _ _ _ _ => true
  | .stfl _ _ _ _ => true
  | .ldf _ _ _ _ => true
  | .ldfe _ _ _ _ => true
  | .fetest _ _ _ _ => true
  | .feclr _ _ _ => true
  | .amoadd _ _ _ _ _ => true
  | .amoswp _ _ _ _ _ => true
  | .amocas _ _ _ _ _ => true
  | .amomin _ _ _ _ _ => true
  | .amomax _ _ _ _ _ => true
  | .amominu _ _ _ _ _ => true
  | .amomaxu _ _ _ _ _ => true
  | .amoand _ _ _ _ _ => true
  | .amoor _ _ _ _ _ => true
  | .amoxor _ _ _ _ _ => true
  | .redx _ _ _ _ => true
  | .redq _ _ _ _ => true
  | .redget d _ _ _ _ => d != 0#4
  | .redclr _ _ _ => true
  | .send _ a _ => a != 0#4
  | .recv d => d != 0#4 && d != 15#4
  | .recvp d => d != 0#4 && d != 15#4
  | .tkpush _ _ _ => true
  | .tkpop d => d != 0#4
  | .tkdone => true
  | .gang _ => true
  | .ungang => true
  | .bar l => decide (l ≤ 5#3)
  | .vote _ _ _ l => decide (l ≤ 5#3)
  | .phase l => decide (l ≤ 5#3)
  | .wfe _ _ => true
  | .sev _ _ => true
  | .waitt _ _ => true
  | .fence _ s _ => s != 3#2
  | .cfence => true
  | .cpy _ a _ => a != 0#3 && decide (a ≤ 5#3)
  | .cpynb _ a _ => a != 0#3 && decide (a ≤ 5#3)
  | .cpyq _ _ => true
  | .dpost _ _ _ => true
  | .xchg _ _ _ _ => true
  | .calq _ _ _ => true
  | .gather _ a _ => a != 0#3 && decide (a ≤ 5#3)
  | .scatter _ a _ => a != 0#3 && decide (a ≤ 5#3)
  | .dispatch _ a _ => a != 0#3 && decide (a ≤ 5#3)
  | .combine _ a _ => a != 0#3 && decide (a ≤ 5#3)
  | .sbind _ => true
  | .sfree _ => true
  | .sdrain _ => true
  | .sstat _ _ => true
  | .accrd _ _ _ _ => true
  | .accwr _ _ _ _ => true
  | .mxwait _ _ _ => true
  | .mxseq _ _ => true
  | .vadd _ _ _ _ _ => true
  | .vsub _ _ _ _ _ => true
  | .vmul _ _ _ _ _ => true
  | .vdiv _ _ _ _ _ => true
  | .vmin _ _ _ _ _ => true
  | .vmax _ _ _ _ _ => true
  | .vfma _ _ _ _ _ => true
  | .vfms _ _ _ _ _ => true
  | .vand _ _ _ _ _ => true
  | .vor _ _ _ _ _ => true
  | .vxor _ _ _ _ _ => true
  | .vcgt _ _ _ _ _ => true
  | .vcge _ _ _ _ _ => true
  | .vceq _ _ _ _ _ => true
  | .vsel _ _ _ _ _ => true
  | .vmov _ _ _ _ => true
  | .vsqrt _ _ _ _ => true
  | .vrcp _ _ _ _ => true
  | .vrsq _ _ _ _ => true
  | .vexp2 _ _ _ _ => true
  | .vlog2 _ _ _ _ => true
  | .vcvt _ _ _ _ => true
  | .vadds _ _ _ _ _ => true
  | .vsubs _ _ _ _ _ => true
  | .vmuls _ _ _ _ _ => true
  | .vfmas _ _ _ _ _ => true
  | .vmins _ _ _ _ _ => true
  | .vmaxs _ _ _ _ _ => true
  | .vfill _ _ _ _ => true
  | .vgete _ s _ _ => s != 0#4
  | .vpute _ s _ _ => s != 0#4
  | .vsum _ _ _ _ => true
  | .vdot _ _ _ _ _ => true
  | .vmaxr _ s _ _ => s != 0#4
  | .vminr _ s _ _ => s != 0#4
  | .topk _ _ _ _ _ => true
  | .cmpr48 _ _ _ _ _ => true
  | .vdec48 _ _ _ _ _ => true
  | .vrand _ _ _ _ => true
  | .kdef _ s _ _ => s != 0#4
  | .kst _ _ _ _ => true
  | .kget _ s _ _ => s != 0#4
  | .kset _ _ _ _ _ => true
  | .kview _ _ _ _ _ => true
  | .dext _ _ _ _ => true
  | .dbnd _ _ _ _ => true
  | .hstar _ _ _ _ => true
  | .hstari _ _ _ _ => true
  | .wedge _ _ _ _ _ => true
  | .interp _ _ _ _ _ => true
  | .prolong _ _ _ _ => true
  | .gathi _ _ _ _ _ => true
  | .scati _ _ _ _ _ => true
  | .cload _ _ _ => true
  | .cdrop _ _ => true
  | .cquery _ _ _ _ => true
  | .cref _ _ _ => true
  | .tracq _ _ => true
  | .trrel _ => true
  | .trload _ _ _ => true
  | .trset _ _ _ => true
  | .trgo _ _ => true
  | .trget _ _ _ => true
  | .trrst _ => true
  | .mint _ _ _ => true
  | .mintk _ => true
  | .mod _ k _ _ _ _ _ r => if k == 1#1 then r.extractLsb' 0 1 == 0#1 else r == 0#5
  | .hnop _ _ _ _ => true
  | .prefl _ _ _ _ => true
  | .prefd _ _ _ _ => true
  | .spinh _ _ _ _ => true
  | .longLatencyComplete q l => decide (q < 1024) && decide (l < 67108864)
  | .coreWaitEnd q l => decide (q < 1024) && decide (l < 67108864)
  | .contextCreate slot _ => decide (slot < 256)
  | .contextDestroy slot => decide (slot < 256)
  | .queueNotify q _ => decide (q < 1024)
  | .queueErrClear q => decide (q < 1024)
  | .launchRecord q => decide (q < 1024)
  | .publishRecord q => decide (q < 1024)
  | .nopRecord q => decide (q < 1024)
  | .publisherServe slot => decide (slot < 256)
  | .launchPlacement q _ _ => decide (q < 1024)
  | .wakeFlit q _ _ => decide (q < 1024)
  | .queueQuantumEnd => true
  | .launchRetirement q => decide (q < 1024)
  | .tlbinv slot _ => decide (slot < 256)
  | .tlbinvDone slot => decide (slot < 256)
  | .hcmdResume slot _ => decide (slot < 256)
  | .hcmdSkip slot _ => decide (slot < 256)
  | .hcmdKill slot _ => decide (slot < 256)
  | .hcmdAbt slot _ => decide (slot < 256)
  | .frheadWrite slot _ => decide (slot < 256)
  | .faultRecordDelivery => true
  | .readbackCoreImage slot _ => decide (slot < 256)
  | .readbackRaceArray slot _ => decide (slot < 256)
  | .readbackTellerFlush slot _ => decide (slot < 256)
  | .mctpRead8 _ _ => true
  | .mctpWrite8 _ _ _ => true
  | .freeze _ _ _ => true
  | .attest _ _ => true
  | .bootstLoad => true
  | .ramptelClear => true
  | .lnkstatClear _ _ => true
  | .registerWrite _ _ _ => true
  | .powerControlTick _ _ => true
  | .coolantHot _ _ => true
  | .coolantRecover _ _ => true
  | .resetBoot _ _ _ _ _ => true
  | .patrolScrub die _ _ _ => decide (die < 8)
  | .laneTraining _ _ _ _ => true
  | .laneTrainingTimeout _ _ => true
  | .laneDown _ _ => true
  | .edgeFrameReceive _ _ _ _ _ => true
  | .routerCycle _ _ => true
  | .readRequestFlit _ => true
  | .writeRequestFlit _ _ _ => true
  | .atomicRequestFlit _ _ _ _ _ => true
  | .readReplyFlit _ _ _ => true
  | .writeAckFlit _ _ _ => true
  | .atomicReplyFlit _ _ _ _ => true
  | .nackFlit _ _ _ => true
  | .messageFlit _ _ _ _ _ => true
  | .copyDataFlit _ _ _ _ _ => true
  | .timeBeacon _ => true
  | .remoteCompletionFlag _ _ _ _ => true
  | .moduleMarkedDown pkg => decide (pkg < 4096)
  | .tellerAccept yard => decide (yard < 256)
  | .tellerExecute yard => decide (yard < 256)
  | .copyRequestStart q l => decide (q < 1024) && decide (l < 67108864)
  | .copyBeat yard => decide (yard < 256)
  | .copyFlagPost q l => decide (q < 1024) && decide (l < 67108864)
  | .matrixCommandStart q l => decide (q < 1024) && decide (l < 67108864)
  | .matrixKStep q l => decide (q < 1024) && decide (l < 67108864)
  | .matrixCommandComplete q l => decide (q < 1024) && decide (l < 67108864)
  | .rampWindowBoundary => true
  | .cochainArbitrate stable => decide (stable < 4096)
  | .cochainComplete q l => decide (q < 1024) && decide (l < 67108864)
  | .streamFetch q l _ => decide (q < 1024) && decide (l < 67108864)
  | .streamElementWrite q l _ => decide (q < 1024) && decide (l < 67108864)
  | .stealProbe c _ => decide (c.1 < 1024) && decide (c.2 < 67108864)
  | .writeSetReturn c _ => decide (c.1 < 1024) && decide (c.2 < 67108864)
  | .episodeComplete q _ _ _ => decide (q < 1024)
  | .dpostServe die => decide (die < 8)
  | .calendarCompute q _ _ => decide (q < 1024)
  | .standbyCalendarSend q => decide (q < 1024)
  | .calendarTake q _ _ => decide (q < 1024)
  | .circuitPhaseStart q _ => decide (q < 1024)
  | .circuitSendEnd q _ => decide (q < 1024)
  | .circuitPhaseEnd q _ => decide (q < 1024)
  | .residueSend q => decide (q < 1024)
  | .exchangeComplete q _ => decide (q < 1024)
  | .preemptionSave q l => decide (q < 1024) && decide (l < 67108864)
  | .restoration q l _ => decide (q < 1024) && decide (l < 67108864)
  | .gangWaitTimeout q l => decide (q < 1024) && decide (l < 67108864)
  | .gangDetach q l _ => decide (q < 1024) && decide (l < 67108864)
  | .illegalInstruction _ => true
  | .fetchFault => true
  | .hostDeviceMemoryAccess _ _ _ _ _ => true
  | .moduleRejoin pkg _ => decide (pkg < 4096)
  | .hostLinkError q l _ => decide (q < 1024) && decide (l < 67108864)
  | .pwrnowRead => true
  | .powerDown => true

end Sys2Proof
end

