-- ==== Sys2Proof/Decode.lean ====
section
/-!
DEFINITION. Decoding (R112, R113, R129, R130): total on any 32-bit word, refusing by the reason code of R129 in that rule's
order 0x01, 0x02, 0x05, 0x03, 0x06, 0x04, 0x07. After it the encoder, written from the same tables, and the host's decodeTableWord.
-/
namespace Sys2Proof

/-! ### Fields of the seven formats (R113) -/

def fop (w : W32) : BitVec 6 := w.extractLsb' 26 6
def fd (w : W32) : BitVec 5 := w.extractLsb' 21 5
def fa (w : W32) : BitVec 5 := w.extractLsb' 16 5
def fb (w : W32) : BitVec 5 := w.extractLsb' 11 5
def ffn (w : W32) : BitVec 7 := w.extractLsb' 4 7
def fla (w : W32) : BitVec 4 := w.extractLsb' 0 4
def fimm (w : W32) : BitVec 16 := w.extractLsb' 0 16
def foff (w : W32) : BitVec 26 := w.extractLsb' 0 26
def fkind (w : W32) : BitVec 3 := w.extractLsb' 13 3
def foff9 (w : W32) : BitVec 9 := w.extractLsb' 4 9
def fkd (w : W32) : BitVec 4 := w.extractLsb' 22 4
def fka (w : W32) : BitVec 4 := w.extractLsb' 18 4
def fkb (w : W32) : BitVec 4 := w.extractLsb' 14 4
def ffn6 (w : W32) : BitVec 6 := w.extractLsb' 8 6
def fpg (w : W32) : BitVec 3 := w.extractLsb' 5 3
def fbit4 (w : W32) : BitVec 1 := w.extractLsb' 4 1
def fs (w : W32) : BitVec 5 := w.extractLsb' 13 5
def ffn5 (w : W32) : BitVec 5 := w.extractLsb' 8 5

/-- What decoding answers: an instruction, or the reason code of R129. -/
abbrev Decoded := Except Byte Instr

/-- The checks of R129 after the code itself: a must-be-zero field (0x03), a register limit (0x06), a la field on an
instruction that is not long-latency (0x04), reported in that order. -/
def check (mbz lim la : Bool) (i : Instr) : Decoded :=
  if mbz then .error 0x03#8 else if lim then .error 0x06#8 else if la then .error 0x04#8 else .ok i

/-- `check` for CRR, CRW, CRS and CRC, whose last check is the control-register number (R129 reason 0x07, R388). -/
def checkCr (mbz la rd : Bool) (n : BitVec 10) (i : Instr) : Decoded :=
  if mbz then .error 0x03#8 else if la then .error 0x04#8
  else if !(crKnown n && (rd || crWritable n)) then .error 0x07#8 else .ok i

/-! ### One function per group of R130 that has function codes -/

/-- Major 0x00 (R130). -/
def decodeSys (w : W32) : Decoded :=
  match ffn w with
  | 0#7 => check (fd w != 0#5 || fa w != 0#5 || fb w != 0#5) false (fla w != 0#4) (.nop)
  | 1#7 => check false false (fla w != 0#4) (.brk (w.extractLsb' 11 15))
  | 2#7 => checkCr false (fla w != 0#4) true (fa w ++ fb w) (.crr (fd w) (fa w) (fb w))
  | 3#7 => checkCr false (fla w != 0#4) false (fd w ++ fb w) (.crw (fd w) (fa w) (fb w))
  | 4#7 => checkCr false (fla w != 0#4) false (fd w ++ fb w) (.crs (fd w) (fa w) (fb w))
  | 5#7 => checkCr false (fla w != 0#4) false (fd w ++ fb w) (.crc (fd w) (fa w) (fb w))
  | 6#7 => check false false (fla w != 0#4) (.publish (fd w) (fa w) (fb w))
  | _ => .error 0x02#8

/-- Major 0x01 (R130). -/
def decodeInt (w : W32) : Decoded :=
  match ffn w with
  | 0#7 => check false false (fla w != 0#4) (.add (fd w) (fa w) (fb w))
  | 1#7 => check false false (fla w != 0#4) (.sub (fd w) (fa w) (fb w))
  | 2#7 => check false false (fla w != 0#4) (.and (fd w) (fa w) (fb w))
  | 3#7 => check false false (fla w != 0#4) (.or (fd w) (fa w) (fb w))
  | 4#7 => check false false (fla w != 0#4) (.xor (fd w) (fa w) (fb w))
  | 5#7 => check false false (fla w != 0#4) (.andn (fd w) (fa w) (fb w))
  | 6#7 => check false false (fla w != 0#4) (.orn (fd w) (fa w) (fb w))
  | 7#7 => check false false (fla w != 0#4) (.sll (fd w) (fa w) (fb w))
  | 8#7 => check false false (fla w != 0#4) (.srl (fd w) (fa w) (fb w))
  | 9#7 => check false false (fla w != 0#4) (.sra (fd w) (fa w) (fb w))
  | 10#7 => check false false (fla w != 0#4) (.rol (fd w) (fa w) (fb w))
  | 11#7 => check false false (fla w != 0#4) (.ror (fd w) (fa w) (fb w))
  | 12#7 => check false false (fla w != 0#4) (.slt (fd w) (fa w) (fb w))
  | 13#7 => check false false (fla w != 0#4) (.sltu (fd w) (fa w) (fb w))
  | 14#7 => check false false (fla w != 0#4) (.min (fd w) (fa w) (fb w))
  | 15#7 => check false false (fla w != 0#4) (.max (fd w) (fa w) (fb w))
  | 16#7 => check false false (fla w != 0#4) (.minu (fd w) (fa w) (fb w))
  | 17#7 => check false false (fla w != 0#4) (.maxu (fd w) (fa w) (fb w))
  | 18#7 => .ok (.mul (fd w) (fa w) (fb w) (fla w))
  | 19#7 => .ok (.mulh (fd w) (fa w) (fb w) (fla w))
  | 20#7 => .ok (.mulhu (fd w) (fa w) (fb w) (fla w))
  | 21#7 => .ok (.div (fd w) (fa w) (fb w) (fla w))
  | 22#7 => .ok (.divu (fd w) (fa w) (fb w) (fla w))
  | 23#7 => .ok (.rem (fd w) (fa w) (fb w) (fla w))
  | 24#7 => .ok (.remu (fd w) (fa w) (fb w) (fla w))
  | 25#7 => check (fb w != 0#5) false (fla w != 0#4) (.clz (fd w) (fa w))
  | 26#7 => check (fb w != 0#5) false (fla w != 0#4) (.ctz (fd w) (fa w))
  | 27#7 => check (fb w != 0#5) false (fla w != 0#4) (.popc (fd w) (fa w))
  | 28#7 => check (fb w != 0#5) false (fla w != 0#4) (.bswap (fd w) (fa w))
  | 29#7 => check (fb w != 0#5) false (fla w != 0#4) (.sextb (fd w) (fa w))
  | 30#7 => check (fb w != 0#5) false (fla w != 0#4) (.sexth (fd w) (fa w))
  | 31#7 => check (fb w != 0#5) false (fla w != 0#4) (.sextw (fd w) (fa w))
  | 32#7 => check (fb w != 0#5) false (fla w != 0#4) (.zextb (fd w) (fa w))
  | 33#7 => check (fb w != 0#5) false (fla w != 0#4) (.zexth (fd w) (fa w))
  | 34#7 => check (fb w != 0#5) false (fla w != 0#4) (.zextw (fd w) (fa w))
  | 35#7 => check false false (fla w != 0#4) (.csel (fd w) (fa w) (fb w))
  | _ => .error 0x02#8

/-- SHI (R143): the operation is in imm[7:6]. -/
def decodeShi (w : W32) : Decoded :=
  match (fimm w).extractLsb' 6 2 with
  | 0#2 => check (((fimm w).extractLsb' 8 8) != 0#8) false false (.slli (fd w) (fa w) ((fimm w).extractLsb' 0 6))
  | 1#2 => check (((fimm w).extractLsb' 8 8) != 0#8) false false (.srli (fd w) (fa w) ((fimm w).extractLsb' 0 6))
  | 2#2 => check (((fimm w).extractLsb' 8 8) != 0#8) false false (.srai (fd w) (fa w) ((fimm w).extractLsb' 0 6))
  | 3#2 => check (((fimm w).extractLsb' 8 8) != 0#8) false false (.rori (fd w) (fa w) ((fimm w).extractLsb' 0 6))

/-- Major 0x0b (R130). -/
def decodeCmpp (w : W32) : Decoded :=
  match ffn w with
  | 0#7 => check false (((fd w).extractLsb' 3 2) != 0#2) (fla w != 0#4) (.ceq ((fd w).extractLsb' 0 3) (fa w) (fb w))
  | 1#7 => check false (((fd w).extractLsb' 3 2) != 0#2) (fla w != 0#4) (.cne ((fd w).extractLsb' 0 3) (fa w) (fb w))
  | 2#7 => check false (((fd w).extractLsb' 3 2) != 0#2) (fla w != 0#4) (.clt ((fd w).extractLsb' 0 3) (fa w) (fb w))
  | 3#7 => check false (((fd w).extractLsb' 3 2) != 0#2) (fla w != 0#4) (.cltu ((fd w).extractLsb' 0 3) (fa w) (fb w))
  | 4#7 => check false (((fd w).extractLsb' 3 2) != 0#2) (fla w != 0#4) (.cge ((fd w).extractLsb' 0 3) (fa w) (fb w))
  | 5#7 => check false (((fd w).extractLsb' 3 2) != 0#2) (fla w != 0#4) (.cgeu ((fd w).extractLsb' 0 3) (fa w) (fb w))
  | 6#7 => check false (((fd w).extractLsb' 3 2) != 0#2) (fla w != 0#4) (.fceq ((fd w).extractLsb' 0 3) (fa w) (fb w))
  | 7#7 => check false (((fd w).extractLsb' 3 2) != 0#2) (fla w != 0#4) (.fclt ((fd w).extractLsb' 0 3) (fa w) (fb w))
  | 8#7 => check false (((fd w).extractLsb' 3 2) != 0#2) (fla w != 0#4) (.fcle ((fd w).extractLsb' 0 3) (fa w) (fb w))
  | 9#7 => check false (((fd w).extractLsb' 3 2) != 0#2) (fla w != 0#4) (.fcun ((fd w).extractLsb' 0 3) (fa w) (fb w))
  | 10#7 => check (((fa w).extractLsb' 3 2) != 0#2 || ((fb w).extractLsb' 3 2) != 0#2) (((fd w).extractLsb' 3 2) != 0#2) (fla w != 0#4) (.pand ((fd w).extractLsb' 0 3) ((fa w).extractLsb' 0 3) ((fb w).extractLsb' 0 3))
  | 11#7 => check (((fa w).extractLsb' 3 2) != 0#2 || ((fb w).extractLsb' 3 2) != 0#2) (((fd w).extractLsb' 3 2) != 0#2) (fla w != 0#4) (.por ((fd w).extractLsb' 0 3) ((fa w).extractLsb' 0 3) ((fb w).extractLsb' 0 3))
  | 12#7 => check (((fa w).extractLsb' 3 2) != 0#2 || ((fb w).extractLsb' 3 2) != 0#2) (((fd w).extractLsb' 3 2) != 0#2) (fla w != 0#4) (.pxor ((fd w).extractLsb' 0 3) ((fa w).extractLsb' 0 3) ((fb w).extractLsb' 0 3))
  | 13#7 => check (((fa w).extractLsb' 3 2) != 0#2 || ((fb w).extractLsb' 3 2) != 0#2) (((fd w).extractLsb' 3 2) != 0#2) (fla w != 0#4) (.pandn ((fd w).extractLsb' 0 3) ((fa w).extractLsb' 0 3) ((fb w).extractLsb' 0 3))
  | 14#7 => check (fb w != 0#5) (((fd w).extractLsb' 3 2) != 0#2) (fla w != 0#4) (.ptos ((fd w).extractLsb' 0 3) (fa w))
  | 15#7 => check false (((fd w).extractLsb' 3 2) != 0#2) (fla w != 0#4) (.sbitp ((fd w).extractLsb' 0 3) (fa w) (fb w))
  | _ => .error 0x02#8

/-- BP (R147): bit 25 inverts. -/
def decodeBp (w : W32) : Decoded :=
  match (fd w).extractLsb' 4 1 with
  | 0#1 => check (((fd w).extractLsb' 3 1) != 0#1 || fa w != 0#5) false false (.bpt ((fd w).extractLsb' 0 3) (fimm w))
  | 1#1 => check (((fd w).extractLsb' 3 1) != 0#1 || fa w != 0#5) false false (.bpf ((fd w).extractLsb' 0 3) (fimm w))

/-- Major 0x18 (R130). -/
def decodeFp (w : W32) : Decoded :=
  match ffn w with
  | 0#7 => .ok (.fadd (fd w) (fa w) (fb w) (fla w))
  | 1#7 => .ok (.fsub (fd w) (fa w) (fb w) (fla w))
  | 2#7 => .ok (.fmul (fd w) (fa w) (fb w) (fla w))
  | 3#7 => .ok (.fdiv (fd w) (fa w) (fb w) (fla w))
  | 4#7 => check (fb w != 0#5) false false (.fsqrt (fd w) (fa w) (fla w))
  | 5#7 => .ok (.fmac (fd w) (fa w) (fb w) (fla w))
  | 6#7 => .ok (.fmin (fd w) (fa w) (fb w) (fla w))
  | 7#7 => .ok (.fmax (fd w) (fa w) (fb w) (fla w))
  | 8#7 => check (fb w != 0#5) false false (.frnd (fd w) (fa w) (fla w))
  | 9#7 => check (fb w != 0#5) false false (.fclass (fd w) (fa w) (fla w))
  | 10#7 => check (fb w != 0#5) false false (.fcvtWS (fd w) (fa w) (fla w))
  | 11#7 => check (fb w != 0#5) false false (.fcvtSW (fd w) (fa w) (fla w))
  | 12#7 => check (fb w != 0#5) false false (.fcvtSBf (fd w) (fa w) (fla w))
  | 13#7 => check (fb w != 0#5) false false (.fcvtBfS (fd w) (fa w) (fla w))
  | 14#7 => check (fb w != 0#5) false false (.fcvtSH (fd w) (fa w) (fla w))
  | 15#7 => check (fb w != 0#5) false false (.fcvtHS (fd w) (fa w) (fla w))
  | 16#7 => check (fb w != 0#5) false false (.fcvtSE4 (fd w) (fa w) (fla w))
  | 17#7 => check (fb w != 0#5) false false (.fcvtE4S (fd w) (fa w) (fla w))
  | 18#7 => check (fb w != 0#5) false false (.fcvtSE5 (fd w) (fa w) (fla w))
  | 19#7 => check (fb w != 0#5) false false (.fcvtE5S (fd w) (fa w) (fla w))
  | _ => .error 0x02#8

/-- Major 0x19 (R130). -/
def decodeLds (w : W32) : Decoded :=
  match fkind w with
  | 0#3 => .ok (.ldb (fd w) (fa w) (foff9 w) (fla w))
  | 1#3 => .ok (.ldbu (fd w) (fa w) (foff9 w) (fla w))
  | 2#3 => .ok (.ldh (fd w) (fa w) (foff9 w) (fla w))
  | 3#3 => .ok (.ldhu (fd w) (fa w) (foff9 w) (fla w))
  | 4#3 => .ok (.ldw (fd w) (fa w) (foff9 w) (fla w))
  | 5#3 => .ok (.ldwu (fd w) (fa w) (foff9 w) (fla w))
  | 6#3 => .ok (.ldd (fd w) (fa w) (foff9 w) (fla w))
  | _ => .error 0x02#8

/-- Major 0x1a (R130). -/
def decodeSts (w : W32) : Decoded :=
  match fkind w with
  | 0#3 => .ok (.stb (fd w) (fa w) (foff9 w) (fla w))
  | 1#3 => .ok (.sth (fd w) (fa w) (foff9 w) (fla w))
  | 2#3 => .ok (.stw (fd w) (fa w) (foff9 w) (fla w))
  | 3#3 => .ok (.std (fd w) (fa w) (foff9 w) (fla w))
  | 4#3 => check false (((fd w).extractLsb' 0 3) != 0#3) false (.st64 ((fd w).extractLsb' 3 2) (fa w) (foff9 w) (fla w))
  | 5#3 => .ok (.stfl (fd w) (fa w) (foff9 w) (fla w))
  | _ => .error 0x02#8

/-- Major 0x1b (R130). -/
def decodeLdsync (w : W32) : Decoded :=
  match fkind w with
  | 0#3 => .ok (.ldf (fd w) (fa w) (foff9 w) (fla w))
  | 1#3 => .ok (.ldfe (fd w) (fa w) (foff9 w) (fla w))
  | 2#3 => .ok (.fetest (fd w) (fa w) (foff9 w) (fla w))
  | 3#3 => check (fd w != 0#5) false false (.feclr (fa w) (foff9 w) (fla w))
  | _ => .error 0x02#8

/-- Major 0x1c (R130). -/
def decodeAtom (w : W32) : Decoded :=
  match (ffn w).extractLsb' 0 5 with
  | 0#5 => .ok (.amoadd (fd w) (fa w) (fb w) ((ffn w).extractLsb' 5 2) (fla w))
  | 1#5 => .ok (.amoswp (fd w) (fa w) (fb w) ((ffn w).extractLsb' 5 2) (fla w))
  | 2#5 => .ok (.amocas (fd w) (fa w) (fb w) ((ffn w).extractLsb' 5 2) (fla w))
  | 3#5 => .ok (.amomin (fd w) (fa w) (fb w) ((ffn w).extractLsb' 5 2) (fla w))
  | 4#5 => .ok (.amomax (fd w) (fa w) (fb w) ((ffn w).extractLsb' 5 2) (fla w))
  | 5#5 => .ok (.amominu (fd w) (fa w) (fb w) ((ffn w).extractLsb' 5 2) (fla w))
  | 6#5 => .ok (.amomaxu (fd w) (fa w) (fb w) ((ffn w).extractLsb' 5 2) (fla w))
  | 7#5 => .ok (.amoand (fd w) (fa w) (fb w) ((ffn w).extractLsb' 5 2) (fla w))
  | 8#5 => .ok (.amoor (fd w) (fa w) (fb w) ((ffn w).extractLsb' 5 2) (fla w))
  | 9#5 => .ok (.amoxor (fd w) (fa w) (fb w) ((ffn w).extractLsb' 5 2) (fla w))
  | 10#5 => check (fd w != 0#5) false false (.redx (fa w) (fb w) ((ffn w).extractLsb' 5 2) (fla w))
  | 11#5 => check (fd w != 0#5) false false (.redq (fa w) (fb w) ((ffn w).extractLsb' 5 2) (fla w))
  | 12#5 => check false (((fd w).extractLsb' 0 1) != 0#1 || fd w == 0#5) false (.redget ((fd w).extractLsb' 1 4) (fa w) (fb w) ((ffn w).extractLsb' 5 2) (fla w))
  | 13#5 => check (fd w != 0#5 || fb w != 0#5) false false (.redclr (fa w) ((ffn w).extractLsb' 5 2) (fla w))
  | _ => .error 0x02#8

/-- Major 0x1d (R130). -/
def decodeMsg (w : W32) : Decoded :=
  match ffn w with
  | 0#7 => check false (((fa w).extractLsb' 0 1) != 0#1 || fa w == 0#5) (fla w != 0#4) (.send (fd w) ((fa w).extractLsb' 1 4) (fb w))
  | 1#7 => check (fa w != 0#5 || fb w != 0#5) (((fd w).extractLsb' 0 1) != 0#1 || (fd w == 0#5 || fd w == 30#5)) (fla w != 0#4) (.recv ((fd w).extractLsb' 1 4))
  | 2#7 => check (fa w != 0#5 || fb w != 0#5) (((fd w).extractLsb' 0 1) != 0#1 || (fd w == 0#5 || fd w == 30#5)) (fla w != 0#4) (.recvp ((fd w).extractLsb' 1 4))
  | _ => .error 0x02#8

/-- Major 0x1e (R130). -/
def decodeTask (w : W32) : Decoded :=
  match ffn w with
  | 0#7 => check false false (fla w != 0#4) (.tkpush (fd w) (fa w) (fb w))
  | 1#7 => check (fa w != 0#5 || fb w != 0#5) (((fd w).extractLsb' 0 1) != 0#1 || fd w == 0#5) (fla w != 0#4) (.tkpop ((fd w).extractLsb' 1 4))
  | 2#7 => check (fd w != 0#5 || fa w != 0#5 || fb w != 0#5) false (fla w != 0#4) (.tkdone)
  | 3#7 => check (fd w != 0#5 || fb w != 0#5) false (fla w != 0#4) (.gang (fa w))
  | 4#7 => check (fd w != 0#5 || fa w != 0#5 || fb w != 0#5) false (fla w != 0#4) (.ungang)
  | _ => .error 0x02#8

/-- Major 0x1f (R130). -/
def decodeSync (w : W32) : Decoded :=
  match ffn w with
  | 0#7 => check (fd w != 0#5 || fb w != 0#5 || decide (5#5 < fa w)) false (fla w != 0#4) (.bar ((fa w).extractLsb' 0 3))
  | 1#7 => check (decide (5#3 < (fb w).extractLsb' 0 3)) false (fla w != 0#4) (.vote (fd w) (fa w) ((fb w).extractLsb' 3 2) ((fb w).extractLsb' 0 3))
  | 2#7 => check (fd w != 0#5 || fb w != 0#5 || decide (5#5 < fa w)) false (fla w != 0#4) (.phase ((fa w).extractLsb' 0 3))
  | 3#7 => check (fb w != 0#5) false (fla w != 0#4) (.wfe (fd w) (fa w))
  | 4#7 => check (fd w != 0#5) false (fla w != 0#4) (.sev (fa w) (fb w))
  | 5#7 => check (fb w != 0#5) false (fla w != 0#4) (.waitt (fd w) (fa w))
  | 6#7 => check (((fa w).extractLsb' 2 3) != 0#3 || ((fb w).extractLsb' 1 4) != 0#4 || (fa w).extractLsb' 0 2 == 3#2) false (fla w != 0#4) (.fence (fd w) ((fa w).extractLsb' 0 2) ((fb w).extractLsb' 0 1))
  | 7#7 => check (fd w != 0#5 || fa w != 0#5 || fb w != 0#5) false (fla w != 0#4) (.cfence)
  | _ => .error 0x02#8

/-- Major 0x20 (R130). -/
def decodeCopy (w : W32) : Decoded :=
  match ffn w with
  | 0#7 => check (fb w != 0#5) (((fa w).extractLsb' 0 2) != 0#2 || (fa w == 0#5 || decide (20#5 < fa w))) false (.cpy (fd w) ((fa w).extractLsb' 2 3) (fla w))
  | 1#7 => check (fb w != 0#5) (((fa w).extractLsb' 0 2) != 0#2 || (fa w == 0#5 || decide (20#5 < fa w))) false (.cpynb (fd w) ((fa w).extractLsb' 2 3) (fla w))
  | 2#7 => check (fb w != 0#5) (fa w != 0#5) false (.cpyq (fd w) (fla w))
  | _ => .error 0x02#8

/-- Major 0x21 (R130). -/
def decodeXfab (w : W32) : Decoded :=
  match ffn w with
  | 0#7 => check (fd w != 0#5) false false (.dpost (fa w) (fb w) (fla w))
  | 1#7 => .ok (.xchg (fd w) (fa w) (fb w) (fla w))
  | 2#7 => check (fb w != 0#5) false false (.calq (fd w) (fa w) (fla w))
  | 3#7 => check (fb w != 0#5) (((fa w).extractLsb' 0 2) != 0#2 || (fa w == 0#5 || decide (20#5 < fa w))) false (.gather (fd w) ((fa w).extractLsb' 2 3) (fla w))
  | 4#7 => check (fb w != 0#5) (((fa w).extractLsb' 0 2) != 0#2 || (fa w == 0#5 || decide (20#5 < fa w))) false (.scatter (fd w) ((fa w).extractLsb' 2 3) (fla w))
  | 5#7 => check (fb w != 0#5) (((fa w).extractLsb' 0 2) != 0#2 || (fa w == 0#5 || decide (20#5 < fa w))) false (.dispatch (fd w) ((fa w).extractLsb' 2 3) (fla w))
  | 6#7 => check (fb w != 0#5) (((fa w).extractLsb' 0 2) != 0#2 || (fa w == 0#5 || decide (20#5 < fa w))) false (.combine (fd w) ((fa w).extractLsb' 2 3) (fla w))
  | _ => .error 0x02#8

/-- Major 0x22 (R130). -/
def decodeStrm (w : W32) : Decoded :=
  match ffn w with
  | 0#7 => check (fa w != 0#5 || fb w != 0#5) (((fd w).extractLsb' 3 2) != 3#2) (fla w != 0#4) (.sbind ((fd w).extractLsb' 0 3))
  | 1#7 => check (fa w != 0#5 || fb w != 0#5) (((fd w).extractLsb' 3 2) != 3#2) (fla w != 0#4) (.sfree ((fd w).extractLsb' 0 3))
  | 2#7 => check (fa w != 0#5 || fb w != 0#5) (((fd w).extractLsb' 3 2) != 3#2) (fla w != 0#4) (.sdrain ((fd w).extractLsb' 0 3))
  | 3#7 => check (fb w != 0#5) (((fa w).extractLsb' 3 2) != 3#2) (fla w != 0#4) (.sstat (fd w) ((fa w).extractLsb' 0 3))
  | _ => .error 0x02#8

/-- Major 0x23 (R130). -/
def decodeMxc (w : W32) : Decoded :=
  match ffn w with
  | 0#7 => check false (((fd w).extractLsb' 4 1) != 0#1) false (.accrd ((fd w).extractLsb' 0 4) (fa w) (fb w) (fla w))
  | 1#7 => check false (((fd w).extractLsb' 4 1) != 0#1) false (.accwr ((fd w).extractLsb' 0 4) (fa w) (fb w) (fla w))
  | 2#7 => check (fb w != 0#5) false false (.mxwait (fd w) (fa w) (fla w))
  | 3#7 => check (fa w != 0#5 || fb w != 0#5) false false (.mxseq (fd w) (fla w))
  | _ => .error 0x02#8

/-- Major 0x24 (R130). -/
def decodeKe (w : W32) : Decoded :=
  match ffn6 w with
  | 0#6 => check (fbit4 w != 0#1) false false (.vadd (fkd w) (fka w) (fkb w) (fpg w) (fla w))
  | 1#6 => check (fbit4 w != 0#1) false false (.vsub (fkd w) (fka w) (fkb w) (fpg w) (fla w))
  | 2#6 => check (fbit4 w != 0#1) false false (.vmul (fkd w) (fka w) (fkb w) (fpg w) (fla w))
  | 3#6 => check (fbit4 w != 0#1) false false (.vdiv (fkd w) (fka w) (fkb w) (fpg w) (fla w))
  | 4#6 => check (fbit4 w != 0#1) false false (.vmin (fkd w) (fka w) (fkb w) (fpg w) (fla w))
  | 5#6 => check (fbit4 w != 0#1) false false (.vmax (fkd w) (fka w) (fkb w) (fpg w) (fla w))
  | 6#6 => check (fbit4 w != 0#1) false false (.vfma (fkd w) (fka w) (fkb w) (fpg w) (fla w))
  | 7#6 => check (fbit4 w != 0#1) false false (.vfms (fkd w) (fka w) (fkb w) (fpg w) (fla w))
  | 8#6 => check (fbit4 w != 0#1) false false (.vand (fkd w) (fka w) (fkb w) (fpg w) (fla w))
  | 9#6 => check (fbit4 w != 0#1) false false (.vor (fkd w) (fka w) (fkb w) (fpg w) (fla w))
  | 10#6 => check (fbit4 w != 0#1) false false (.vxor (fkd w) (fka w) (fkb w) (fpg w) (fla w))
  | 11#6 => check (fbit4 w != 0#1) false false (.vcgt (fkd w) (fka w) (fkb w) (fpg w) (fla w))
  | 12#6 => check (fbit4 w != 0#1) false false (.vcge (fkd w) (fka w) (fkb w) (fpg w) (fla w))
  | 13#6 => check (fbit4 w != 0#1) false false (.vceq (fkd w) (fka w) (fkb w) (fpg w) (fla w))
  | 14#6 => check (fbit4 w != 0#1) false false (.vsel (fkd w) (fka w) (fkb w) (fpg w) (fla w))
  | _ => .error 0x02#8

/-- Major 0x25 (R130). -/
def decodeKu (w : W32) : Decoded :=
  match ffn6 w with
  | 0#6 => check (fkb w != 0#4 || fbit4 w != 0#1) false false (.vmov (fkd w) (fka w) (fpg w) (fla w))
  | 1#6 => check (fkb w != 0#4 || fbit4 w != 0#1) false false (.vsqrt (fkd w) (fka w) (fpg w) (fla w))
  | 2#6 => check (fkb w != 0#4 || fbit4 w != 0#1) false false (.vrcp (fkd w) (fka w) (fpg w) (fla w))
  | 3#6 => check (fkb w != 0#4 || fbit4 w != 0#1) false false (.vrsq (fkd w) (fka w) (fpg w) (fla w))
  | 4#6 => check (fkb w != 0#4 || fbit4 w != 0#1) false false (.vexp2 (fkd w) (fka w) (fpg w) (fla w))
  | 5#6 => check (fkb w != 0#4 || fbit4 w != 0#1) false false (.vlog2 (fkd w) (fka w) (fpg w) (fla w))
  | 6#6 => check (fkb w != 0#4 || fbit4 w != 0#1) false false (.vcvt (fkd w) (fka w) (fpg w) (fla w))
  | _ => .error 0x02#8

/-- Major 0x26 (R130). -/
def decodeKs (w : W32) : Decoded :=
  match ffn5 w with
  | 0#5 => check (fbit4 w != 0#1) false false (.vadds (fkd w) (fka w) (fs w) (fpg w) (fla w))
  | 1#5 => check (fbit4 w != 0#1) false false (.vsubs (fkd w) (fka w) (fs w) (fpg w) (fla w))
  | 2#5 => check (fbit4 w != 0#1) false false (.vmuls (fkd w) (fka w) (fs w) (fpg w) (fla w))
  | 3#5 => check (fbit4 w != 0#1) false false (.vfmas (fkd w) (fka w) (fs w) (fpg w) (fla w))
  | 4#5 => check (fbit4 w != 0#1) false false (.vmins (fkd w) (fka w) (fs w) (fpg w) (fla w))
  | 5#5 => check (fbit4 w != 0#1) false false (.vmaxs (fkd w) (fka w) (fs w) (fpg w) (fla w))
  | 6#5 => check (fka w != 0#4 || fbit4 w != 0#1) false false (.vfill (fkd w) (fs w) (fpg w) (fla w))
  | 7#5 => check (fkd w != 0#4 || fbit4 w != 0#1) (((fs w).extractLsb' 0 1) != 0#1 || fs w == 0#5) false (.vgete (fka w) ((fs w).extractLsb' 1 4) (fpg w) (fla w))
  | 8#5 => check (fka w != 0#4 || fbit4 w != 0#1) (((fs w).extractLsb' 0 1) != 0#1 || fs w == 0#5) false (.vpute (fkd w) ((fs w).extractLsb' 1 4) (fpg w) (fla w))
  | 9#5 => check (fkd w != 0#4 || fbit4 w != 0#1) false false (.vsum (fka w) (fs w) (fpg w) (fla w))
  | 10#5 => check (fbit4 w != 0#1) false false (.vdot (fkd w) (fka w) (fs w) (fpg w) (fla w))
  | 11#5 => check (fkd w != 0#4 || fbit4 w != 0#1) (((fs w).extractLsb' 0 1) != 0#1 || fs w == 0#5) false (.vmaxr (fka w) ((fs w).extractLsb' 1 4) (fpg w) (fla w))
  | 12#5 => check (fkd w != 0#4 || fbit4 w != 0#1) (((fs w).extractLsb' 0 1) != 0#1 || fs w == 0#5) false (.vminr (fka w) ((fs w).extractLsb' 1 4) (fpg w) (fla w))
  | 13#5 => check (fbit4 w != 0#1) false false (.topk (fkd w) (fka w) (fs w) (fpg w) (fla w))
  | 14#5 => check (fbit4 w != 0#1) false false (.cmpr48 (fkd w) (fka w) (fs w) (fpg w) (fla w))
  | 15#5 => check (fbit4 w != 0#1) false false (.vdec48 (fkd w) (fka w) (fs w) (fpg w) (fla w))
  | 16#5 => check (fka w != 0#4 || fbit4 w != 0#1) false false (.vrand (fkd w) (fs w) (fpg w) (fla w))
  | _ => .error 0x02#8

/-- Major 0x27 (R130). -/
def decodeKh (w : W32) : Decoded :=
  match ffn5 w with
  | 0#5 => check (fka w != 0#4 || fbit4 w != 0#1) (((fs w).extractLsb' 0 1) != 0#1 || fs w == 0#5) false (.kdef (fkd w) ((fs w).extractLsb' 1 4) (fpg w) (fla w))
  | 1#5 => check (fkd w != 0#4 || fbit4 w != 0#1) false false (.kst (fka w) (fs w) (fpg w) (fla w))
  | 2#5 => check (fkd w != 0#4 || fbit4 w != 0#1) (((fs w).extractLsb' 0 1) != 0#1 || fs w == 0#5) false (.kget (fka w) ((fs w).extractLsb' 1 4) (fpg w) (fla w))
  | 3#5 => check (fbit4 w != 0#1) false false (.kset (fkd w) (fka w) (fs w) (fpg w) (fla w))
  | 4#5 => check (fbit4 w != 0#1) false false (.kview (fkd w) (fka w) (fs w) (fpg w) (fla w))
  | _ => .error 0x02#8

/-- Major 0x28 (R130). -/
def decodeKx (w : W32) : Decoded :=
  match ffn6 w with
  | 0#6 => check (fkb w != 0#4 || fbit4 w != 0#1) false false (.dext (fkd w) (fka w) (fpg w) (fla w))
  | 1#6 => check (fkb w != 0#4 || fbit4 w != 0#1) false false (.dbnd (fkd w) (fka w) (fpg w) (fla w))
  | 2#6 => check (fkb w != 0#4 || fbit4 w != 0#1) false false (.hstar (fkd w) (fka w) (fpg w) (fla w))
  | 3#6 => check (fkb w != 0#4 || fbit4 w != 0#1) false false (.hstari (fkd w) (fka w) (fpg w) (fla w))
  | 4#6 => check (fbit4 w != 0#1) false false (.wedge (fkd w) (fka w) (fkb w) (fpg w) (fla w))
  | 5#6 => check (fbit4 w != 0#1) false false (.interp (fkd w) (fka w) (fkb w) (fpg w) (fla w))
  | 6#6 => check (fkb w != 0#4 || fbit4 w != 0#1) false false (.prolong (fkd w) (fka w) (fpg w) (fla w))
  | 7#6 => check (fbit4 w != 0#1) false false (.gathi (fkd w) (fka w) (fkb w) (fpg w) (fla w))
  | 8#6 => check (fbit4 w != 0#1) false false (.scati (fkd w) (fka w) (fkb w) (fpg w) (fla w))
  | _ => .error 0x02#8

/-- Major 0x29 (R130). -/
def decodeCplx (w : W32) : Decoded :=
  match ffn w with
  | 0#7 => check (fb w != 0#5) false false (.cload (fd w) (fa w) (fla w))
  | 1#7 => check (fd w != 0#5 || fb w != 0#5) false false (.cdrop (fa w) (fla w))
  | 2#7 => .ok (.cquery (fd w) (fa w) (fb w) (fla w))
  | 3#7 => check (fb w != 0#5) false false (.cref (fd w) (fa w) (fla w))
  | _ => .error 0x02#8

/-- Major 0x2a (R130). -/
def decodeTra (w : W32) : Decoded :=
  match ffn w with
  | 0#7 => check (fa w != 0#5 || fb w != 0#5) false false (.tracq (fd w) (fla w))
  | 1#7 => check (fd w != 0#5 || fa w != 0#5 || fb w != 0#5) false false (.trrel (fla w))
  | 2#7 => check (fd w != 0#5) false false (.trload (fa w) (fb w) (fla w))
  | 3#7 => check (fd w != 0#5) false false (.trset (fa w) (fb w) (fla w))
  | 4#7 => check (fa w != 0#5 || fb w != 0#5) false false (.trgo (fd w) (fla w))
  | 5#7 => check (fd w != 0#5) false false (.trget (fa w) (fb w) (fla w))
  | 6#7 => check (fd w != 0#5 || fa w != 0#5 || fb w != 0#5) false false (.trrst (fla w))
  | _ => .error 0x02#8

/-- Major 0x2b (R130). -/
def decodeMint (w : W32) : Decoded :=
  match ffn w with
  | 0#7 => check false false (fla w != 0#4) (.mint (fd w) (fa w) (fb w))
  | 1#7 => check (fd w != 0#5 || fb w != 0#5) false (fla w != 0#4) (.mintk (fa w))
  | _ => .error 0x02#8

/-- Hint space (R128): codes past SPINH do nothing, as HNOP does; no hint is ever refused. -/
def decodeHint (w : W32) : Decoded :=
  match ffn w with
  | 1#7 => .ok (.prefl (fd w) (fa w) (fb w) (fla w))
  | 2#7 => .ok (.prefd (fd w) (fa w) (fb w) (fla w))
  | 3#7 => .ok (.spinh (fd w) (fa w) (fb w) (fla w))
  | _ => .ok (.hnop (fd w) (fa w) (fb w) (fla w))

/-- The MOD word by itself (R125, R126): an odd c with clamp, a c without clamp or a bit of [8:0] is reason 0x05. Whether its
target may carry it is decided where the pair is fetched (R126). -/
def decodeMod (w : W32) : Decoded :=
  let c := w.extractLsb' 9 5
  let k := w.extractLsb' 24 1
  if w.extractLsb' 0 9 != 0#9 || (k == 1#1 && c.extractLsb' 0 1 != 0#1) || (k == 0#1 && c != 0#5) then .error 0x05#8
  else .ok (.mod (w.extractLsb' 25 1) k (w.extractLsb' 23 1) (w.extractLsb' 22 1) (w.extractLsb' 21 1)
    (w.extractLsb' 20 1) (w.extractLsb' 14 6) c)

/-- The opcode map (R130): any word is an instruction or is refused by its reason (R129). -/
def decode (w : W32) : Decoded :=
  match fop w with
  | 0#6 => decodeSys w
  | 1#6 => decodeInt w
  | 2#6 => .ok (.addi (fd w) (fa w) (fimm w))
  | 3#6 => .ok (.andi (fd w) (fa w) (fimm w))
  | 4#6 => .ok (.ori (fd w) (fa w) (fimm w))
  | 5#6 => .ok (.xori (fd w) (fa w) (fimm w))
  | 6#6 => .ok (.slti (fd w) (fa w) (fimm w))
  | 7#6 => .ok (.sltiu (fd w) (fa w) (fimm w))
  | 8#6 => decodeShi w
  | 9#6 => check (fa w != 0#5) false false (.lui (fd w) (fimm w))
  | 10#6 => .ok (.insh (fd w) (fa w) (fimm w))
  | 11#6 => decodeCmpp w
  | 12#6 => .ok (.beq (fd w) (fa w) (fimm w))
  | 13#6 => .ok (.bne (fd w) (fa w) (fimm w))
  | 14#6 => .ok (.blt (fd w) (fa w) (fimm w))
  | 15#6 => .ok (.bge (fd w) (fa w) (fimm w))
  | 16#6 => .ok (.bltu (fd w) (fa w) (fimm w))
  | 17#6 => .ok (.bgeu (fd w) (fa w) (fimm w))
  | 18#6 => decodeBp w
  | 19#6 => .ok (.j (foff w))
  | 20#6 => .ok (.jal (foff w))
  | 21#6 => .ok (.jalr (fd w) (fa w) (fimm w))
  | 22#6 => .ok (.rpt (w.extractLsb' 22 4) (w.extractLsb' 20 2) (w.extractLsb' 18 2) (w.extractLsb' 16 2) (fimm w))
  | 23#6 => check (w.extractLsb' 0 11 != 0#11) false false (.rptr (w.extractLsb' 22 4) (w.extractLsb' 20 2) (w.extractLsb' 18 2) (w.extractLsb' 16 2) (fb w))
  | 24#6 => decodeFp w
  | 25#6 => decodeLds w
  | 26#6 => decodeSts w
  | 27#6 => decodeLdsync w
  | 28#6 => decodeAtom w
  | 29#6 => decodeMsg w
  | 30#6 => decodeTask w
  | 31#6 => decodeSync w
  | 32#6 => decodeCopy w
  | 33#6 => decodeXfab w
  | 34#6 => decodeStrm w
  | 35#6 => decodeMxc w
  | 36#6 => decodeKe w
  | 37#6 => decodeKu w
  | 38#6 => decodeKs w
  | 39#6 => decodeKh w
  | 40#6 => decodeKx w
  | 41#6 => decodeCplx w
  | 42#6 => decodeTra w
  | 43#6 => decodeMint w
  | 62#6 => decodeMod w
  | 63#6 => decodeHint w
  | _ => .error 0x01#8

/-! ### The encoder -/

/-- F-R (R113), high field first. -/
def packR (op : BitVec 6) (d a b : BitVec 5) (fn : BitVec 7) (la : BitVec 4) : W32 := op ++ d ++ a ++ b ++ fn ++ la
/-- F-I and F-B (R113). -/
def packI (op : BitVec 6) (d a : BitVec 5) (imm : BitVec 16) : W32 := op ++ d ++ a ++ imm
/-- F-J (R113). -/
def packJ (op : BitVec 6) (off : BitVec 26) : W32 := op ++ off
/-- F-M (R113). -/
def packM (op : BitVec 6) (d a : BitVec 5) (kind : BitVec 3) (off : BitVec 9) (la : BitVec 4) : W32 := op ++ d ++ a ++ kind ++ off ++ la
/-- F-K (R113). -/
def packK (op : BitVec 6) (d a b : BitVec 4) (fn : BitVec 6) (g : BitVec 3) (z : BitVec 1) (la : BitVec 4) : W32 :=
  op ++ d ++ a ++ b ++ fn ++ g ++ z ++ la
/-- F-KS (R113). -/
def packKS (op : BitVec 6) (d a : BitVec 4) (s fn : BitVec 5) (g : BitVec 3) (z : BitVec 1) (la : BitVec 4) : W32 :=
  op ++ d ++ a ++ s ++ fn ++ g ++ z ++ la
/-- BRK (R387). -/
def packBrk (n : BitVec 15) : W32 := 0#6 ++ n ++ 1#7 ++ 0#4
/-- RPT and RPTR (R165): len, the three stride codes, and the low half. -/
def packRpt (op : BitVec 6) (n : BitVec 4) (x y z : BitVec 2) (t : BitVec 16) : W32 := op ++ n ++ x ++ y ++ z ++ t
/-- MOD (R125). -/
def packMod (sat clamp absa nega absb negb : BitVec 1) (scale : BitVec 6) (c : BitVec 5) : W32 :=
  62#6 ++ sat ++ clamp ++ absa ++ nega ++ absb ++ negb ++ scale ++ c ++ 0#9

/-- The word of an instruction; a step that has no word gives NOP's, which `isWord` tells apart. -/
def encode (i : Instr) : W32 :=
  match i with
  | .nop => packR 0#6 0#5 0#5 0#5 0#7 0#4
  | .brk n => packBrk n
  | .crr d h l => packR 0#6 d h l 2#7 0#4
  | .crw h a l => packR 0#6 h a l 3#7 0#4
  | .crs h a l => packR 0#6 h a l 4#7 0#4
  | .crc h a l => packR 0#6 h a l 5#7 0#4
  | .publish d a b => packR 0#6 d a b 6#7 0#4
  | .add d a b => packR 1#6 d a b 0#7 0#4
  | .sub d a b => packR 1#6 d a b 1#7 0#4
  | .and d a b => packR 1#6 d a b 2#7 0#4
  | .or d a b => packR 1#6 d a b 3#7 0#4
  | .xor d a b => packR 1#6 d a b 4#7 0#4
  | .andn d a b => packR 1#6 d a b 5#7 0#4
  | .orn d a b => packR 1#6 d a b 6#7 0#4
  | .sll d a b => packR 1#6 d a b 7#7 0#4
  | .srl d a b => packR 1#6 d a b 8#7 0#4
  | .sra d a b => packR 1#6 d a b 9#7 0#4
  | .rol d a b => packR 1#6 d a b 10#7 0#4
  | .ror d a b => packR 1#6 d a b 11#7 0#4
  | .slt d a b => packR 1#6 d a b 12#7 0#4
  | .sltu d a b => packR 1#6 d a b 13#7 0#4
  | .min d a b => packR 1#6 d a b 14#7 0#4
  | .max d a b => packR 1#6 d a b 15#7 0#4
  | .minu d a b => packR 1#6 d a b 16#7 0#4
  | .maxu d a b => packR 1#6 d a b 17#7 0#4
  | .mul d a b l => packR 1#6 d a b 18#7 l
  | .mulh d a b l => packR 1#6 d a b 19#7 l
  | .mulhu d a b l => packR 1#6 d a b 20#7 l
  | .div d a b l => packR 1#6 d a b 21#7 l
  | .divu d a b l => packR 1#6 d a b 22#7 l
  | .rem d a b l => packR 1#6 d a b 23#7 l
  | .remu d a b l => packR 1#6 d a b 24#7 l
  | .clz d a => packR 1#6 d a 0#5 25#7 0#4
  | .ctz d a => packR 1#6 d a 0#5 26#7 0#4
  | .popc d a => packR 1#6 d a 0#5 27#7 0#4
  | .bswap d a => packR 1#6 d a 0#5 28#7 0#4
  | .sextb d a => packR 1#6 d a 0#5 29#7 0#4
  | .sexth d a => packR 1#6 d a 0#5 30#7 0#4
  | .sextw d a => packR 1#6 d a 0#5 31#7 0#4
  | .zextb d a => packR 1#6 d a 0#5 32#7 0#4
  | .zexth d a => packR 1#6 d a 0#5 33#7 0#4
  | .zextw d a => packR 1#6 d a 0#5 34#7 0#4
  | .csel d a b => packR 1#6 d a b 35#7 0#4
  | .addi d a i => packI 2#6 d a i
  | .andi d a i => packI 3#6 d a i
  | .ori d a i => packI 4#6 d a i
  | .xori d a i => packI 5#6 d a i
  | .slti d a i => packI 6#6 d a i
  | .sltiu d a i => packI 7#6 d a i
  | .slli d a n => packI 8#6 d a (0#10 ++ n)
  | .srli d a n => packI 8#6 d a (1#10 ++ n)
  | .srai d a n => packI 8#6 d a (2#10 ++ n)
  | .rori d a n => packI 8#6 d a (3#10 ++ n)
  | .lui d i => packI 9#6 d 0#5 i
  | .insh d a i => packI 10#6 d a i
  | .ceq p a b => packR 11#6 (0#2 ++ p) a b 0#7 0#4
  | .cne p a b => packR 11#6 (0#2 ++ p) a b 1#7 0#4
  | .clt p a b => packR 11#6 (0#2 ++ p) a b 2#7 0#4
  | .cltu p a b => packR 11#6 (0#2 ++ p) a b 3#7 0#4
  | .cge p a b => packR 11#6 (0#2 ++ p) a b 4#7 0#4
  | .cgeu p a b => packR 11#6 (0#2 ++ p) a b 5#7 0#4
  | .fceq p a b => packR 11#6 (0#2 ++ p) a b 6#7 0#4
  | .fclt p a b => packR 11#6 (0#2 ++ p) a b 7#7 0#4
  | .fcle p a b => packR 11#6 (0#2 ++ p) a b 8#7 0#4
  | .fcun p a b => packR 11#6 (0#2 ++ p) a b 9#7 0#4
  | .pand p a b => packR 11#6 (0#2 ++ p) (0#2 ++ a) (0#2 ++ b) 10#7 0#4
  | .por p a b => packR 11#6 (0#2 ++ p) (0#2 ++ a) (0#2 ++ b) 11#7 0#4
  | .pxor p a b => packR 11#6 (0#2 ++ p) (0#2 ++ a) (0#2 ++ b) 12#7 0#4
  | .pandn p a b => packR 11#6 (0#2 ++ p) (0#2 ++ a) (0#2 ++ b) 13#7 0#4
  | .ptos p a => packR 11#6 (0#2 ++ p) a 0#5 14#7 0#4
  | .sbitp p a b => packR 11#6 (0#2 ++ p) a b 15#7 0#4
  | .beq a b o => packI 12#6 a b o
  | .bne a b o => packI 13#6 a b o
  | .blt a b o => packI 14#6 a b o
  | .bge a b o => packI 15#6 a b o
  | .bltu a b o => packI 16#6 a b o
  | .bgeu a b o => packI 17#6 a b o
  | .bpt p o => packI 18#6 (0#2 ++ p) 0#5 o
  | .bpf p o => packI 18#6 (2#2 ++ p) 0#5 o
  | .j o => packJ 19#6 o
  | .jal o => packJ 20#6 o
  | .jalr d a i => packI 21#6 d a i
  | .rpt n x y z t => packRpt 22#6 n x y z t
  | .rptr n x y z b => packRpt 23#6 n x y z (b ++ 0#11)
  | .fadd d a b l => packR 24#6 d a b 0#7 l
  | .fsub d a b l => packR 24#6 d a b 1#7 l
  | .fmul d a b l => packR 24#6 d a b 2#7 l
  | .fdiv d a b l => packR 24#6 d a b 3#7 l
  | .fsqrt d a l => packR 24#6 d a 0#5 4#7 l
  | .fmac d a b l => packR 24#6 d a b 5#7 l
  | .fmin d a b l => packR 24#6 d a b 6#7 l
  | .fmax d a b l => packR 24#6 d a b 7#7 l
  | .frnd d a l => packR 24#6 d a 0#5 8#7 l
  | .fclass d a l => packR 24#6 d a 0#5 9#7 l
  | .fcvtWS d a l => packR 24#6 d a 0#5 10#7 l
  | .fcvtSW d a l => packR 24#6 d a 0#5 11#7 l
  | .fcvtSBf d a l => packR 24#6 d a 0#5 12#7 l
  | .fcvtBfS d a l => packR 24#6 d a 0#5 13#7 l
  | .fcvtSH d a l => packR 24#6 d a 0#5 14#7 l
  | .fcvtHS d a l => packR 24#6 d a 0#5 15#7 l
  | .fcvtSE4 d a l => packR 24#6 d a 0#5 16#7 l
  | .fcvtE4S d a l => packR 24#6 d a 0#5 17#7 l
  | .fcvtSE5 d a l => packR 24#6 d a 0#5 18#7 l
  | .fcvtE5S d a l => packR 24#6 d a 0#5 19#7 l
  | .ldb d a o l => packM 25#6 d a 0#3 o l
  | .ldbu d a o l => packM 25#6 d a 1#3 o l
  | .ldh d a o l => packM 25#6 d a 2#3 o l
  | .ldhu d a o l => packM 25#6 d a 3#3 o l
  | .ldw d a o l => packM 25#6 d a 4#3 o l
  | .ldwu d a o l => packM 25#6 d a 5#3 o l
  | .ldd d a o l => packM 25#6 d a 6#3 o l
  | .stb d a o l => packM 26#6 d a 0#3 o l
  | .sth d a o l => packM 26#6 d a 1#3 o l
  | .stw d a o l => packM 26#6 d a 2#3 o l
  | .std d a o l => packM 26#6 d a 3#3 o l
  | .st64 d a o l => packM 26#6 (d ++ 0#3) a 4#3 o l
  | .stfl d a o l => packM 26#6 d a 5#3 o l
  | .ldf d a o l => packM 27#6 d a 0#3 o l
  | .ldfe d a o l => packM 27#6 d a 1#3 o l
  | .fetest d a o l => packM 27#6 d a 2#3 o l
  | .feclr a o l => packM 27#6 0#5 a 3#3 o l
  | .amoadd d a b r l => packR 28#6 d a b (r ++ 0#5) l
  | .amoswp d a b r l => packR 28#6 d a b (r ++ 1#5) l
  | .amocas d a b r l => packR 28#6 d a b (r ++ 2#5) l
  | .amomin d a b r l => packR 28#6 d a b (r ++ 3#5) l
  | .amomax d a b r l => packR 28#6 d a b (r ++ 4#5) l
  | .amominu d a b r l => packR 28#6 d a b (r ++ 5#5) l
  | .amomaxu d a b r l => packR 28#6 d a b (r ++ 6#5) l
  | .amoand d a b r l => packR 28#6 d a b (r ++ 7#5) l
  | .amoor d a b r l => packR 28#6 d a b (r ++ 8#5) l
  | .amoxor d a b r l => packR 28#6 d a b (r ++ 9#5) l
  | .redx a b r l => packR 28#6 0#5 a b (r ++ 10#5) l
  | .redq a b r l => packR 28#6 0#5 a b (r ++ 11#5) l
  | .redget d a b r l => packR 28#6 (d ++ 0#1) a b (r ++ 12#5) l
  | .redclr a r l => packR 28#6 0#5 a 0#5 (r ++ 13#5) l
  | .send d a b => packR 29#6 d (a ++ 0#1) b 0#7 0#4
  | .recv d => packR 29#6 (d ++ 0#1) 0#5 0#5 1#7 0#4
  | .recvp d => packR 29#6 (d ++ 0#1) 0#5 0#5 2#7 0#4
  | .tkpush d a b => packR 30#6 d a b 0#7 0#4
  | .tkpop d => packR 30#6 (d ++ 0#1) 0#5 0#5 1#7 0#4
  | .tkdone => packR 30#6 0#5 0#5 0#5 2#7 0#4
  | .gang a => packR 30#6 0#5 a 0#5 3#7 0#4
  | .ungang => packR 30#6 0#5 0#5 0#5 4#7 0#4
  | .bar l => packR 31#6 0#5 (0#2 ++ l) 0#5 0#7 0#4
  | .vote d a o l => packR 31#6 d a (o ++ l) 1#7 0#4
  | .phase l => packR 31#6 0#5 (0#2 ++ l) 0#5 2#7 0#4
  | .wfe d a => packR 31#6 d a 0#5 3#7 0#4
  | .sev a b => packR 31#6 0#5 a b 4#7 0#4
  | .waitt d a => packR 31#6 d a 0#5 5#7 0#4
  | .fence d s w => packR 31#6 d (0#3 ++ s) (0#4 ++ w) 6#7 0#4
  | .cfence => packR 31#6 0#5 0#5 0#5 7#7 0#4
  | .cpy d a l => packR 32#6 d (a ++ 0#2) 0#5 0#7 l
  | .cpynb d a l => packR 32#6 d (a ++ 0#2) 0#5 1#7 l
  | .cpyq d l => packR 32#6 d 0#5 0#5 2#7 l
  | .dpost a b l => packR 33#6 0#5 a b 0#7 l
  | .xchg d a b l => packR 33#6 d a b 1#7 l
  | .calq d a l => packR 33#6 d a 0#5 2#7 l
  | .gather d a l => packR 33#6 d (a ++ 0#2) 0#5 3#7 l
  | .scatter d a l => packR 33#6 d (a ++ 0#2) 0#5 4#7 l
  | .dispatch d a l => packR 33#6 d (a ++ 0#2) 0#5 5#7 l
  | .combine d a l => packR 33#6 d (a ++ 0#2) 0#5 6#7 l
  | .sbind n => packR 34#6 (3#2 ++ n) 0#5 0#5 0#7 0#4
  | .sfree n => packR 34#6 (3#2 ++ n) 0#5 0#5 1#7 0#4
  | .sdrain n => packR 34#6 (3#2 ++ n) 0#5 0#5 2#7 0#4
  | .sstat d n => packR 34#6 d (3#2 ++ n) 0#5 3#7 0#4
  | .accrd t a b l => packR 35#6 (0#1 ++ t) a b 0#7 l
  | .accwr t a b l => packR 35#6 (0#1 ++ t) a b 1#7 l
  | .mxwait d a l => packR 35#6 d a 0#5 2#7 l
  | .mxseq d l => packR 35#6 d 0#5 0#5 3#7 l
  | .vadd d a b g l => packK 36#6 d a b 0#6 g 0#1 l
  | .vsub d a b g l => packK 36#6 d a b 1#6 g 0#1 l
  | .vmul d a b g l => packK 36#6 d a b 2#6 g 0#1 l
  | .vdiv d a b g l => packK 36#6 d a b 3#6 g 0#1 l
  | .vmin d a b g l => packK 36#6 d a b 4#6 g 0#1 l
  | .vmax d a b g l => packK 36#6 d a b 5#6 g 0#1 l
  | .vfma d a b g l => packK 36#6 d a b 6#6 g 0#1 l
  | .vfms d a b g l => packK 36#6 d a b 7#6 g 0#1 l
  | .vand d a b g l => packK 36#6 d a b 8#6 g 0#1 l
  | .vor d a b g l => packK 36#6 d a b 9#6 g 0#1 l
  | .vxor d a b g l => packK 36#6 d a b 10#6 g 0#1 l
  | .vcgt d a b g l => packK 36#6 d a b 11#6 g 0#1 l
  | .vcge d a b g l => packK 36#6 d a b 12#6 g 0#1 l
  | .vceq d a b g l => packK 36#6 d a b 13#6 g 0#1 l
  | .vsel d a b g l => packK 36#6 d a b 14#6 g 0#1 l
  | .vmov d a g l => packK 37#6 d a 0#4 0#6 g 0#1 l
  | .vsqrt d a g l => packK 37#6 d a 0#4 1#6 g 0#1 l
  | .vrcp d a g l => packK 37#6 d a 0#4 2#6 g 0#1 l
  | .vrsq d a g l => packK 37#6 d a 0#4 3#6 g 0#1 l
  | .vexp2 d a g l => packK 37#6 d a 0#4 4#6 g 0#1 l
  | .vlog2 d a g l => packK 37#6 d a 0#4 5#6 g 0#1 l
  | .vcvt d a g l => packK 37#6 d a 0#4 6#6 g 0#1 l
  | .vadds d a s g l => packKS 38#6 d a s 0#5 g 0#1 l
  | .vsubs d a s g l => packKS 38#6 d a s 1#5 g 0#1 l
  | .vmuls d a s g l => packKS 38#6 d a s 2#5 g 0#1 l
  | .vfmas d a s g l => packKS 38#6 d a s 3#5 g 0#1 l
  | .vmins d a s g l => packKS 38#6 d a s 4#5 g 0#1 l
  | .vmaxs d a s g l => packKS 38#6 d a s 5#5 g 0#1 l
  | .vfill d s g l => packKS 38#6 d 0#4 s 6#5 g 0#1 l
  | .vgete a s g l => packKS 38#6 0#4 a (s ++ 0#1) 7#5 g 0#1 l
  | .vpute d s g l => packKS 38#6 d 0#4 (s ++ 0#1) 8#5 g 0#1 l
  | .vsum a s g l => packKS 38#6 0#4 a s 9#5 g 0#1 l
  | .vdot b a s g l => packKS 38#6 b a s 10#5 g 0#1 l
  | .vmaxr a s g l => packKS 38#6 0#4 a (s ++ 0#1) 11#5 g 0#1 l
  | .vminr a s g l => packKS 38#6 0#4 a (s ++ 0#1) 12#5 g 0#1 l
  | .topk d a s g l => packKS 38#6 d a s 13#5 g 0#1 l
  | .cmpr48 d a s g l => packKS 38#6 d a s 14#5 g 0#1 l
  | .vdec48 d a s g l => packKS 38#6 d a s 15#5 g 0#1 l
  | .vrand d s g l => packKS 38#6 d 0#4 s 16#5 g 0#1 l
  | .kdef d s g l => packKS 39#6 d 0#4 (s ++ 0#1) 0#5 g 0#1 l
  | .kst a s g l => packKS 39#6 0#4 a s 1#5 g 0#1 l
  | .kget a s g l => packKS 39#6 0#4 a (s ++ 0#1) 2#5 g 0#1 l
  | .kset d a s g l => packKS 39#6 d a s 3#5 g 0#1 l
  | .kview d a s g l => packKS 39#6 d a s 4#5 g 0#1 l
  | .dext d a g l => packK 40#6 d a 0#4 0#6 g 0#1 l
  | .dbnd d a g l => packK 40#6 d a 0#4 1#6 g 0#1 l
  | .hstar d a g l => packK 40#6 d a 0#4 2#6 g 0#1 l
  | .hstari d a g l => packK 40#6 d a 0#4 3#6 g 0#1 l
  | .wedge d a b g l => packK 40#6 d a b 4#6 g 0#1 l
  | .interp d a b g l => packK 40#6 d a b 5#6 g 0#1 l
  | .prolong d a g l => packK 40#6 d a 0#4 6#6 g 0#1 l
  | .gathi d a b g l => packK 40#6 d a b 7#6 g 0#1 l
  | .scati d a b g l => packK 40#6 d a b 8#6 g 0#1 l
  | .cload d a l => packR 41#6 d a 0#5 0#7 l
  | .cdrop a l => packR 41#6 0#5 a 0#5 1#7 l
  | .cquery d a b l => packR 41#6 d a b 2#7 l
  | .cref d a l => packR 41#6 d a 0#5 3#7 l
  | .tracq d l => packR 42#6 d 0#5 0#5 0#7 l
  | .trrel l => packR 42#6 0#5 0#5 0#5 1#7 l
  | .trload a b l => packR 42#6 0#5 a b 2#7 l
  | .trset a b l => packR 42#6 0#5 a b 3#7 l
  | .trgo d l => packR 42#6 d 0#5 0#5 4#7 l
  | .trget a b l => packR 42#6 0#5 a b 5#7 l
  | .trrst l => packR 42#6 0#5 0#5 0#5 6#7 l
  | .mint d a b => packR 43#6 d a b 0#7 0#4
  | .mintk a => packR 43#6 0#5 a 0#5 1#7 0#4
  | .mod t k a n b m e r => packMod t k a n b m e r
  | .hnop d a b l => packR 63#6 d a b 0#7 l
  | .prefl d a b l => packR 63#6 d a b 1#7 l
  | .prefd d a b l => packR 63#6 d a b 2#7 l
  | .spinh d a b l => packR 63#6 d a b 3#7 l
  | .longLatencyComplete _ _ => 0#32
  | .coreWaitEnd _ _ => 0#32
  | .contextCreate _ _ => 0#32
  | .contextDestroy _ => 0#32
  | .queueNotify _ _ => 0#32
  | .queueErrClear _ => 0#32
  | .launchRecord _ => 0#32
  | .publishRecord _ => 0#32
  | .nopRecord _ => 0#32
  | .publisherServe _ => 0#32
  | .launchPlacement _ _ _ => 0#32
  | .wakeFlit _ _ _ => 0#32
  | .queueQuantumEnd => 0#32
  | .launchRetirement _ => 0#32
  | .tlbinv _ _ => 0#32
  | .tlbinvDone _ => 0#32
  | .hcmdResume _ _ => 0#32
  | .hcmdSkip _ _ => 0#32
  | .hcmdKill _ _ => 0#32
  | .hcmdAbt _ _ => 0#32
  | .frheadWrite _ _ => 0#32
  | .faultRecordDelivery => 0#32
  | .readbackCoreImage _ _ => 0#32
  | .readbackRaceArray _ _ => 0#32
  | .readbackTellerFlush _ _ => 0#32
  | .mctpRead8 _ _ => 0#32
  | .mctpWrite8 _ _ _ => 0#32
  | .freeze _ _ _ => 0#32
  | .attest _ _ => 0#32
  | .bootstLoad => 0#32
  | .ramptelClear => 0#32
  | .lnkstatClear _ _ => 0#32
  | .registerWrite _ _ _ => 0#32
  | .powerControlTick _ _ => 0#32
  | .coolantHot _ _ => 0#32
  | .coolantRecover _ _ => 0#32
  | .resetBoot _ _ _ _ _ => 0#32
  | .patrolScrub _ _ _ _ => 0#32
  | .laneTraining _ _ _ _ => 0#32
  | .laneTrainingTimeout _ _ => 0#32
  | .laneDown _ _ => 0#32
  | .edgeFrameReceive _ _ _ _ _ => 0#32
  | .routerCycle _ _ => 0#32
  | .readRequestFlit _ => 0#32
  | .writeRequestFlit _ _ _ => 0#32
  | .atomicRequestFlit _ _ _ _ _ => 0#32
  | .readReplyFlit _ _ _ => 0#32
  | .writeAckFlit _ _ _ => 0#32
  | .atomicReplyFlit _ _ _ _ => 0#32
  | .nackFlit _ _ _ => 0#32
  | .messageFlit _ _ _ _ _ => 0#32
  | .copyDataFlit _ _ _ _ _ => 0#32
  | .timeBeacon _ => 0#32
  | .remoteCompletionFlag _ _ _ _ => 0#32
  | .moduleMarkedDown _ => 0#32
  | .tellerAccept _ => 0#32
  | .tellerExecute _ => 0#32
  | .copyRequestStart _ _ => 0#32
  | .copyBeat _ => 0#32
  | .copyFlagPost _ _ => 0#32
  | .matrixCommandStart _ _ => 0#32
  | .matrixKStep _ _ => 0#32
  | .matrixCommandComplete _ _ => 0#32
  | .rampWindowBoundary => 0#32
  | .cochainArbitrate _ => 0#32
  | .cochainComplete _ _ => 0#32
  | .streamFetch _ _ _ => 0#32
  | .streamElementWrite _ _ _ => 0#32
  | .stealProbe _ _ => 0#32
  | .writeSetReturn _ _ => 0#32
  | .episodeComplete _ _ _ _ => 0#32
  | .dpostServe _ => 0#32
  | .calendarCompute _ _ _ => 0#32
  | .standbyCalendarSend _ => 0#32
  | .calendarTake _ _ _ => 0#32
  | .circuitPhaseStart _ _ => 0#32
  | .circuitSendEnd _ _ => 0#32
  | .circuitPhaseEnd _ _ => 0#32
  | .residueSend _ => 0#32
  | .exchangeComplete _ _ => 0#32
  | .preemptionSave _ _ => 0#32
  | .restoration _ _ _ => 0#32
  | .gangWaitTimeout _ _ => 0#32
  | .gangDetach _ _ _ => 0#32
  | .illegalInstruction _ => 0#32
  | .fetchFault => 0#32
  | .hostDeviceMemoryAccess _ _ _ _ _ => 0#32
  | .moduleRejoin _ _ => 0#32
  | .hostLinkError _ _ _ => 0#32
  | .pwrnowRead => 0#32
  | .powerDown => 0#32

/-- The instruction that `decode` reads from the table's word of nbits bits (all words have 32). -/
def decodeTableWord (nbits w : Nat) : Option Instr :=
  if nbits = 32 then (match decode (BitVec.ofNat 32 w) with | .ok i => some i | .error _ => none) else none

end Sys2Proof
end

