-- ==== Sys2Proof/Machine/Bits.lean ====
section
/-!
DEFINITION. Helpers on words: bit fields, sign extension, byte order (R3), sparse tables.
-/
namespace Sys2Proof.Machine

/-- The field [lo + w - 1 : lo] of a number, as a number. -/
def fld (n lo w : Nat) : Nat := n / 2 ^ lo % 2 ^ w

/-- The field [lo + w - 1 : lo] of a doubleword, as a number. -/
def bf (x : W64) (lo w : Nat) : Nat := fld x.toNat lo w

/-- Bit n of a doubleword. -/
def bit (x : W64) (n : Nat) : Bool := x.getLsbD n

/-- A number as a doubleword. -/
def w64 (n : Nat) : W64 := BitVec.ofNat 64 n

/-- An integer as a doubleword, modulo 2^64. -/
def i64 (n : Int) : W64 := BitVec.ofInt 64 n

/-- One when true. -/
def b64 (b : Bool) : W64 := if b then 1#64 else 0#64

/-- The value v placed at bit lo. -/
def at64 (v : Nat) (lo : Nat) : W64 := BitVec.ofNat 64 (v * 2 ^ lo)

/-- A w-bit field read as a two's-complement integer (R92). -/
def sext (n w : Nat) : Int := if n % 2 ^ w < 2 ^ (w - 1) then (n % 2 ^ w : Nat) else (n % 2 ^ w : Nat) - (2 ^ w : Nat)

/-- Bytes, lowest address first, as a number: little-endian (R3). -/
def ofBytes : List Byte → Nat
  | [] => 0
  | b :: bs => b.toNat + 256 * ofBytes bs

/-- The n low bytes of a number, lowest address first (R3). -/
def toBytes : Nat → Nat → List Byte
  | 0, _ => []
  | n + 1, v => BitVec.ofNat 8 v :: toBytes n (v / 256)

/-- An entry of a sparse table, d where the table lists none. -/
def tget {α : Type} (d : α) (k : Nat) : List (Nat × α) → α
  | [] => d
  | (i, v) :: t => if i = k then v else tget d k t

/-- Set an entry of a sparse table. -/
def tset {α : Type} (k : Nat) (v : α) : List (Nat × α) → List (Nat × α)
  | [] => [(k, v)]
  | (i, u) :: t => if i = k then (k, v) :: t else (i, u) :: tset k v t

/-- Change an entry of a sparse table. -/
def tmod {α : Type} (d : α) (k : Nat) (f : α → α) (t : List (Nat × α)) : List (Nat × α) := tset k (f (tget d k t)) t

/-- Ceiling of a quotient. -/
def cdiv (a b : Nat) : Nat := (a + b - 1) / b

/-- Saturating count (R85, R378, R400). -/
def satInc (n max : Nat) : Nat := if n < max then n + 1 else max

/-- LNKSTAT with field [lo + w - 1 : lo] replaced. -/
def lnkSet (x : W64) (lo w v : Nat) : W64 := (x &&& ~~~(at64 (2 ^ w - 1) lo)) ||| at64 (v % 2 ^ w) lo

/-- A saturating counter of LNKSTAT, RTRERR or ECCCNT counts one more. -/
def lnkCount (x : W64) (lo w : Nat) : W64 := lnkSet x lo w (satInc (bf x lo w) (2 ^ w - 1))

/-- The numbers 0 to n - 1. -/
def upTo (n : Nat) : List Nat := List.range n

end Sys2Proof.Machine
end

