-- ==== Sys2Proof/Machine/Exact.lean ====
section
/-!
DEFINITION. Exact magnitudes and the one rounding (R98 to R101, R107): a value is held exactly, and what a destination needs of it is
its floor on a grid, so that every mode rounds from the exact value.
-/
namespace Sys2Proof.Machine

/-- An exact non-negative value: m * 2^e; n / d * 2^e; the square root of n / d * 2^e; or a value that is not a fraction, known from
below as a * 2^e to 320 bits (2^A and log2 A; log entry 8). -/
inductive Mag where
  | dy (m : Nat) (e : Int)
  | quot (n d : Nat) (e : Int)
  | root (n d : Nat) (e : Int)
  | app (a : Nat) (e : Int)
deriving DecidableEq, Repr

/-- n * 2^k, rounded down, and whether that is exact. -/
def shl (n : Nat) (k : Int) : Nat × Bool :=
  if 0 ≤ k then (n * 2 ^ k.toNat, true) else (n / 2 ^ (-k).toNat, n % 2 ^ (-k).toNat == 0)

/-- Digits of the integer square root, from bit `fuel - 1` down. -/
def isqrtGo (n : Nat) : Nat → Nat → Nat
  | 0, r => r
  | f + 1, r => isqrtGo n f (if (r + 2 ^ f) * (r + 2 ^ f) ≤ n then r + 2 ^ f else r)

/-- The integer square root. -/
def isqrt (n : Nat) : Nat := isqrtGo n (Nat.log2 n / 2 + 1) 0

/-- The value is zero. -/
def Mag.isZero : Mag → Bool
  | .dy m _ => m == 0
  | .quot n _ _ => n == 0
  | .root n _ _ => n == 0
  | .app a _ => a == 0

/-- Floor of x * 2^k, and whether that is exact. -/
def Mag.flr (x : Mag) (k : Int) : Nat × Bool :=
  match x with
  | .dy m e => shl m (e + k)
  | .quot n d e =>
    let s := e + k
    if 0 ≤ s then (n * 2 ^ s.toNat / d, n * 2 ^ s.toNat % d == 0)
    else (n / (d * 2 ^ (-s).toNat), n % (d * 2 ^ (-s).toNat) == 0)
  | .root n d e =>
    let s := e + 2 * k
    let N := if 0 ≤ s then n * 2 ^ s.toNat else n
    let D := if 0 ≤ s then d else d * 2 ^ (-s).toNat
    let r := isqrt (N / D)
    (r, N % D == 0 && r * r == N / D)
  | .app a e => ((shl a (e + k)).1, false)

/-- Floor of log2 n / d for positive n and d. -/
def lgQuot (n d : Nat) : Int :=
  let t : Int := (Nat.log2 n : Int) - (Nat.log2 d : Int)
  let ge := if 0 ≤ t then decide (d * 2 ^ t.toNat ≤ n) else decide (d ≤ n * 2 ^ (-t).toNat)
  if ge then t else t - 1

/-- Floor of log2 x for a positive x. -/
def Mag.lg : Mag → Int
  | .dy m e => (Nat.log2 m : Int) + e
  | .quot n d e => lgQuot n d + e
  | .root n d e => (lgQuot n d + e).fdiv 2
  | .app a e => (Nat.log2 a : Int) + e

/-- x * 2^k (R107 scale). -/
def Mag.scale (x : Mag) (k : Int) : Mag :=
  match x with
  | .dy m e => .dy m (e + k)
  | .quot n d e => .quot n d (e + k)
  | .root n d e => .root n d (e + 2 * k)
  | .app a e => .app a (e + k)

/-- Compare x with m * 2^e: less, equal, greater. -/
def Mag.cmpDy (x : Mag) (m : Nat) (e : Int) : Ordering :=
  let (f, ex) := x.flr (-e)
  if f < m then .lt else if f == m && ex then .eq else .gt

/-- Rounding modes (R98): 0 RNE, 1 RZ, 2 RD, 3 SR. -/
abbrev RMode := BitVec 2

/-- The magnitude of ±x rounded to a multiple of 2^q, as that multiple, and whether it is inexact. `u` is the draw of SR (R99): for a
negative value lo is the multiple above in magnitude, and f32 is counted from it. -/
def roundAt (neg : Bool) (x : Mag) (q : Int) (mode : RMode) (u : Nat) : Nat × Bool :=
  let (f, ex) := x.flr (-q)
  if ex then (f, false) else
  let (g, gex) := x.flr (32 - q)
  let t := g % 2 ^ 32
  let up :=
    if mode = 0#2 then t > 2 ^ 31 || (t == 2 ^ 31 && (!gex || f % 2 == 1))
    else if mode = 1#2 then false
    else if mode = 2#2 then neg
    else if neg then !(decide (2 ^ 32 - t - (if gex then 0 else 1) > u)) else decide (t > u)
  (if up then f + 1 else f, true)

/-! ### 2^A and log2 A (R271, log entry 8) -/

/-- Fraction bits of the approximations. -/
def pBits : Nat := 320

/-- Floor of ln 2 * 2^320. -/
def ln2 : Nat := 1480553391661173448385607439722553250922680800745876974795605978609098082859138712941075737848984

/-- Sum of the power series of e^x for x = z / 2^320, term by term. -/
def expGo (z : Nat) : Nat → Nat → Nat → Nat → Nat
  | 0, _, _, acc => acc
  | f + 1, n, term, acc =>
    let t := term * z / 2 ^ pBits / n
    expGo z f (n + 1) t (acc + t)

/-- 2^f from below, for f = z / 2^320 in [0, 1), in units of 2^-320. -/
def exp2Frac (z : Nat) : Nat := expGo (z * ln2 / 2 ^ pBits) 90 1 (2 ^ pBits) (2 ^ pBits)

/-- 2^(±m * 2^e). An exponent beyond ±4000 is taken as ±4000, which every destination rounds alike. -/
def magExp2 (neg : Bool) (m : Nat) (e : Int) : Mag :=
  if m = 0 then .dy 1 0 else
  if (Nat.log2 m : Int) + e > 12 then .app (2 ^ pBits) ((if neg then -4000 else 4000) - pBits) else
  let (z, ex) := shl m (e + pBits)
  let zi : Int := if neg then -(z + (if ex then 0 else 1) : Int) else z
  let n := zi.fdiv (2 ^ pBits)
  let f := (zi.fmod (2 ^ pBits)).toNat
  if f = 0 ∧ ex then .dy 1 n else .app (exp2Frac f) (n - pBits)

/-- Sum of z^(2i+1) / (2i+1), in units of 2^-320. -/
def atanhGo (z2 : Nat) : Nat → Nat → Nat → Nat → Nat
  | 0, _, _, acc => acc
  | f + 1, i, pw, acc => atanhGo z2 f (i + 2) (pw * z2 / 2 ^ pBits) (acc + pw / i)

/-- log2 of m / 2^b for a fraction in [1, 2), in units of 2^-320, from below. -/
def log2Frac (m b : Nat) : Nat :=
  let z := (m - 2 ^ b) * 2 ^ pBits / (m + 2 ^ b)
  2 * atanhGo (z * z / 2 ^ pBits) 110 1 z 0 * 2 ^ pBits / ln2

/-- log2 (m * 2^e) for a positive m: its sign and magnitude. -/
def magLog2 (m : Nat) (e : Int) : Bool × Mag :=
  let b := Nat.log2 m
  let n : Int := b + e
  let f := log2Frac m b
  if m = 2 ^ b then (decide (n < 0), .dy n.natAbs 0)
  else if 0 ≤ n then (false, .app (n.toNat * 2 ^ pBits + f) (-pBits))
  else (true, .app ((-n).toNat * 2 ^ pBits - f - 1) (-pBits))

end Sys2Proof.Machine
end

