-- ==== Sys2Proof/Machine/Format.lean ====
section
/-!
DEFINITION. Number formats (R89 to R97), the one rounding into each of them (R98 to R101), the arithmetic of exact values with its
special cases (R90, R153 to R155, R271), and the Mint (R105).
-/
namespace Sys2Proof.Machine

/-- The Mint (R105): one round. -/
def mintRound (key x : W64) (i : Nat) : W64 :=
  let x := x + key + BitVec.ofNat 64 ((i + 1) * 0x9E3779B97F4A7C15)
  let x := x ^^^ (x >>> 31)
  let x := x * 0xBF58476D1CE4E5B9#64
  x ^^^ (x >>> 29)

/-- MINT(key, ctr) (R105). -/
def mint (key ctr : W64) : W64 := mintRound key (mintRound key (mintRound key (mintRound key ctr 0) 1) 2) 3

/-- The draw u of R99: bits [63:32] of the Mint's output. -/
def draw (key ctr : W64) : Nat := bf (mint key ctr) 32 32

/-- Flags raised by an operation: NV, DZ, OF, UF and NX (R102), OV of a CQ or PS2 destination (R101, R95), and whether an integer or
CQ destination saturated (R103 OVT, R104). -/
structure Fl where
  nv : Bool := false
  dz : Bool := false
  ovf : Bool := false
  uf : Bool := false
  nx : Bool := false
  ov : Bool := false
  sat : Bool := false
deriving DecidableEq, Repr

/-- Both sets of flags. -/
def Fl.or (a b : Fl) : Fl :=
  ⟨a.nv || b.nv, a.dz || b.dz, a.ovf || b.ovf, a.uf || b.uf, a.nx || b.nx, a.ov || b.ov, a.sat || b.sat⟩

/-- No flag. -/
def Fl.none : Fl := {}

/-- FFLAGS bits (R102). -/
def Fl.fflags (f : Fl) : W64 :=
  at64 f.nv.toNat 4 ||| at64 f.dz.toNat 3 ||| at64 f.ovf.toNat 2 ||| at64 f.uf.toNat 1 ||| at64 f.nx.toNat 0

/-- Handle flag bits OV, NV, NX at [45:43] (R46, R104). -/
def Fl.handle (f : Fl) : Handle :=
  BitVec.ofNat 128 ((f.ovf || f.ov || f.sat).toNat * 2 ^ 45 + (f.nv || f.dz).toNat * 2 ^ 44 + (f.nx || f.uf).toNat * 2 ^ 43)

/-- An exact value (R266): a NaN with its sign and its fraction aligned to 23 bits, an infinity, or a signed magnitude. -/
inductive Val where
  | nan (neg : Bool) (frac : Nat)
  | inf (neg : Bool)
  | fin (neg : Bool) (m : Mag)
deriving DecidableEq, Repr

/-- An integer times 2^e. -/
def Val.int (n : Int) (e : Int) : Val := .fin (decide (n < 0)) (.dy n.natAbs e)

/-- The default NaN (R90). -/
def Val.dnan : Val := .nan false (2 ^ 22)

def Val.isNan : Val → Bool
  | .nan _ _ => true
  | _ => false

/-- A NaN whose most significant fraction bit is 0 (R90). -/
def Val.isSnan : Val → Bool
  | .nan _ f => f / 2 ^ 22 % 2 == 0
  | _ => false

/-- Set the most significant fraction bit of a NaN (R90). -/
def Val.quiet : Val → Val
  | .nan s f => .nan s (if f / 2 ^ 22 % 2 = 0 then f + 2 ^ 22 else f)
  | v => v

def Val.isZero : Val → Bool
  | .fin _ m => m.isZero
  | _ => false

def Val.neg : Val → Bool
  | .nan s _ => s
  | .inf s => s
  | .fin s _ => s

/-- Sign change and magnitude act on the sign only (R107). -/
def Val.setNeg (s : Bool) : Val → Val
  | .nan _ f => .nan s f
  | .inf _ => .inf s
  | .fin _ m => .fin s m

/-! ### Floating-point encodings (R89) -/

/-- Exponent and fraction widths; `e4` marks E4M3, which has no infinity. -/
structure FpFmt where
  eb : Nat
  fb : Nat
  e4 : Bool
deriving DecidableEq, Repr

def fp32 : FpFmt := ⟨8, 23, false⟩
def bf16 : FpFmt := ⟨8, 7, false⟩
def fp16 : FpFmt := ⟨5, 10, false⟩
def e4m3 : FpFmt := ⟨4, 3, true⟩
def e5m2 : FpFmt := ⟨5, 2, false⟩

def FpFmt.bias (f : FpFmt) : Int := 2 ^ (f.eb - 1) - 1

/-- The greatest exponent field. -/
def FpFmt.emax (f : FpFmt) : Nat := 2 ^ f.eb - 1

/-- The value of an encoding (R89). -/
def FpFmt.read (f : FpFmt) (bits : Nat) : Val :=
  let s := fld bits (f.eb + f.fb) 1 == 1
  let e := fld bits f.fb f.eb
  let m := fld bits 0 f.fb
  if f.e4 && e == 15 && m == 7 then .nan s (2 ^ 22)
  else if !f.e4 && e == f.emax then (if m = 0 then .inf s else .nan s (m * 2 ^ (23 - f.fb)))
  else if e = 0 then .fin s (.dy m (1 - f.bias - f.fb))
  else .fin s (.dy (2 ^ f.fb + m) (e - f.bias - f.fb))

/-- The bits of a largest finite value, without its sign (R89). -/
def FpFmt.maxBits (f : FpFmt) : Nat := if f.e4 then 0x7E else f.emax * 2 ^ f.fb - 1

/-- The bits of an infinity, or of the NaN that stands for it in E4M3 (R100). -/
def FpFmt.infBits (f : FpFmt) : Nat := if f.e4 then 0x7F else f.emax * 2 ^ f.fb

/-- A NaN in the format (R101): sign kept, leading fraction bits kept, quiet bit set; E4M3 and E5M2 have one NaN a sign. -/
def FpFmt.nanBits (f : FpFmt) (frac : Nat) : Nat :=
  if f.e4 then 0x7F else if f.fb = 2 then 0x7E
  else f.infBits + (frac / 2 ^ (23 - f.fb)) % 2 ^ (f.fb - 1) + 2 ^ (f.fb - 1)

/-- The value rounded once to the format (R98 to R101), with saturation of R107 or a saturating copy when `sat`. -/
def FpFmt.round (f : FpFmt) (mode : RMode) (u : Nat) (sat : Bool) (v : Val) : Nat × Fl :=
  let sgn (s : Bool) (b : Nat) : Nat := s.toNat * 2 ^ (f.eb + f.fb) + b
  match v with
  | .nan s fr => (sgn s (f.nanBits fr), .none)
  | .inf s => if sat then (sgn s f.maxBits, { ovf := true, nx := true }) else (sgn s f.infBits, { nv := f.e4 })
  | .fin s x =>
    if x.isZero then (sgn s 0, .none) else
    let fb : Int := f.fb
    let emin := 1 - f.bias
    let e := x.lg
    let big := FpFmt.read f f.maxBits
    let beyond := match big with
      | .fin _ (.dy m k) => x.cmpDy m k == .gt
      | _ => false
    let mode := if mode = 3#2 && beyond then 1#2 else mode
    let q := if e < emin then emin - fb else e - fb
    let (r, nx) := roundAt s x q mode u
    let ofl := match big with
      | .fin _ (.dy m k) => decide (r * 2 ^ (q - k + 1).toNat > m * 2)
      | _ => false
    if ofl && decide (emin ≤ e) then
      let toInf := !sat && (mode = 0#2 || (mode = 2#2 && s))
      (sgn s (if toInf then f.infBits else f.maxBits), { ovf := true, nx := true })
    else
      let tiny := decide (e < emin) &&
        (let (t, _) := roundAt s x (e - fb) mode u
         decide (e + 1 < emin) || t != 2 ^ (f.fb + 1))
      let bits := if e < emin then r else (e + f.bias - 1).toNat * 2 ^ f.fb + r
      (sgn s bits, { nx := nx, uf := nx && tiny })

/-! ### Integer and CQ mantissas (R92, R93), PS2 (R94, R95) -/

/-- The value divided by 2^E and rounded to an integer (R98); `none` for a NaN or infinity. -/
def roundMant (E : Int) (mode : RMode) (u : Nat) : Val → Option (Int × Bool)
  | .fin s x => let (r, nx) := roundAt s x E mode u; some (if s then -(r : Int) else r, nx)
  | _ => none

/-- The mantissa kept within [lo, hi], with the flags of R101: `cq` tells OV from NV. -/
def satMant (E lo hi : Int) (cq : Bool) (mode : RMode) (u : Nat) (v : Val) : Int × Fl :=
  let s : Fl := { nv := !cq, ov := cq, sat := true }
  match v with
  | .nan _ _ => (0, { nv := true })
  | .inf n => (if n then lo else hi, s)
  | .fin _ _ =>
    match roundMant E mode u v with
    | some (r, nx) => if r < lo then (lo, s) else if hi < r then (hi, s) else (r, { nx := nx })
    | none => (0, .none)

/-- Where t becomes 2^-e in the greedy choice of R95, in units of 2^-8. -/
def ps2Thr (e : Nat) : Nat := if e = 6 then 2 else 3 * 2 ^ (6 - e)

/-- The least e whose threshold is met, 7 when none is (R95). -/
def ps2Pick (p : Nat → Bool) : Nat := (((upTo 7).filter p).head?).getD 7

/-- A PS2 byte (R95) for scale S. -/
def ps2Encode (S : Int) (v : Val) : Nat × Fl :=
  match v with
  | .nan _ _ => (0x77, { nv := true })
  | .inf s => (if s then 0x88 else 0x00, { ov := true, sat := true })
  | .fin s x0 =>
    let x := x0.scale (-S)
    let ge (n : Nat) : Bool := x.cmpDy n (-8) != .lt
    let le (n : Nat) : Bool := x.cmpDy n (-8) != .gt
    let e1 := ps2Pick fun e => ge (ps2Thr e)
    let t1 := if e1 = 7 then 0 else 2 ^ (8 - e1)
    let up := ge t1
    let e2 := ps2Pick fun e => if up then ge (t1 + ps2Thr e) else decide (ps2Thr e ≤ t1) && le (t1 - ps2Thr e)
    let t2 := if e2 = 7 then 0 else 2 ^ (8 - e2)
    let sum := if up then t1 + t2 else t1 - t2
    let ofl := x.cmpDy 512 (-8) == .gt
    let s1 := if e1 = 7 then 0 else s.toNat
    let s2 := if e2 = 7 then 0 else (s != !up).toNat
    (s1 * 128 + e1 * 16 + s2 * 8 + e2, { nx := x.cmpDy sum (-8) != .eq, ov := ofl, sat := ofl })

/-- The value of a PS2 byte for scale S (R94). -/
def ps2Read (S : Int) (b : Nat) : Val :=
  let term (n : Nat) : Int := if n % 8 = 7 then 0 else (if n / 8 % 2 = 1 then -1 else 1) * 2 ^ (6 - n % 8)
  .int (term (b / 16) + term (b % 16)) (S - 6)

/-! ### Encodings of R190 -/

/-- The encoding codes of R190; 13 to 15 are reserved. -/
inductive Enc where
  | raw | fp32 | bf16 | fp16 | e4m3 | e5m2 | int8 | int16 | int32 | cq32 | cq16 | ps2 | bit | rsv
deriving DecidableEq, Repr

def Enc.ofCode (n : Nat) : Enc :=
  match n with
  | 0 => .raw | 1 => .fp32 | 2 => .bf16 | 3 => .fp16 | 4 => .e4m3 | 5 => .e5m2 | 6 => .int8 | 7 => .int16
  | 8 => .int32 | 9 => .cq32 | 10 => .cq16 | 11 => .ps2 | 12 => .bit | _ => .rsv

/-- The floating-point format of an encoding. -/
def Enc.fp? : Enc → Option FpFmt
  | .fp32 => some Machine.fp32 | .bf16 => some Machine.bf16 | .fp16 => some Machine.fp16
  | .e4m3 => some Machine.e4m3 | .e5m2 => some Machine.e5m2 | _ => none

/-- Element width in bits (R42); RAW and reserved move as bytes (R247). -/
def Enc.bits : Enc → Nat
  | .fp32 | .int32 | .cq32 => 32
  | .bf16 | .fp16 | .int16 | .cq16 => 16
  | .bit => 1
  | _ => 8

def Enc.isCq : Enc → Bool
  | .cq32 | .cq16 => true
  | _ => false

def Enc.isInt : Enc → Bool
  | .int8 | .int16 | .int32 => true
  | _ => false

/-- INT and CQ: the integer class of R266. -/
def Enc.isIntClass (e : Enc) : Bool := e.isCq || e.isInt

/-- Neither RAW nor reserved (R44 check 0x02). -/
def Enc.valued : Enc → Bool
  | .raw | .rsv => false
  | _ => true

/-- The exact value of an element (R266) for the handle's E (CQ) or the bay's S (PS2). -/
def Enc.val (e : Enc) (E S : Int) (b : Nat) : Val :=
  match e with
  | .fp32 => Machine.fp32.read b | .bf16 => Machine.bf16.read b | .fp16 => Machine.fp16.read b
  | .e4m3 => Machine.e4m3.read b | .e5m2 => Machine.e5m2.read b
  | .int8 => .int (sext b 8) 0 | .int16 => .int (sext b 16) 0 | .int32 => .int (sext b 32) 0
  | .cq32 => .int (sext b 32) E | .cq16 => .int (sext b 16) E
  | .ps2 => ps2Read S b
  | .bit => .int (b % 2) 0
  | .raw | .rsv => .int b 0

/-- A w-bit mantissa as bits. -/
def mantBits (w : Nat) (r : Int) : Nat := (r % (2 ^ w : Nat)).toNat

/-- The value rounded once into the encoding (R101, R95, R96): its bits and the flags raised. -/
def Enc.round (e : Enc) (E S : Int) (mode : RMode) (u : Nat) (sat : Bool) (v : Val) : Nat × Fl :=
  match e.fp? with
  | some f => f.round mode u sat v
  | none =>
    let w := e.bits
    if e.isCq then
      let h : Int := 2 ^ (w - 1) - 1
      let (r, fl) := satMant E (-h) h true mode u v
      (mantBits w r, fl)
    else if e.isInt then
      let h : Int := 2 ^ (w - 1)
      let (r, fl) := satMant 0 (-h) (h - 1) false mode u v
      (mantBits w r, fl)
    else if e = .ps2 then ps2Encode S v
    else
      match v with
      | .nan _ _ => (1, { nv := true })
      | .inf _ => (1, { nx := true })
      | .fin s x => if x.isZero then (0, .none) else (1, { nx := s || x.cmpDy 1 0 != .eq })

/-! ### Arithmetic on exact values -/

/-- The NaN result of R90 (the first NaN operand, quieted) and NV for a signalling one. -/
def nanOf (vs : List Val) : Option (Val × Fl) :=
  match vs.find? Val.isNan with
  | some v => some (v.quiet, { nv := vs.any Val.isSnan })
  | none => none

/-- The default NaN of an invalid operation (R90). -/
def invalid : Val × Fl := (Val.dnan, { nv := true })

def Mag.dyOf : Mag → Nat × Int
  | .dy m e => (m, e)
  | _ => (0, 0)

/-- A signed magnitude as an integer in units of 2^e0. -/
def termAt (e0 : Int) (v : Val) : Int :=
  match v with
  | .fin s x => let (m, e) := x.dyOf; let n : Int := (m * 2 ^ (e - e0).toNat : Nat); if s then -n else n
  | _ => 0

/-- The exponent of a finite value. -/
def expOf (v : Val) : Int :=
  match v with
  | .fin _ x => x.dyOf.2
  | _ => 0

/-- Least of the exponents. -/
def minExp (vs : List Val) : Int := vs.foldl (fun a v => Min.min a (expOf v)) (match vs with | v :: _ => expOf v | [] => 0)

/-- Exact sum of finite values, with the zero-sign rule of R153; `rd` is rounding mode RD. -/
def sumFin (rd : Bool) (vs : List Val) : Val :=
  let e0 := minExp vs
  let t := vs.foldl (fun a v => a + termAt e0 v) 0
  if t = 0 then
    let s := if vs.all Val.isZero && vs.all (fun v => v.neg == (vs.headD v).neg) then (vs.headD (.inf false)).neg else rd
    .fin s (.dy 0 0)
  else .int t e0

/-- Sum of terms none of which is NaN (R153): opposite infinities are invalid. -/
def sumVals (rd : Bool) (vs : List Val) : Val × Fl :=
  let infs := vs.filter fun v => match v with | .inf _ => true | _ => false
  match infs with
  | [] => (if vs = [] then .fin false (.dy 0 0) else sumFin rd vs, .none)
  | v :: r => if r.all (fun w => w.neg == v.neg) then (v, .none) else invalid

def addV (rd : Bool) (a b : Val) : Val × Fl := (nanOf [a, b]).getD (sumVals rd [a, b])

def negV (a : Val) : Val := a.setNeg !a.neg

/-- a - b; a NaN b keeps its sign (R90). -/
def subV (rd : Bool) (a b : Val) : Val × Fl := (nanOf [a, b]).getD (sumVals rd [a, negV b])

/-- Product of values that are not NaN (R153). -/
def mulRaw (a b : Val) : Val × Fl :=
  let s := a.neg != b.neg
  match a, b with
  | .fin _ x, .fin _ y => let (m, e) := x.dyOf; let (n, k) := y.dyOf; (.fin s (.dy (m * n) (e + k)), .none)
  | _, _ => if a.isZero || b.isZero then invalid else (.inf s, .none)

def mulV (a b : Val) : Val × Fl := (nanOf [a, b]).getD (mulRaw a b)

/-- Quotient (R153). -/
def divV (a b : Val) : Val × Fl := (nanOf [a, b]).getD <|
  let s := a.neg != b.neg
  match a, b with
  | .fin _ x, .fin _ y =>
    let (m, e) := x.dyOf; let (n, k) := y.dyOf
    if n = 0 then (if m = 0 then invalid else (.inf s, { dz := true }))
    else (.fin s (if m = 0 then .dy 0 0 else .quot m n (e - k)), .none)
  | .fin _ _, _ => (.fin s (.dy 0 0), .none)
  | _, .fin _ _ => (.inf s, .none)
  | _, _ => invalid

/-- c + a * b, fused (R154); `sub` takes c - a * b (R268 VFMS). -/
def fmaV (rd sub : Bool) (a b c : Val) : Val × Fl :=
  let bad := (a.isZero && (match b with | .inf _ => true | _ => false)) || (b.isZero && (match a with | .inf _ => true | _ => false))
  if bad then (Val.dnan, { nv := true }) else
  (nanOf [a, b, c]).getD <|
    let (p, _) := mulRaw a b
    sumVals rd [c, if sub then negV p else p]

/-- Square root (R153). -/
def sqrtV (a : Val) : Val × Fl := (nanOf [a]).getD <|
  match a with
  | .fin s x => let (m, e) := x.dyOf
    if m = 0 then (.fin s (.dy 0 0), .none) else if s then invalid else (.fin false (.root m 1 e), .none)
  | .inf s => if s then invalid else (a, .none)
  | v => (v, .none)

/-- 1 / a (R271 VRCP). -/
def rcpV (a : Val) : Val × Fl := divV (.int 1 0) a

/-- 1 / sqrt a (R271 VRSQ). -/
def rsqV (a : Val) : Val × Fl := (nanOf [a]).getD <|
  match a with
  | .fin s x => let (m, e) := x.dyOf
    if m = 0 then (.inf s, { dz := true }) else if s then invalid else (.fin false (.root 1 m (-e)), .none)
  | .inf s => if s then invalid else (.fin false (.dy 0 0), .none)
  | v => (v, .none)

/-- 2^a (R271 VEXP2). -/
def exp2V (a : Val) : Val × Fl := (nanOf [a]).getD <|
  match a with
  | .fin s x => let (m, e) := x.dyOf; (.fin false (magExp2 s m e), .none)
  | .inf s => (if s then .fin false (.dy 0 0) else .inf false, .none)
  | v => (v, .none)

/-- log2 a (R271 VLOG2). -/
def log2V (a : Val) : Val × Fl := (nanOf [a]).getD <|
  match a with
  | .fin s x => let (m, e) := x.dyOf
    if m = 0 then (.inf true, { dz := true }) else if s then invalid
    else let (n, y) := magLog2 m e; (.fin n y, .none)
  | .inf s => if s then invalid else (.inf false, .none)
  | v => (v, .none)

/-- Order of two values that are not NaN; -0 equals +0. The second value is dyadic when its magnitude must be compared. -/
def cmpV (a b : Val) : Ordering :=
  match a, b with
  | .inf s, .inf t => if s == t then .eq else if s then .lt else .gt
  | .inf s, _ => if s then .lt else .gt
  | _, .inf t => if t then .gt else .lt
  | .fin s x, .fin t y =>
    let (n, k) := y.dyOf
    if x.isZero then (if n = 0 then .eq else if t then .gt else .lt)
    else if n = 0 then (if s then .lt else .gt)
    else if s && !t then .lt else if !s && t then .gt
    else if s then (x.cmpDy n k).swap else x.cmpDy n k
  | _, _ => .eq

/-- Lesser of two values (R155): -0 below +0. -/
def minV (a b : Val) : Val × Fl := (nanOf [a, b]).getD
  (match cmpV a b with
   | .lt => a | .gt => b | .eq => if a.neg then a else b, .none)

/-- Greater of two values (R155). -/
def maxV (a b : Val) : Val × Fl := (nanOf [a, b]).getD
  (match cmpV a b with
   | .gt => a | .lt => b | .eq => if a.neg then b else a, .none)

/-- v * 2^k (R107). -/
def Val.scale (v : Val) (k : Int) : Val :=
  match v with
  | .fin s x => .fin s (x.scale k)
  | w => w

/-- MIN(MAX(v, LO), HI) with NaN bounds ignored (R107). DESIGN CHOICE on zeros of both signs: log entry 102. -/
def clampV (lo hi v : Val) : Val :=
  if v.isNan then v else
  let v := if lo.isNan then v else if cmpV v lo == .lt then lo else v
  if hi.isNan then v else if cmpV v hi == .gt then hi else v

end Sys2Proof.Machine
end

