-- ==== Sys2Proof/Config.lean ====
section
/-!
DEFINITION. What one SZL-M8 fixes for itself (package id, system size, fused values) and the FREE VALUES: constants
without a body, so that nothing can evaluate them and every theorem about them holds whatever they are.
-/
namespace Sys2Proof.Config

/-- The system's torus of modules is MX by MY of them, each 1 to 64 (R71); free within that bound (log entry 5). -/
opaque sysX : Nat
opaque sysY : Nat
def MX : Nat := sysX % 64 + 1
def MY : Nat := sysY % 64 + 1
/-- This module's place in that torus, free (log entry 5), and its package id my × 64 + mx (R71). -/
opaque siteX : Nat
opaque siteY : Nat
def pkgX : Nat := siteY % MY * 64 + siteX % MX
/-- PCI vendor id that the module's configuration space reports (R408); free (log entry 6). -/
opaque vendorId : BitVec 16

/-- How far CYC moves beyond one cycle in the n-th step of the model: the manual gives no time to a step of a model
without a clock, so the amount is free (log entry 4). -/
opaque cycGap : Nat → BitVec 64
/-- Verdicts of the two signature checks of the boot image (R411, R412): free functions of the image bytes
(log entry 6). -/
opaque rsaOk : List (BitVec 8) → Bool
opaque slhOk : List (BitVec 8) → Bool
/-- SHA-384 of bytes, the fused key hashes, identity keys and signatures of the attestation report (R413): free
functions of what they are computed from (log entry 6). -/
opaque sha384 : List (BitVec 8) → Nat → BitVec 8
opaque fusedRsaHash : Nat → BitVec 8
opaque fusedSlhHash : Nat → BitVec 8
opaque rsaModulus : Nat → BitVec 8
opaque slhPublic : Nat → BitVec 8
opaque rsaSig : List (BitVec 8) → Nat → BitVec 8
opaque slhSig : List (BitVec 8) → Nat → BitVec 8
/-- A bit that the manual leaves undefined; applied to the step counter, the place and the bit number (log entry 7). -/
opaque freeBits : Nat → Nat → BitVec 64

/-- Whether the write of an image to host memory fails: the manual gives it no condition; applied to the step counter (log entry 98). -/
opaque hostFails : Nat → Bool
/-- The populated capacity of a CXL port in units of 64 GiB: BOOTST reports the total alone (log entry 9). -/
opaque cxlPort : Nat → Nat

end Sys2Proof.Config
end

