-- ==== Sys2Proof/Machine/State.lean ====
section
/-!
DEFINITION. The state of one SZL-M8 module (00_scope.md): the core that steps, the other logical cores, their engines, the shared
units of yards, stables and dies, the hub, memory and the management space. INVENTORY.md, '## State', lists every field.
-/
namespace Sys2Proof.Machine

/-- R5. -/
inductive CoreSt where
  | idle | running | waiting | trapped | saved | done
deriving DecidableEq, Repr

/-- An armed MOD prefix (R125): the address of the MOD word and its fields. -/
structure Mod where
  pc : W64
  sat : Bool
  clamp : Bool
  absa : Bool
  nega : Bool
  absb : Bool
  negb : Bool
  scale : BitVec 6
  c : SReg
deriving DecidableEq, Repr

/-- An open repeat frame (R166, R168): base address, length, the stride codes as word bits [21:16], the position and trip of the
word at pc, and the trips left after the current one. -/
structure Frame where
  base : W64
  len : Nat
  str : BitVec 6
  pos : Nat
  iter : Nat
  left : Nat
deriving DecidableEq, Repr

/-- A write that an instruction has still to land (R118): a scalar, a handle, or flag bits ORed into a handle (R46). -/
inductive Wr where
  | s (r : SReg) (v : W64)
  | k (r : KReg) (h : Handle)
  | kor (r : KReg) (bits : Handle)
deriving DecidableEq, Repr

/-- A trap to take: CAUSE, TVAL, and whose fault it is, which RESUME and SKIP ask: 0 the instruction's own, 1 the copy FIFO's (R257), 2 the
matrix unit's (R321), 3 + n that of stream port n (R217). -/
structure Trap where
  cause : Byte
  tval : W64
  why : Nat
deriving DecidableEq, Repr

/-- A long-latency instruction that waits with its shadow open (R119): its word, the scalar registers that it read at issue (R118), the bound ports that
its fields name, its MOD prefix, the rounding modes FRM and VRM, and, for a copy request whose checks have passed, the bay formats that they read
(R192, R248). -/
structure Retry where
  word : W32
  regs : Vector W64 32
  ports : List (Fin 8)
  md : Option Mod
  frm : W64
  vrm : W64
  fmts : Option (List W64)
deriving DecidableEq, Repr

/-- An open lookahead shadow (R117 to R122): the address and frame state of L, the positions in effect, those passed, the DONE bits
that skip a position, L's writes that land when it ends, and the trap that L takes then; L's place in the cochain queue while it is there; TVAL of the
overflow trap that follows L (R104, erratum B0-1); the trap of a shadow instruction that waits for L's trap point (R122); and, while L itself waits before
its trap point (R119), what it tries again with. -/
structure Shadow where
  pc : W64
  rptst : W64
  len : Nat
  pos : Nat
  done : BitVec 15
  fin : BitVec 15
  writes : List Wr
  held : Option Trap
  ticket : Option Nat
  ovf : Option W64
  trap : Option Trap
  retry : Option Retry
deriving DecidableEq, Repr

/-- How the instruction at the PC starts again (R121): its shadow's length and DONE bits; `retry` for an L that tries again while its shadow is open, with
what it read at issue. -/
structure Resume where
  len : Nat
  done : BitVec 15
  retry : Option Retry
deriving DecidableEq, Repr

/-- A record for a fault ring (R376, R204): context slot, NOCORE, the doublewords 0 to 7. -/
structure FaultRec where
  ctx : Nat
  nocore : Bool
  dws : List W64
deriving DecidableEq, Repr

/-- A resident patch as an instruction sees it through the complex cache (R38 to R40): complex, patch, record base, n and the counts of
the slot, the bytes of the record, the lines of it that cannot be read, and the elements (degree, index) whose entries are malformed. -/
structure RecV where
  cplx : Nat
  patch : Nat
  base : Nat
  n : Nat
  owned : List Nat
  total : List Nat
  bytes : List Byte
  miss : List Nat
  bad : List (Nat × Nat)
deriving DecidableEq, Repr

/-- An instruction in the cochain queue (R262): the operands it read at issue, by how much SRBASE advances when it completes (R105), the
records it uses, the counter of its free values (log entry 7), the bound ports among its destinations (R114), and, once it is bound, the bay formats it
uses (R192) and the lane groups it holds (R183). -/
structure CochEntry where
  seq : Nat
  instr : Instr
  md : Option Mod
  lo : W64
  hi : W64
  kd : Handle
  ka : Handle
  kb : Handle
  x : W64
  y : W64
  vrm : W64
  site : W64
  base : W64
  key : W64
  home : Nat
  adv : Nat
  recs : List RecV
  free : Nat
  push : List (Fin 8)
  fmts : List W64
  bound : Option Nat
deriving DecidableEq, Repr

/-- A bound stream port (R211 to R217): the register value kept aside, the next element index, the elements fetched and not yet
read, the elements pushed and not yet written, and a fault held for the next use. -/
structure Port where
  bound : Bool
  aside : W64
  idx : Nat
  fetched : List W64
  pushed : List W64
  held : Option (Byte × W64)
deriving DecidableEq, Repr

/-- A deque entry (R174); `via` lists the logical cores from whose deques it has been stolen (R20). -/
structure Task where
  index : Nat
  home : Nat
  stolen : Bool
  arg : W64
  via : List Nat
deriving DecidableEq, Repr

/-- Bytes of the thief's own local memory that a stolen task's sets cover while it runs, and which of the words were empty (R18; log entry 74). -/
structure Stash where
  off : Nat
  bytes : List Byte
  empty : List Nat
deriving DecidableEq, Repr

/-- A doubleword or range that an engine reads of another module, or keeps from its last group: the engine (1 copy, 2 matrix), its address, the tag of
the request, the data, or the code of a NACK (R86, R87, R427). -/
structure ERead where
  eng : Nat
  va : Nat
  tag : Nat
  data : Option (List Byte)
  nack : Option Nat
deriving DecidableEq, Repr

/-- A message (R348); `pen` is its ring slot when it lies in the pen. -/
structure Msg where
  x : W64
  y : W64
  sender : Nat
  tag : Nat
  pen : Option Nat
deriving DecidableEq, Repr

/-- Where an access goes (R196, R74, R198): the issuing core's own local memory; that of another logical core of the module (by its
place in `peers`), or of a saved one, through its record (R77) at a physical address; module memory; host memory, with the link of the context
(R403); a peer module's memory (package, incarnation expected, physical address, HOST, mode) or the local memory of a core there; the control page. Module
and host memory carry the mode of their page (R198). -/
inductive Place where
  | own (off : Nat)
  | peer (i : Nat) (off : Nat)
  | saved (i : Nat) (off : Nat) (pa : Nat) (host : Bool)
  | mem (pa : Nat) (mode : Nat)
  | host (pa : Nat) (mode : Nat) (link : Nat)
  | far (pkg : Nat) (inc : Nat) (pa : Nat) (host : Bool) (mode : Nat)
  | farLoc (pcid : Nat) (inc : Nat) (off : Nat)
  | ctl (off : Nat)
deriving DecidableEq, Repr

/-- A posted store that is not yet performed or acknowledged (R208, R234, R238): where it goes, its bytes, whether STFL sets the
full/empty bit, its tag, its virtual address, and whether it has left for another module. -/
structure Posted where
  place : Place
  bytes : List Byte
  full : Bool
  tag : Nat
  va : W64
  sent : Bool
deriving DecidableEq, Repr

/-- A far line of an L1 data cache (R233): the space that holds it, as the key of its place names it (memory or host memory of this module or of another
one), where its first byte is, and its 64 bytes. -/
structure L1Line where
  space : Nat × Nat
  pa : Nat
  bytes : List Byte
deriving DecidableEq, Repr

/-- A translation held in a micro-TLB or a yard TLB (R201), with the count of R203. -/
structure TlbE where
  ctx : Nat
  va : Nat
  big : Bool
  pte : W64
  cnt : Nat
deriving DecidableEq, Repr

/-- A residency slot (R38): complex, patch, record base, and DW0 to DW2 of the header, which hold n and the counts. -/
structure Slot where
  cplx : Nat
  patch : Nat
  base : Nat
  hdr : List W64
deriving DecidableEq, Repr

/-- A command in the matrix queue (R305): its eight doublewords, its sequence number, the MINTKEY read at acceptance, and whether its tile was
then declared INT32 (R307). -/
structure MxCmd where
  dws : List W64
  seq : Nat
  key : W64
  tint : Bool
deriving DecidableEq, Repr

/-- The matrix unit of a core (R305, R307, R315, R321, R324): the queue, NEXT, the steps done of the running command, whether it has
started and with which bay formats (by 8 * core + bay), ROWPROG, MXFLT, the pending fault, MXFL,
the writes to other modules that are not yet acknowledged, and those of commands that SKIP has ended, by sequence number (R232). -/
structure Mx where
  queue : List MxCmd
  next : Nat
  started : Bool
  fmts : List (Nat × W64)
  steps : Nat
  rowprog : W64
  mxflt : W64
  fault : Option (Byte × W64)
  mxfl : W64
  owed : Nat
  left : List Nat
deriving DecidableEq, Repr

/-- A destination of a copy request, or a group of GATHER or SCATTER (R255, R257, R370): its index, the next unit it has to write, whether a fault has
stopped it, whether its flag is posted. -/
structure Dest where
  idx : Nat
  next : Nat
  stopped : Bool
  flagged : Bool
deriving DecidableEq, Repr

/-- A request in a copy FIFO (R245, R248, R368): kind 0 copy, 1 GATHER, 2 SCATTER, 3 DISPATCH, 4 COMBINE; its four doublewords, sequence
number, promise and MINTKEY; the bay formats read at its checks (R192); whether the engine has started it, its destinations, the flags of
its conversions, the place of the entry at hand (DISPATCH), excused (R259), the writes to other modules that are not yet acknowledged (R251), the COPYPERM values read so
far by logical core (R254), and, for GATHER and SCATTER, the owner of each list entry (R370). -/
structure CopyReq where
  kind : Nat
  dws : List W64
  seq : Nat
  promise : W64
  key : W64
  fmts : List W64
  started : Bool
  dests : List Dest
  fl : W64
  pos : Option Nat
  excused : Bool
  owed : Nat
  perms : List (Nat × Nat)
  owners : List Nat
deriving DecidableEq, Repr

/-- The copy FIFO of a core (R245, R257, R260): requests, NEXT, FL, the deferred fault with its sequence number, the last promise, and whether the flags of
the next conversion are lost (erratum B0-2). -/
structure Cf where
  reqs : List CopyReq
  next : Nat
  fl : W64
  fault : Option (Nat × Byte × W64)
  last : W64
  miss : Bool
deriving DecidableEq, Repr

/-- A parcel as its list reads at the arrival (R363, R364): source offset, destination core and offset, length, whether it failed, whether
it was residue, whether it has been performed. -/
structure Parcel where
  soff : Nat
  dlcn : Nat
  doff : Nat
  len : Nat
  failed : Bool
  residue : Bool
  moved : Bool
deriving DecidableEq, Repr

/-- The exchange state of a core (R355, R356, R364, R367): open demand by destination module, closed demands, completed XCHGs, the
arrival with the CYC of it, whether the checks at issue have passed, its parcels and RM, whether a parcel from or to this core failed, the
status when the exchange is complete, the report of the last exchange (five items). -/
structure Xch where
  demand : List (Nat × Nat)
  closed : List (List (Nat × Nat))
  done : Nat
  arrived : Option W64
  checked : Bool
  parcels : List Parcel
  rm : Bool
  fail : Bool
  result : Option W64
  report : List W64
deriving DecidableEq, Repr

/-- What a core waits on at an episode (R338 to R341): level, its number there, kind (0 BAR, 1 VOTE, 2 PHASE), the vote operation and operand, and the
outcome once the episode has completed: 0 with its value, or the reason of R339. -/
structure Arrival where
  level : Nat
  num : Nat
  kind : Nat
  op : Nat
  operand : W64
  result : Option (Nat × W64)
deriving DecidableEq, Repr

/-- A request of this core that another module answers (R78 to R87): its tag, address, place, whether it reads a line for the L1 (mode 10, R233), the
bytes of the access that the core's own stores had in flight when it was sent (R229), whether a later store of the core to the line has been acknowledged
since, and the answer when it has come: the reply's doublewords, or the NACK code. -/
structure Far where
  tag : Nat
  va : Nat
  key : Nat × Nat × Nat
  line : Bool
  own : List (Option Byte)
  stale : Bool
  reply : Option (List W64)
  nack : Option Nat
deriving DecidableEq, Repr

/-- What TKPOP is doing while it waits (R176, R178): the number of the empty TKPOP, the next try, the victim of the probe now sent, whether
that probe has been answered. -/
structure Probe where
  k : Nat
  t : Nat
  victim : Option Nat
  answered : Bool
deriving DecidableEq, Repr

/-- One logical core of the module with the physical core it runs on. `owed` is the phase violation that its last episode has left it, with the address of
the instruction that takes it (R339). `obj` is the object whose bounds the fetch unit holds (R131), and
`latch` the word of the instruction that waits; `saveArrived` and `saveTrapped` are marks of a saved core (R384), and a core that is `placed` waits for its
wake (R68). -/
structure Core where
  st : CoreSt
  pcid : Nat
  queue : Nat
  pc : W64
  obj : Option Nat
  latch : Option W32
  s : Vector W64 32
  p : Vector Bool 8
  k : Vector Handle 16
  tiles : List (Nat × W32)
  types : W64
  lcn : W64
  ncores : W64
  ltorus : W64
  dom : Vector W64 5
  domph : W64
  jobseed : W64
  gangst : W64
  streamid : W64
  mintkey : W64
  srsite : W64
  srbase : W64
  fflags : W64
  frm : W64
  vrm : W64
  cause : W64
  tval : W64
  epc : W64
  raised : Nat
  tseq : Nat
  shdone : W64
  rptst : W64
  fstat : W64
  evlatch : W64
  vshare : W64
  copyperm : W64
  penbase : W64
  pensize : W64
  tkbase : W64
  tksize : W64
  steallvl : W64
  stealtry : W64
  twin : W64
  migthresh : W64
  bayfmt : Vector W64 8
  lmin : Nat
  lmem : List Host.Cell
  empties : List Nat
  desc : List (Nat × W64)
  ports : Vector Port 8
  modp : Option Mod
  frame : Option Frame
  shadow : Option Shadow
  resume : Option Resume
  cq : List CochEntry
  cqNext : Nat
  mx : Mx
  cf : Cf
  slots : List (Option Slot)
  deque : List Task
  task : Option Task
  kpops : Nat
  probe : Option Probe
  wsret : Option Bool
  stash : List Stash
  lent : List Task
  erd : List ERead
  dack : Option Bool
  raceLost : Bool
  rx : List Msg
  penAt : Nat
  posted : List Posted
  far : Option Far
  episodes : List Nat
  arrival : Option Arrival
  owed : Option (W64 × W64)
  xch : Xch
  utlb : List TlbE
  l1 : List L1Line
  fwd : List (W64 × W32)
  gangWait : Option Nat
  unsent : Option (List W64)
  retained : Bool
  saveArrived : Bool
  saveTrapped : Bool
  placed : Bool
deriving DecidableEq, Repr

/-- A sealed code object (R54): its id, NWORDS, and its words with the padding. -/
structure CodeObj where
  id : Nat
  n : Nat
  words : List W32
deriving DecidableEq, Repr

/-- A request to the publisher of a context (R59): from a PUBLISH record of a queue, or from a core's PUBLISH with its staging address
and length. -/
structure PubReq where
  queue : Option Nat
  addr : W64
  len : W64
  core : Option (Nat × Nat)
deriving DecidableEq, Repr

/-- What the publisher answers a core (R55, R57): the value for s[d], or the fault. -/
structure PubRes where
  q : Nat
  l : Nat
  fault : Option (Byte × W64)
  val : W64
deriving DecidableEq, Repr

/-- A context slot (R60, R205, R378, R395), with the objects sealed in its heap (R54) and the images published in it (R65). -/
structure Ctx where
  st : Nat
  ptroot : W64
  heapbase : W64
  heapsize : W64
  part : W64
  fn : Nat
  frbase : W64
  frtail : Nat
  frhead : Nat
  frvec : W64
  ctxbase : W64
  mcdrop : Nat
  cmderr : Bool
  tlbq : List W64
  tlbdone : Nat
  rbaddr : W64
  rbstat : W64
  objs : List CodeObj
  heapUsed : Nat
  images : List (W64 × List Nat)
  pubq : List PubReq
  pubres : List PubRes
deriving DecidableEq, Repr

/-- A task entry of an image (R50). -/
structure TaskEnt where
  id : Nat
  entry : W64
  reads : List (Nat × Nat)
  writes : List (Nat × Nat)
deriving DecidableEq, Repr

/-- A calendar that this module has taken (R359, R360), with its marks, whether the standby's copy came in the cycle in which the primary's was taken (erratum
B0-3), the phases whose circuit ports are held (R362), those in which the first router has stopped to send circuit flits, the phases whose data
this module has sent, and how many circuit flits slipped (R367). -/
structure Calendar where
  words : List W64
  fovr : Bool
  both : Bool
  late : Bool
  held : List Nat
  shut : List Nat
  sent : List Nat
  slipped : Nat
deriving DecidableEq, Repr

/-- A running launch (R63 to R73): what its record and its image's header say, its tables, and where it has got to: 0 read, 1 placed,
2 woken; `last` is the logical core that each physical core of a folded launch held last. -/
structure Launch where
  tag : Nat
  caddr : W64
  image : W64
  lx : Nat
  ly : Nat
  cores : Bool
  spread : Nat
  lmin : Nat
  seed : W64
  entry : W64
  bayfmt : List W64
  penbase : W64
  pensize : W64
  steallvl : W64
  stealtry : W64
  tasks : List TaskEnt
  segs : List (List W64)
  locals : List (Nat × List Byte)
  savebase : W64
  remap : List W64
  route : List W64
  stage : Nat
  fold : Nat
  woken : List (Nat × Nat)
  exch : Nat
  computed : List (Nat × List W64)
  cal : Option (Nat × Calendar)
  residue : Bool
  last : List (Nat × Nat)
deriving DecidableEq, Repr

/-- A user queue (R61), the PRIO in force (R62), and the launch that its running record has started. -/
structure Queue where
  qbase : W64
  log2n : W64
  qtail : Nat
  qhead : Nat
  ctl : W64
  prio : Nat
  err : Bool
  active : Bool
  since : W64
  ctx : Nat
  savebase : W64
  launch : Option Launch
deriving DecidableEq, Repr

/-- A step of the schedule (log entry 1): an event that comes from the environment or from an engine, a turn of another core, or the oldest
posted store of the current core (0) or of another (n + 1) that is performed. -/
inductive Turn where
  | event (i : Instr)
  | core (n : Nat)
  | store (n : Nat)
deriving DecidableEq, Repr

/-- A node of a race array (R327): kind 0 off, 1 MIN, 2 MAX, and its inputs (source, delay). -/
structure Node where
  kind : Nat
  ins : List (Nat × Nat)
deriving DecidableEq, Repr

/-- A race array (R327 to R330): its owner (queue, logical core, physical core), the context of its last owner, and the nodes, seeds and
captures that are not off, 0xFFF and 0xFFF. -/
structure Race where
  owner : Option (Nat × Nat × Nat)
  prev : Option Nat
  nodes : List (Nat × Node)
  seeds : List (Nat × Nat)
  capts : List (Nat × Nat)
deriving DecidableEq, Repr

/-- A word that a teller serves (R220): in module memory at an address, or in the local memory of a logical core (queue, core, offset); or bytes of host
memory, which the hub serves for another module (R198). -/
inductive Home where
  | mem (pa : Nat)
  | host (pa : Nat)
  | loc (q l off : Nat)
deriving DecidableEq, Repr

/-- A live exact slot (R222): its home and its image of 16 doublewords. -/
structure ExSlot where
  home : Home
  dws : List W64
deriving DecidableEq, Repr

/-- A request that waits at a teller (R220, R221): the operation of R218, its word, operands and origin, and whom the reply goes to; `now` marks the
request of a core of this module, whose step takes the answer. -/
structure TReq where
  op : Nat
  home : Home
  x : W64
  y : W64
  origin : BitVec 58
  src : Nat
  srcInc : BitVec 4
  tag : BitVec 12
  now : Bool
deriving DecidableEq, Repr

/-- A teller (R221, R222): its four input ports, the port last served, the hot lines with their FIFOs, the live slots, the most recently
used one first. -/
structure Teller where
  ports : List (List TReq)
  last : Nat
  lines : List (Home × List TReq)
  slots : List ExSlot
deriving DecidableEq, Repr

/-- What a yard shares (R201, R203, R221, R245, R325); `rot` is the core whose FIFO the copy engine served last. -/
structure Yard where
  tlb : List TlbE
  teller : Teller
  race : Race
  rot : Nat
deriving DecidableEq, Repr

/-- What a stable shares (R38, R183): PTR, RES and DEF of its arbiter, and the lines of its complex cache. -/
structure Stable where
  ptr : Nat
  res : Option Nat
  dfc : List Nat
  waited : List Nat
  lines : List ((Nat × Nat × Nat) × List Byte)
deriving DecidableEq, Repr

/-- An entry that a page walker caches (R202): the walker, the context slot, the level (1 or 2), the address bits that select the entry, the entry. -/
structure WalkE where
  walker : Nat
  ctx : Nat
  level : Nat
  key : Nat
  pte : W64
deriving DecidableEq, Repr

/-- What a compute die shares (R202, R204, R355, R377, R400, R407): `demq` holds the DPOSTs (queue, logical core, module, bytes) that its demand
unit has not served, `walks` what its two walkers cache. -/
structure Die where
  faultq : List FaultRec
  demq : List (Nat × Nat × Nat × Nat)
  eccnt : W64
  migdrop : W64
  rtrerr : W64
  walks : List WalkE
deriving DecidableEq, Repr

/-- A router (R81, R82): the flits that have arrived on its in-ports, the injection queues of its four cores and which injected last, the
ejection buffer, and the cycles left of the guard of R82. -/
structure Router where
  arr : List (Nat × Flit)
  inj : List (List Flit)
  rr : Nat
  eject : List Flit
  guard : Nat
deriving DecidableEq, Repr

/-- A module-edge lane (R84, R85): LNKSTAT and the replay buffer of the last 32 flits sent. -/
structure Lane where
  stat : W64
  replay : List Flit
deriving DecidableEq, Repr

/-- What a request to another module is for: a load or atomic of the scalar pipeline, a posted store, an element of stream port n read or
written, a message, an event; a read of an engine; a write of a copy request (its destination, unit and kept place), of the matrix unit (its row), of
an instruction that writes memory itself (CREF); a word of a parcel; a word of a write set. -/
inductive ReqUse where
  | load | posted | stream (n : Nat) | streamW (n : Nat) | msg | sev
  | engine (eng : Nat) (va : W64)
  | copy (seq j k : Nat) (pos : Option Nat) (va : W64)
  | mx (seq row : Nat) (va : W64)
  | unit (va : W64)
  | xchg | wset
deriving DecidableEq, Repr

/-- A request to another module that is not yet answered (R78): its tag, who waits for it (queue and logical core), what for, the
bytes it asks for, and the answer when it has come. -/
structure Req where
  tag : Nat
  q : Nat
  l : Nat
  use : ReqUse
  place : Place
  size : Nat
deriving DecidableEq, Repr

/-- What leaves the module: a request or reply to another module, a flag, message or copy data to it, deque entries that a thief there takes, a frame on an edge lane, what a host read of device memory
returns, an interrupt vector to the host, or a response on the management endpoint. -/
inductive Out1 where
  | read (tag : Nat) (p : Place) (size : Nat)
  | write (tag : Nat) (p : Place) (bytes : List Byte) (full : Bool)
  | atomic (tag : Nat) (p : Place) (op : Nat) (x y : W64)
  | reply (dst : Nat) (inc : BitVec 4) (tag : BitVec 12) (kind : Nat) (ws : List W64)
  | message (tag : Nat) (dst : Nat) (m : Msg)
  | event (tag : Nat) (dst : Nat) (ev : Nat)
  | flag (dst : Nat) (off : Nat) (w : W64)
  | copy (tag : Nat) (dst : Nat) (off : Nat) (w : W64) (mask : Byte)
  | tasks (q : Nat) (got : List FarTask)
  | flit (f : Flit)
  | edge (side pos : Nat) (f : Flit) (crc : BitVec 32)
  | hostData (link : Nat) (bytes : List Byte)
  | msix (fn vec : Nat)
  | mctp (bytes : List Byte)
deriving DecidableEq, Repr

/-- The module. `rampNow` holds the bounds of the ramp limiter in force (KMAX, DELTA) and `capNow` the power cap, `capped` the units that stand at their upper
bound with commands waiting, with the CYC from which their empty steps are still to be counted (R186), `rampAt` the number of the window of 800 cycles that it counts in, and
`ramps` the counts of this and the last window of each matrix unit, by physical core (R185, R410); `bad` the words whose code cannot correct them, `soft`
those that the next read corrects (R398, R399). -/
structure State where
  core : Core
  peers : List Core
  sched : List Turn
  tick : Nat
  cyc : W64
  mem : List Host.Cell
  hostMem : List Host.Cell
  bad : List ErrLoc
  soft : List ErrLoc
  ctxs : List (Nat × Ctx)
  queues : List (Nat × Queue)
  yards : List (Nat × Yard)
  stables : List (Nat × Stable)
  routers : List (Nat × Router)
  lanes : List (Nat × Lane)
  dies : List (Nat × Die)
  modules : List (Nat × (BitVec 4 × Bool))
  inc : BitVec 4
  prevInc : Option (BitVec 4)
  powered : Bool
  frozen : Bool
  bootst : W64
  pwrcap : W64
  pwrnow : W64
  rampcfg : W64
  rampNow : Nat × Nat
  capNow : W64
  capped : List (Nat × Nat)
  rampAt : Nat
  ramps : List (Nat × (Nat × Nat))
  ramptel : W64
  coolst : W64
  recWin : List Host.Cell
  image : List Byte
  mapRr : List Nat
  hubRot : Nat
  reqs : List Req
  nextTag : Nat
  outbox : List Out1
deriving DecidableEq, Repr

/-- The shared units at reset (R183, R221, R329). -/
def Teller.reset : Teller := ⟨[[], [], [], []], 3, [], []⟩
def Race.reset : Race := ⟨none, none, [], [], []⟩
def Yard.reset : Yard := ⟨[], Teller.reset, Race.reset, 63⟩
def Stable.reset : Stable := ⟨3, none, [0, 0, 0, 0], [0, 0, 0, 0], []⟩
def Router.reset : Router := ⟨[], [[], [], [], []], 3, [], 0⟩
def Lane.reset : Lane := ⟨0, []⟩
def Die.reset : Die := ⟨[], [], 0, 0, 0, []⟩
def Ctx.reset : Ctx := ⟨0, 0, 0, 0, 0, 0, 0, 0, 0, 0, 0, 0, false, [], 0, 0, 0, [], 0, [], [], []⟩
def Queue.reset : Queue := ⟨0, 0, 0, 0, 0, 0, false, false, 0, 0, 0, none⟩

/-- R389 as INVENTORY.md lists it: every register at the value the spec gives for reset, or at the one that log entry 2 names. -/
def Core.reset : Core where
  st := .idle
  pcid := 0
  queue := 0
  pc := 0
  obj := none
  latch := none
  s := Vector.replicate 32 0
  p := Vector.replicate 8 false
  k := Vector.replicate 16 0
  tiles := []
  types := 0
  lcn := 0
  ncores := 0
  ltorus := 0
  dom := Vector.replicate 5 0
  domph := 0
  jobseed := 0
  gangst := 0
  streamid := 0
  mintkey := 0
  srsite := 0
  srbase := 0
  fflags := 0
  frm := 0
  vrm := 0
  cause := 0
  tval := 0
  epc := 0
  raised := 0
  tseq := 0
  shdone := 0
  rptst := 0
  fstat := 0
  evlatch := 0
  vshare := 0x31
  copyperm := 0x5FF
  penbase := 0
  pensize := 0
  tkbase := 0
  tksize := 0
  steallvl := 0
  stealtry := 0
  twin := 4095
  migthresh := 0
  bayfmt := Vector.replicate 8 0
  lmin := 262144
  lmem := []
  empties := []
  desc := []
  ports := Vector.replicate 8 ⟨false, 0, 0, [], [], none⟩
  modp := none
  frame := none
  shadow := none
  resume := none
  cq := []
  cqNext := 0
  mx := ⟨[], 0, false, [], 0, 0, 0, none, 0, 0, []⟩
  cf := ⟨[], 0, 0, none, 0, false⟩
  slots := [none, none, none, none]
  deque := []
  task := none
  kpops := 0
  probe := none
  wsret := none
  stash := []
  lent := []
  erd := []
  dack := none
  raceLost := false
  rx := []
  penAt := 0
  posted := []
  far := none
  episodes := [0, 0, 0, 0, 0, 0]
  arrival := none
  owed := none
  xch := ⟨[], [], 0, none, false, [], false, false, none, [0, 0, 0, 0, 0]⟩
  utlb := []
  l1 := []
  fwd := []
  gangWait := none
  unsent := none
  retained := false
  saveArrived := false
  saveTrapped := false
  placed := false

/-- The module after a reset (R411, R412): no launch and no context; the boot ROM has not yet run (BOOTST.ST 0), and every register is at
the value the spec gives for reset or at the one that log entry 2 names. -/
def State.reset : State where
  core := Core.reset
  peers := []
  sched := []
  tick := 0
  cyc := 0
  mem := []
  hostMem := []
  bad := []
  soft := []
  ctxs := []
  queues := []
  yards := []
  stables := []
  routers := []
  lanes := []
  dies := []
  modules := []
  inc := 0
  prevInc := none
  powered := true
  frozen := false
  bootst := 0xB0
  pwrcap := 0
  pwrnow := 0
  rampcfg := 0x3200064
  rampNow := (800, 100)
  capNow := 0
  capped := []
  rampAt := 0
  ramps := []
  ramptel := 0
  coolst := 0
  recWin := []
  image := []
  mapRr := [1023, 1023, 1023, 1023]
  hubRot := 7
  reqs := []
  nextTag := 0
  outbox := []

/-- A step's own stop. -/
inductive Fault where
  /-- Raised by `step` alone, when the module is without power and nothing is scheduled: no instruction runs. Safe: the spec has no
  step there. -/
  | poweredOff
deriving DecidableEq, Repr

/-- Why there is no meaning. -/
inductive Refusal where
  /-- Raised by an arm of `exec` for an instruction that has no meaning yet. Safe: nothing is claimed of it. -/
  | notModelled (mnemonic : String)
deriving DecidableEq, Repr

/-- The outcome of a step. -/
abbrev Out := Host.Outcome State Fault Refusal

end Sys2Proof.Machine
end

