-- ==== Sys2Proof/Machine/Fabric.lean ====
section
/-!
DEFINITION. Flits (R78 to R80) and the torus (R71, R75, R81): headers and their CRC-8, distances, and the flit that carries a request of a
core into its router's injection path.
-/
namespace Sys2Proof.Machine

/-- One bit through the CRC-8 with polynomial 0x07 (R78). -/
def crc8Bit (c : Nat) (b : Bool) : Nat :=
  let top := (decide (128 ≤ c % 256)) != b
  (2 * c % 256) ^^^ (if top then 7 else 0)

/-- CRC-8 of the n low bits of x, the highest first, from 0 (R78). -/
def crc8 (x : Nat) : Nat → Nat → Nat
  | 0, c => c
  | n + 1, c => crc8 x n (crc8Bit c (x / 2 ^ n % 2 == 1))

/-- What HCRC covers: header bits [63:40] and [27:8] (R78). -/
def hdrBits (f : Flit) : Nat :=
  (f.dx % 4096 * 2 ^ 12 + f.dy % 4096) * 2 ^ 20 + f.inc.toNat * 2 ^ 16 + f.kind.toNat * 2 ^ 12 + f.tag.toNat

def crcOk (f : Flit) : Bool := crc8 (hdrBits f) 44 0 == f.hcrc.toNat

/-- A flit with the header CRC that its fields give. -/
def sealFlit (f : Flit) : Flit := { f with hcrc := BitVec.ofNat 8 (crc8 (hdrBits f) 44 0) }

/-- Global coordinates of a physical core's router (R71). -/
def pcX (pcid : Nat) : Nat := 64 * (pcid / 2 ^ 14 % 64) + pcid / 2 ^ 8 % 64
def pcY (pcid : Nat) : Nat := 64 * (pcid / 2 ^ 20 % 64) + pcid / 4 % 64

/-- Global coordinates of this module's router (rx, ry). -/
def myX (rx : Nat) : Nat := 64 * (Config.pkgX % 64) + rx
def myY (ry : Nat) : Nat := 64 * (Config.pkgX / 64) + ry

/-- The torus of routers (R71). -/
def torusW : Nat := 64 * Config.MX
def torusH : Nat := 64 * Config.MY

/-- Hops from a to b the positive and the negative way around a ring of n. -/
def ringPos (n a b : Nat) : Nat := (b + n - a % n) % n
def ringNeg (n a b : Nat) : Nat := (a + n - b % n) % n
def ringDist (n a b : Nat) : Nat := Min.min (ringPos n a b) (ringNeg n a b)

/-- Where a place of another module lies: the router of its core, or, for module memory, the first router of the yard whose teller serves the
line (log entry 16). -/
def Place.router : Place → Option (Nat × Nat × Nat)
  | .farLoc pc i _ => some (pcX pc, pcY pc, i)
  | .far pkg i pa _ _ =>
    let d := pa / 4096 % 8
    let y := pa / 32768 % 32
    some (64 * (pkg % 64) + 32 * (d % 2) + y % 8 * 4, 64 * (pkg / 64) + 16 * (d / 2) + y / 8 * 4, i)
  | _ => none

/-- The flit of a request: payload [25:0] the source core and [29:26] the source incarnation (R78); the rest of the payload is the request,
which the outbox holds, and zero here (log entry 16). -/
def flitTo (src : Nat) (inc : BitVec 4) (x y i kind tag : Nat) : Flit :=
  sealFlit ⟨x, y, 0, BitVec.ofNat 4 i, BitVec.ofNat 4 kind, BitVec.ofNat 12 tag, 0, BitVec.ofNat 256 (src % 2 ^ 26 + inc.toNat * 2 ^ 26)⟩

/-- Doublewords in pieces of a flit's payload each: four (R78); one empty piece where there are none. -/
def payloads (ws : List W64) : List (List W64) := (upTo (Max.max 1 (cdiv ws.length 4))).map fun i => (ws.drop (4 * i)).take 4

/-- A flit of some kind and tag for router (x, y) that carries up to four doublewords. -/
def dataFlit (x y : Nat) (i : BitVec 4) (kind : Nat) (tag : BitVec 12) (ws : List W64) : Flit :=
  sealFlit ⟨x, y, 0, i, BitVec.ofNat 4 kind, tag, 0, BitVec.ofNat 256 (ws.foldr (fun w a => w.toNat + a * 2 ^ 64) 0)⟩

/-- The flits that an output of a core or a reply of this module travels in (a NACK holds its code in payload [3:0], R427; where the data of the other
replies lie is log entry 16's); none for what does not cross the fabric from a core. -/
def Out1.flitsOf (o : Out1) (src : Nat) (inc : BitVec 4) (incOf : Nat → Nat) : List Flit :=
  let place (p : Place) (kind tag : Nat) : List Flit := (p.router.map fun (x, y, i) => flitTo src inc x y i kind tag).toList
  let core (pc kind tag : Nat) : List Flit := [flitTo src inc (pcX pc) (pcY pc) (incOf (pc / 2 ^ 14 % 2 ^ 12)) kind tag]
  match o with
  | .read t p _ => place p 0 t
  | .write t p _ _ => place p 1 t
  | .atomic t p _ _ _ => place p 2 t
  | .message t pc _ => core pc 7 t
  | .event t pc _ => core pc 7 t
  | .flag pc _ _ => core pc 12 0
  | .copy t pc _ _ _ => core pc 8 t
  | .reply pc i t kind ws => (payloads ws).map fun p => dataFlit (pcX pc) (pcY pc) i kind t p
  | .flit f => [f]
  | _ => []

end Sys2Proof.Machine
end

