-- ==== Sys2Proof/Machine/Memory.lean ====
section
/-!
DEFINITION. Byte memory in one canonical form: addresses strictly rising, and no entry equal to what an unlisted address reads as.
An unlisted byte reads as zero (R68 for local memory; log entry 3 for the rest).
-/
namespace Sys2Proof.Machine

/-- A sparse byte memory. -/
abbrev Memory := List Host.Cell

/-- What an unlisted address reads as. -/
def memDefault : Byte := 0

/-- The byte at an address. -/
def Memory.get : Memory → Nat → Byte
  | [], _ => memDefault
  | (b, v) :: t, a => if b = a then v else Memory.get t a

/-- List a byte that is not listed, in its place. -/
def Memory.insert : Memory → Nat → Byte → Memory
  | [], a, x => [(a, x)]
  | (b, v) :: t, a, x => if a < b then (a, x) :: (b, v) :: t else (b, v) :: Memory.insert t a x

/-- Write one byte, keeping the canonical form: what an unlisted address reads as is not listed. -/
def Memory.put (m : Memory) (a : Nat) (x : Byte) : Memory :=
  let rest : Memory := m.filter fun c => c.1 != a
  if x = memDefault then rest else rest.insert a x

/-- Every address of m is above a. -/
def Memory.above (a : Nat) : Memory → Bool
  | [] => true
  | (b, _) :: _ => decide (a < b)

/-- The canonical form. -/
def Memory.wf : Memory → Bool
  | [] => true
  | (a, v) :: t => decide (v ≠ memDefault) && Memory.above a t && Memory.wf t

/-- n bytes from an address up. -/
def Memory.read (m : Memory) (a : Nat) : Nat → List Byte
  | 0 => []
  | n + 1 => m.get a :: Memory.read m (a + 1) n

/-- The little-endian number in n bytes (R3). -/
def Memory.num (m : Memory) (a n : Nat) : Nat := ofBytes (m.read a n)

/-- Write bytes, lowest address first. -/
def Memory.write (m : Memory) (a : Nat) : List Byte → Memory
  | [] => m
  | b :: bs => Memory.write (m.put a b) (a + 1) bs

/-- Drop every byte of [lo, hi). -/
def Memory.clear (m : Memory) (lo hi : Nat) : Memory := m.filter fun c => decide (c.1 < lo) || decide (hi ≤ c.1)

/-- The listed bytes of [lo, hi), renumbered from 0. -/
def Memory.slice (m : Memory) (lo hi : Nat) : Memory :=
  (m.filter fun c => decide (lo ≤ c.1) && decide (c.1 < hi)).map fun c => (c.1 - lo, c.2)

/-- Put every listed byte of `c` at base + its address. -/
def Memory.overlay (m : Memory) (base : Nat) (c : Memory) : Memory := c.foldl (fun m e => m.put (base + e.1) e.2) m

end Sys2Proof.Machine
end

