-- ==== Sys2Proof/Machine/Translate.lean ====
section
/-!
DEFINITION. Where cores lie (R71, R428), the address map (R196), page walks and translation (R197 to R201, R427), windows (R74) and
migration notices (R203, R204).
-/
namespace Sys2Proof.Machine

/-! ### Physical places (R71, R428) -/

def pcPkg (pcid : Nat) : Nat := fld pcid 14 12
def pcRx (pcid : Nat) : Nat := fld pcid 8 6
def pcRy (pcid : Nat) : Nat := fld pcid 2 6
def pcDie (pcid : Nat) : Nat := 2 * (pcRy pcid / 16) + pcRx pcid / 32
def pcYard (pcid : Nat) : Nat := 32 * pcDie pcid + 8 * (pcRy pcid % 16 / 4) + pcRx pcid % 32 / 4
def pcStable (pcid : Nat) : Nat := 64 * pcRy pcid + pcRx pcid

/-- Home die of a line (R188) and the teller of a paged word (R220). -/
def paDie (pa : Nat) : Nat := fld pa 12 3
def paTeller (pa : Nat) : Nat := 32 * paDie pa + fld pa 15 5

def State.yard (s : State) (y : Nat) : Yard := tget Yard.reset y s.yards
def State.die (s : State) (d : Nat) : Die := tget Die.reset d s.dies
def State.ctx (s : State) (n : Nat) : Ctx := tget Ctx.reset n s.ctxs
def State.queue (s : State) (q : Nat) : Queue := tget Queue.reset q s.queues
def State.stable (s : State) (n : Nat) : Stable := tget Stable.reset n s.stables
def State.setStable (s : State) (n : Nat) (f : Stable → Stable) : State := { s with stables := tmod Stable.reset n f s.stables }
def State.setYard (s : State) (y : Nat) (f : Yard → Yard) : State := { s with yards := tmod Yard.reset y f s.yards }
def State.setDie (s : State) (d : Nat) (f : Die → Die) : State := { s with dies := tmod Die.reset d f s.dies }
def State.setCtx (s : State) (n : Nat) (f : Ctx → Ctx) : State := { s with ctxs := tmod Ctx.reset n f s.ctxs }
def State.setQueue (s : State) (q : Nat) (f : Queue → Queue) : State := { s with queues := tmod Queue.reset q f s.queues }
def State.setCore (s : State) (f : Core → Core) : State := { s with core := f s.core }
def State.setPeer (s : State) (i : Nat) (f : Core → Core) : State := { s with peers := s.peers.modify i f }

/-- The context slot and launch of a core (R61). -/
def State.ctxOf (s : State) (c : Core) : Nat := (s.queue c.queue).ctx
def State.launchOf (s : State) (c : Core) : Option Launch := (s.queue c.queue).launch

/-- Incarnation and down bit of a module (R86, R87). -/
def State.module (s : State) (pkg : Nat) : BitVec 4 × Bool :=
  if pkg = Config.pkgX then (s.inc, false) else tget (0, false) pkg s.modules

/-- The core holds a logical core of a launch: one that runs, is stopped or saved, is done, or waits for its wake. -/
def Core.present (c : Core) : Bool := c.st != .idle || c.placed

/-- Put a flit into the injection path of physical core pcid's router (R82). -/
def State.inject (s : State) (pcid : Nat) (f : Flit) : State :=
  { s with routers := tmod Router.reset (pcStable pcid) (fun r => { r with inj := r.inj.modify (pcid % 4) (· ++ [f]) }) s.routers }

/-- An output of the module; a request or reply also enters the router of physical core pcid, where it comes from (R78, R82). -/
def State.emitFrom (s : State) (pcid : Nat) (o : Out1) : State :=
  let s1 : State := { s with outbox := s.outbox ++ [o] }
  (o.flitsOf pcid s.inc fun k => (s.module k).1.toNat).foldl (·.inject pcid ·) s1

/-- An output that comes from the current core. -/
def State.emit (s : State) (o : Out1) : State := s.emitFrom s.core.pcid o

/-- The first physical core of a yard (R428). -/
def yardCore (y : Nat) : Nat :=
  Config.pkgX * 2 ^ 14 + (32 * (y / 32 % 2) + y % 8 * 4) * 2 ^ 8 + (16 * (y / 64) + y % 32 / 8 * 4) * 4

/-- Where logical core l of queue q is: itself the current core, or its place among the others. -/
def State.isCur (s : State) (q l : Nat) : Bool := s.core.queue == q && s.core.lcn.toNat == l && s.core.present
def State.find (s : State) (q l : Nat) : Option Nat :=
  s.peers.findIdx? fun c => c.queue == q && c.lcn.toNat == l && c.present

/-- Exchange the current core with number i of the others: doing it twice restores the state. -/
def State.swap (s : State) (i : Nat) : State :=
  match s.peers[i]? with
  | some c => { s with core := c, peers := s.peers.set i s.core }
  | none => s

/-- Do `f` with logical core l of queue q as the current core; nothing when the module has no such core. -/
def State.asCore (s : State) (q l : Nat) (f : State → State) : State :=
  if s.isCur q l then f s else
  match s.find q l with
  | some i => (f (s.swap i)).swap i
  | none => s

/-! ### Page walks (R197 to R200) -/

/-- An access kind: what it needs (R199) and the cause of its faults (R200). -/
inductive Acc where
  | load | store | atomic | fetch
deriving DecidableEq, Repr

def Acc.cause : Acc → Byte
  | .fetch => 0x03#8
  | .store => 0x05#8
  | _ => 0x04#8

/-- Permission of a leaf (R199). -/
def Acc.allowed (a : Acc) (pte : W64) : Bool :=
  match a with
  | .load => bit pte 3
  | .store => bit pte 4
  | .atomic => bit pte 3 && bit pte 4
  | .fetch => bit pte 5

/-- A walk that reads an uncorrectable entry has no reason of R200: it gives 16 more than the TVAL of its machine check (R401). -/
def walkCheck (src pa : Nat) : Nat := 16 + src + pa * 256

/-- CAUSE and TVAL of a failed translation (R200), or of the machine check of an entry. -/
def xFault (a : Acc) (va : W64) (reason : Nat) : Byte × W64 :=
  if 16 ≤ reason then (0x1F#8, w64 (reason - 16)) else (if reason = 6 then 0x06#8 else a.cause, w64 (bf va 0 56 + reason * 2 ^ 56))

/-- The capacity of CXL port p in units of 64 GiB, at most the 4 TiB that it owns: the ports share the total that BOOTST reports in a way that it does not say
(R405, R412; log entry 9). -/
def cxlUnits (total p : Nat) : Nat :=
  let earlier := (upTo p).foldl (fun a i => a + Min.min 64 (Config.cxlPort i)) 0
  if p < 7 then Min.min (Min.min 64 (Config.cxlPort p)) (total - earlier) else Min.min 64 (total - earlier)

/-- The frame is GDDR 7, or memory of one of the eight CXL ports, populated on this module (R198, R405, R412). -/
def State.populated (s : State) (frame : Nat) : Bool :=
  if frame < 4194304 then decide (frame < bf s.bootst 32 32 * 8192) else
  let p := (frame - 4194304) / 2 ^ 25
  decide (p < 8) && decide ((frame - 4194304) % 2 ^ 25 < cxlUnits (bf s.bootst 16 16) p * 524288)

/-- One entry of a table (R197), or the machine check of one that cannot be corrected (R401). -/
def State.pteAt (s : State) (table idx : Nat) : Except Nat W64 :=
  let a := table + 8 * idx
  match s.bad.findSome? fun e => match e with | .mem src b => if b / 8 = a / 8 then some src else none | _ => none with
  | some src => .error (walkCheck src (a / 8 * 8))
  | none => .ok (w64 (Memory.num s.mem a 8))

/-- A non-leaf entry that keeps R198: only FRAME and V. -/
def nonLeafOk (e : W64) : Bool := bf e 46 18 == 0 && bf e 1 16 == 0

/-- A leaf that keeps R198. -/
def leafOk (e : W64) (big : Bool) : Bool :=
  bf e 7 10 == 0 && (!big || bf e 17 13 == 0) && !(bit e 1 && (bf e 50 2 == 0 || bf e 50 2 == 3))

/-- What a walk finds: the leaf, whether it maps 1 GiB, the entries of levels 1 and 2 that it took, and the addresses of the entries it read. -/
structure Walked where
  pte : W64
  big : Bool
  e1 : W64
  e2 : W64
  read : List Nat

/-- The walk (R197), with the entries of levels 1 and 2 that a walker has cached (R202), or the reason of R200. -/
def State.walkVia (s : State) (c1 c2 : Option W64) (root va : Nat) : Except Nat Walked :=
  let a1 := root + 8 * fld va 43 13
  match (match c1 with | some e => Except.ok e | none => s.pteAt root (fld va 43 13)) with
  | .error r => .error r
  | .ok e1 =>
  if !bit e1 0 then .error 2 else if bit e1 2 || !nonLeafOk e1 then .error 5 else
  let t2 := bf e1 17 29 * 2 ^ 17
  match (match c2 with | some e => Except.ok e | none => s.pteAt t2 (fld va 30 13)) with
  | .error r => .error r
  | .ok e2 =>
  let a2 := t2 + 8 * fld va 30 13
  if !bit e2 0 then .error 3 else
  if bit e2 2 then (if leafOk e2 true then .ok ⟨e2, true, e1, e2, [a1, a2]⟩ else .error 5) else
  if !nonLeafOk e2 then .error 5 else
  let t3 := bf e2 17 29 * 2 ^ 17
  match s.pteAt t3 (fld va 17 13) with
  | .error r => .error r
  | .ok e3 =>
  if !bit e3 0 then .error 4 else if !bit e3 2 || !leafOk e3 false then .error 5 else .ok ⟨e3, false, e1, e2, [a1, a2, t3 + 8 * fld va 17 13]⟩

/-- A walk that reads every entry afresh: the leaf and whether it maps 1 GiB. -/
def State.walk (s : State) (root : Nat) (va : Nat) : Except Nat (W64 × Bool) := (s.walkVia none none root va).map fun w => (w.pte, w.big)

/-- The die of an erroneous word, and the field of ECCCNT that counts its correction (R400). -/
def errDie : ErrLoc → Nat
  | .loc p _ | .tile p _ => pcDie p
  | .mem _ a => paDie a
  | .line n _ _ => pcDie (n / 64 * 4 + n % 64 * 2 ^ 8)
def errFixed : ErrLoc → Nat × Nat
  | .loc _ _ => (48, 16)
  | .mem 2 _ => (32, 16)
  | .mem _ _ => (16, 16)
  | .tile _ _ | .line _ _ _ => (8, 8)

/-- Count one of the words of a die in ECCCNT. -/
def State.eccCount (s : State) (d lo w : Nat) : State := s.setDie d fun t => { t with eccnt := lnkCount t.eccnt lo w }

/-- A read corrects the words that `f` selects, and each die counts its own (R399, R400). -/
def State.correct (s : State) (f : ErrLoc → Bool) : State :=
  match s.soft.filter f with
  | [] => s
  | es => es.foldl (fun s e => s.eccCount (errDie e) (errFixed e).1 (errFixed e).2) { s with soft := s.soft.filter fun e => !f e }

/-- The address bits that select the entries of a level on the path to va. -/
def walkKey (level va : Nat) : Nat := va / 2 ^ (if level = 1 then 43 else 30)

/-- The entry of a level that the walker of va (R202) has cached. -/
def Die.walkHit (d : Die) (ctx level va : Nat) : Option W64 :=
  (d.walks.find? fun e => e.walker == fld va 30 1 && e.ctx == ctx && e.level == level && e.key == walkKey level va).map (·.pte)

/-- Keep the entries of a walk that has ended without a fault: 256 for each walker, the oldest replaced (log entry 10). -/
def Die.walkKeep (d : Die) (ctx va : Nat) (w : Walked) : Die :=
  let k := fld va 30 1
  let new (level : Nat) (e : W64) : List WalkE := if (d.walkHit ctx level va).isSome then [] else [⟨k, ctx, level, walkKey level va, e⟩]
  { d with walks := (new 1 w.e1 ++ new 2 w.e2 ++ d.walks.filter (·.walker == k)).take 256 ++ d.walks.filter (·.walker != k) }

/-- The entry maps va for the context (R198 G, R201). -/
def TlbE.hit (e : TlbE) (ctx va : Nat) : Bool :=
  (e.ctx == ctx || bit e.pte 6) && (if e.big then va / 2 ^ 30 == e.va / 2 ^ 30 else va / 2 ^ 17 == e.va / 2 ^ 17)

/-- The leaf for va through the micro-TLB (scalar accesses), the yard TLB, and a walk of the die's walkers that fills both (R201, R202). The oldest entry
is replaced (log entry 10). -/
def State.leaf (s : State) (scalar : Bool) (va : Nat) : Except Nat (TlbE × State) :=
  let c := s.core
  let n := s.ctxOf c
  let y := pcYard c.pcid
  let fillU (s : State) (e : TlbE) : State := if scalar then s.setCore fun c => { c with utlb := (e :: c.utlb).take 32 } else s
  match (if scalar then c.utlb.find? (TlbE.hit · n va) else none) with
  | some e => .ok (e, s)
  | none =>
    match (s.yard y).tlb.find? (TlbE.hit · n va) with
    | some e => .ok (e, fillU s e)
    | none =>
      let d := s.die (pcDie c.pcid)
      match s.walkVia (d.walkHit n 1 va) (d.walkHit n 2 va) ((s.ctx n).ptroot.toNat) va with
      | .error r => .error r
      | .ok w =>
        let e : TlbE := ⟨n, va / 2 ^ 17 * 2 ^ 17, w.big, w.pte, 0⟩
        let s := (s.setDie (pcDie c.pcid) (·.walkKeep n va w)).correct fun e => match e with | .mem _ b => w.read.contains (b / 8 * 8) | _ => false
        .ok (e, fillU (s.setYard y fun t => { t with tlb := (e :: t.tlb).take 2048 }) e)

/-- Free entries of the fault queue of a die (R377). -/
def Die.room (d : Die) : Nat := 64 - d.faultq.length

/-- Count a remote access through a mode-3 entry, with the notice of R204 when it reaches THR (R203). -/
def State.countRemote (s : State) (va : Nat) : State :=
  let c := s.core
  let n := s.ctxOf c
  let y := pcYard c.pcid
  let d := pcDie c.pcid
  let thr := bf c.migthresh 0 16
  match (s.yard y).tlb.find? (TlbE.hit · n va) with
  | none => s
  | some e =>
    let k := (e.cnt + 1) % 65536
    let full := thr != 0 && k == thr
    let upd (f : TlbE) : TlbE := if f.hit n va then { f with cnt := if full then 0 else k } else f
    let s := s.setYard y fun t => { t with tlb := t.tlb.map upd }
    if full then
      if 8 ≤ (s.die d).room then
        let page := if e.big then va / 2 ^ 30 * 2 ^ 30 else va / 2 ^ 17 * 2 ^ 17
        let r : FaultRec := ⟨n, false, [w64 (0x80 + n * 2 ^ 32), w64 page, w64 (bf e.pte 52 12 + c.lcn.toNat * 2 ^ 12), s.cyc, 0, 0, 0, 0]⟩
        s.setDie d fun t => { t with faultq := t.faultq ++ [r] }
      else s.setDie d fun t => { t with migdrop := t.migdrop + 1 }
    else s

/-- Count an access that leaves for another module through a mode-3 page (R203). -/
def State.counted (s : State) (p : Place) (va : W64) : State :=
  match p with
  | .far _ _ _ false 3 => s.countRemote va.toNat
  | _ => s

/-- The address lies in the code heap of the context (R53). -/
def Ctx.inHeap (x : Ctx) (va : Nat) : Bool :=
  x.st == 2 && decide (x.heapbase.toNat ≤ va) && decide (va < x.heapbase.toNat + x.heapsize.toNat)

/-- Translation of a paged address (R197 to R200, R427). -/
def State.paged (s : State) (scalar : Bool) (a : Acc) (va : Nat) : Except Nat (Place × State) :=
  if (s.ctx (s.ctxOf s.core)).inHeap va && a != .fetch then .error 6 else
  match s.leaf scalar va with
  | .error r => .error r
  | .ok (e, s) =>
    if !a.allowed e.pte then .error 6 else
    let frame := bf e.pte 17 29
    let mode := bf e.pte 50 2
    let peer := bf e.pte 52 12
    let pa := frame * 2 ^ 17 + (if e.big then va % 2 ^ 30 else va % 2 ^ 17)
    let home := mode == 0 || peer == Config.pkgX
    if bit e.pte 1 then
      .ok (if peer = Config.pkgX then .host pa mode (s.ctx (s.ctxOf s.core)).fn else .far peer (bf e.pte 46 4) pa true mode, s)
    else if home then
      (if s.populated (pa / 2 ^ 17) then .ok (.mem pa mode, s) else .error 8)
    else
      .ok (.far peer (bf e.pte 46 4) pa false mode, s)

/-- Translate an address of context n for the hub, by a walk that no TLB caches: a place, or the reason of R200. -/
def State.hubXlat (s : State) (n : Nat) (a : Acc) (va : Nat) : Except Nat Place :=
  if 0x0040000000000000 ≤ va then .error 1 else
  if (s.ctx n).inHeap va && a != .fetch then .error 6 else
  match s.walk (s.ctx n).ptroot.toNat va with
  | .error r => .error r
  | .ok (pte, big) =>
    if !a.allowed pte then .error 6 else
    let pa := bf pte 17 29 * 2 ^ 17 + (if big then va % 2 ^ 30 else va % 2 ^ 17)
    let peer := bf pte 52 12
    if bit pte 1 then .ok (if peer = Config.pkgX then .host pa 1 (s.ctx n).fn else .far peer (bf pte 46 4) pa true 1)
    else if bf pte 50 2 = 0 ∨ peer = Config.pkgX then (if s.populated (pa / 2 ^ 17) then .ok (.mem pa 1) else .error 8)
    else .ok (.far peer (bf pte 46 4) pa false 1)

/-- Base of the context records of a core's launch (R383). -/
def State.saveBase (s : State) (c : Core) : Nat :=
  match s.launchOf c with
  | some l => if l.savebase = 0 then (s.ctx (s.ctxOf c)).ctxbase.toNat else l.savebase.toNat
  | none => (s.ctx (s.ctxOf c)).ctxbase.toNat

/-- Base of the context record of core c (R383, R384). -/
def State.recBase (s : State) (c : Core) : Nat := s.saveBase c + c.lcn.toNat * 0x60000

/-- Where this module or its host keeps byte `off` of the context record of core c; none for a record on another module, or one that does not translate. -/
def State.recPlace (s : State) (c : Core) (off : Nat) : Option Place :=
  match s.hubXlat (s.ctxOf c) .store (s.recBase c + off) with
  | .ok (.far _ _ _ _ _) | .error _ => none
  | .ok p => some p

/-- The local memory of logical core l of the current core's launch, at an offset (R74, R77); that of a saved core whose record lies on another module is with
its entry in `peers` (log entry 17). -/
def State.window (s : State) (a : Acc) (l off : Nat) : Except Nat (Place × State) :=
  let c := s.core
  if decide (c.ncores.toNat ≤ l) then .error 1
  else if l = c.lcn.toNat then .ok (.own off, s)
  else
    match s.find c.queue l with
    | some i =>
      match s.peers[i]? with
      | some p =>
        if p.st = .saved then
          match s.paged false a (s.saveBase c + l * 0x60000 + 0x20000 + off) with
          | .ok (.mem pa _, s) => .ok (.saved i off pa false, s)
          | .ok (.host pa _ _, s) => .ok (.saved i off pa true, s)
          | .ok (_, s) => .ok (.peer i off, s)
          | .error r => .error r
        else .ok (.peer i off, s)
      | none => .error 1
    | none =>
      match s.launchOf c with
      | some la =>
        match la.remap[l / 4]? with
        | some e =>
          if !bit e 40 then .error 1 else
          let x := bf e 0 12
          let y := bf e 12 12
          let pkg := y / 64 * 64 + x / 64
          if pkg = Config.pkgX then .error 1 else
          .ok (.farLoc (pkg * 2 ^ 14 + x % 64 * 2 ^ 8 + y % 64 * 4 + l % 4) (s.module pkg).1.toNat off, s)
        | none => .error 1
      | none => .error 1

/-- First address of the ranges of R196. -/
def winBase : Nat := 0x0040000000000000
def localBase : Nat := 0x007FFFFFFFF00000
def ctlBase : Nat := 0x007FFFFFFFFF0000

/-- Virtual address of an offset in the window of logical core l (R196). -/
def winAddr (l off : Nat) : W64 := w64 (winBase + l * 2 ^ 18 + off)

/-- Decode and translate a virtual address (R196). -/
def State.xlat (s : State) (scalar : Bool) (a : Acc) (va : W64) : Except Nat (Place × State) :=
  let v := va.toNat
  if v < winBase then s.paged scalar a v
  else if localBase ≤ v && v < localBase + 0x40000 then .ok (.own (v - localBase), s)
  else if ctlBase ≤ v && v < ctlBase + 0x10000 then .ok (.ctl (v - ctlBase), s)
  else if v < localBase then s.window a ((v - winBase) / 2 ^ 18) ((v - winBase) % 2 ^ 18)
  else .error 1

/-- Where a posted store's place is now: the core of a window may have been saved or restored since, or may have another place in `peers` (R77). -/
def State.nowAt (s : State) (va : W64) (p : Place) : Place :=
  match p with
  | .peer _ _ | .saved _ _ _ _ => match s.xlat false .store va with | .ok (q, _) => q | .error _ => p
  | _ => p

end Sys2Proof.Machine
end

