-- ==== Sys2Proof/Machine/Ops.lean ====
section
/-!
DEFINITION. The named operations over registers, traps, shadows, frames and memory, which the meanings call.
-/
namespace Sys2Proof.Machine

/-! ### Registers (R114): s0 reads zero and p0 true, and both ignore writes -/

def Core.rd (c : Core) (r : SReg) : W64 := if r = 0#5 then 0#64 else c.s[r.toNat]
def Core.wr (c : Core) (r : SReg) (v : W64) : Core := if r = 0#5 then c else { c with s := c.s.set r.toNat v }
def Core.rp (c : Core) (r : PReg) : Bool := if r = 0#3 then true else c.p[r.toNat]
def Core.wp (c : Core) (r : PReg) (v : Bool) : Core := if r = 0#3 then c else { c with p := c.p.set r.toNat v }
def Core.rk (c : Core) (r : KReg) : Handle := c.k[r.toNat]
def Core.wk (c : Core) (r : KReg) (v : Handle) : Core := { c with k := c.k.set r.toNat v }

def State.rd (s : State) (r : SReg) : W64 := s.core.rd r
def State.wr (s : State) (r : SReg) (v : W64) : State := { s with core := s.core.wr r v }
def State.rp (s : State) (r : PReg) : Bool := s.core.rp r
def State.wp (s : State) (r : PReg) (v : Bool) : State := { s with core := s.core.wp r v }
def State.rk (s : State) (r : KReg) : Handle := s.core.rk r
def State.wk (s : State) (r : KReg) (v : Handle) : State := { s with core := s.core.wk r v }

/-! ### Stream ports as register operands see them (R211, R214) -/

/-- What the current instruction tries again with, when it is an L whose shadow is open. -/
def Core.again (c : Core) : Option Retry := c.resume.bind (·.retry)

/-- The current instruction is an L that tries again with what it read at issue. -/
def Core.raw (c : Core) : Bool := c.again.isSome

/-- Fields of the current instruction name port n: while it is bound (R114), or, for an L that tries again, when it was bound at its issue (R214). -/
def Core.portUsed (c : Core) (n : Fin 8) : Bool :=
  match c.again with
  | some t => t.ports.contains n
  | none => (c.ports.get n).bound

/-- The number of the port that a register field names: s24 to s31 (R114). -/
def Core.port? (c : Core) (r : SReg) : Option (Fin 8) :=
  if h : 24 ≤ r.toNat then
    let n : Fin 8 := ⟨r.toNat - 24, by have := r.isLt; omega⟩
    if c.portUsed n then some n else none
  else none

def Core.setPort (c : Core) (n : Fin 8) (f : Port → Port) : Core := { c with ports := c.ports.set n.val (f (c.ports.get n)) }

/-- Push an element on port n (R214). -/
def Core.push (c : Core) (n : Fin 8) (v : W64) : Core := c.setPort n fun p => { p with pushed := p.pushed ++ [v] }

/-- Write a result: to the register, or as the next element of the bound write port that the field names (R214). -/
def Core.out (c : Core) (r : SReg) (v : W64) : Core :=
  match c.port? r with
  | some n => c.push n v
  | none => c.wr r v

/-- Write a register for an instruction that found its port unbound when it executed (R114): while a port is bound its register is kept aside. -/
def Core.wrReg (c : Core) (r : SReg) (v : W64) : Core :=
  match c.port? r with
  | some n => c.setPort n fun p => { p with aside := v }
  | none => c.wr r v

/-- Land one write that was deferred (R118); the pushes of its instruction were made when it executed. -/
def Core.land (c : Core) : Wr → Core
  | .s r v => c.wrReg r v
  | .k r h => c.wk r h
  | .kor r b => c.wk r (c.rk r ||| b)

/-- Land writes in order. -/
def Core.landAll (c : Core) (ws : List Wr) : Core := ws.foldl Core.land c

/-- The write is a push, as the ports are bound now (R114). -/
def Core.pushes (c : Core) : Wr → Option (Fin 8 × W64)
  | .s r v => (c.port? r).map fun n => (n, v)
  | _ => none

/-- The pushes among the writes of an instruction that executes, made at once. -/
def Core.pushAll (c : Core) (ws : List Wr) : Core := (ws.filterMap c.pushes).foldl (fun c x => c.push x.1 x.2) c

/-- The other writes. -/
def Core.lands (c : Core) (ws : List Wr) : List Wr := ws.filter fun w => (c.pushes w).isNone

/-! ### The program counter and repeat frames (R131, R166, R168) -/

/-- The address EPC names for the current instruction: the MOD word for a pair (R127). -/
def Core.ipc (c : Core) : W64 :=
  match c.modp with
  | some m => m.pc
  | none => c.pc

/-- RPTST for an open frame (R168). -/
def Frame.rptst (f : Frame) : W64 :=
  w64 (2 ^ 63 + f.len % 16 * 2 ^ 47 + f.str.toNat * 2 ^ 41 + f.pos * 2 ^ 37 + f.iter % 32 * 2 ^ 32 + f.left)

/-- Clear a bit of a doubleword. -/
def clrBit (x : W64) (n : Nat) : W64 := x &&& ~~~(1#64 <<< n)

/-- RPTST as a trap at the current word leaves it (R168, R169): V is 0 outside a frame. -/
def Core.rptstNow (c : Core) : W64 :=
  match c.frame with
  | some f => f.rptst
  | none => clrBit c.rptst 63

/-- Next word: the next position or trip of an open frame, else pc + 4; V of RPTST returns to 0 when the frame ends. -/
def Core.step4 (c : Core) : Core :=
  match c.frame with
  | none => { c with pc := c.pc + 4#64 }
  | some f =>
    if f.pos + 1 < f.len then { c with pc := c.pc + 4#64, frame := some { f with pos := f.pos + 1 } }
    else if f.left = 0 then { c with pc := c.pc + 4#64, frame := none, rptst := clrBit c.rptst 63 }
    else { c with pc := f.base, frame := some { f with pos := 0, iter := f.iter + 1, left := f.left - 1 } }

/-! ### Gangs as other operations see them (R132, R171, R172) -/

def gangRole (g : W64) : Nat := bf g 4 2

/-- The other cores of the current core's stable in its launch (R171). -/
def State.stableMates (s : State) : List Nat :=
  (upTo s.peers.length).filter fun i =>
    match s.peers[i]? with
    | some c => pcStable c.pcid == pcStable s.core.pcid && pcPkg c.pcid == pcPkg s.core.pcid && c.queue == s.core.queue
        && c.pcid != s.core.pcid
    | none => false

/-- A core whose GANGST says it follows core n (R172). -/
def Core.follows (c : Core) (n : Nat) : Bool := gangRole c.gangst == 2 && bf c.gangst 6 2 == n

/-- A follower alone again, with LAST (R172); it drops its forwarding buffer. -/
def Core.detach (c : Core) (last : Nat) : Core := { c with gangst := at64 last 1, fwd := [], gangWait := none }

/-- A leader without follower n; alone when it was the last (R172). -/
def Core.unlead (c : Core) (n : Nat) : Core :=
  let g := clrBit c.gangst (8 + n)
  { c with gangst := if bf g 8 4 = 0 then g &&& ~~~(at64 3 4) else g }

/-- The current core, as a follower, leaves its leader (R132). -/
def State.gangLeave (s : State) (last : Nat) : State :=
  if gangRole s.core.gangst = 2 then
    let me := s.core.pcid % 4
    let ld := bf s.core.gangst 6 2
    let upd (c : Core) : Core :=
      if pcStable c.pcid == pcStable s.core.pcid && c.queue == s.core.queue && c.pcid % 4 == ld then c.unlead me else c
    { s with peers := s.peers.map upd, core := s.core.detach last }
  else s

/-- The current core, as a leader, lets every follower go (R132, R171). -/
def State.gangDissolve (s : State) : State :=
  if gangRole s.core.gangst = 1 then
    let me := s.core.pcid % 4
    let upd (c : Core) : Core :=
      if pcStable c.pcid == pcStable s.core.pcid && c.queue == s.core.queue && c.follows me then c.detach 3 else c
    { s with peers := s.peers.map upd, core := { s.core with gangst := s.core.gangst &&& at64 7 1 } }
  else s

/-! ### Traps (R373 to R379) -/

/-- Move a core's fault record into its die's queue when an entry is free (R377, R379). -/
def State.sendRec (s : State) : State :=
  match s.core.unsent with
  | none => s
  | some dws =>
    let d := pcDie s.core.pcid
    if (s.die d).room = 0 then s else
    (s.setDie d fun t => { t with faultq := t.faultq ++ [⟨s.ctxOf s.core, false, dws⟩] }).setCore fun c => { c with unsent := none }

/-- CAUSE and TVAL of the machine check of an uncorrectable word that physical core `who` consumes (R375, R398). Local memory has no physical address: its
location is a free value (log entry 7). -/
def errFault (e : ErrLoc) (who : Nat) : Byte × W64 :=
  match e with
  | .loc p o => (0x1F#8, 1#64 + (Config.freeBits p o <<< 8))
  | .mem src a => (0x1F#8, w64 (src + a * 256))
  | .tile p _ => (0x1F#8, w64 (6 + p * 256))
  | .line _ _ _ => (0x1F#8, w64 (6 + who * 256))

/-- A trap for an uncorrectable word counts it as found (R400). -/
def State.countBad (s : State) (t : Trap) : State :=
  if t.cause ≠ 0x1F#8 then s else
  match s.bad.find? fun e => errFault e s.core.pcid == (t.cause, t.tval) with
  | some e => s.eccCount (errDie e) 0 8
  | none => s

/-- The core stops at `pc` with the registers of R373 written, TSEQ counted, and one fault record (R376) queued or kept. -/
def State.trapAt (s : State) (pc shdone rptst : W64) (t : Trap) : State :=
  let s := ((s.countBad t).gangLeave 4).gangDissolve
  let c := s.core
  let tseq := (c.tseq + 1) % 65536
  let tag := match s.launchOf c with | some l => l.tag | none => 0
  let dws : List W64 := [w64 (s.ctxOf c * 2 ^ 32 + tseq * 2 ^ 16 + t.cause.toNat), pc,
    w64 (c.pcid % 2 ^ 26 * 2 ^ 38 + c.lcn.toNat * 2 ^ 12 + c.queue), s.cyc, t.tval, shdone, rptst, w64 tag]
  let c : Core :=
    { c with st := .trapped, pc := pc, epc := pc, cause := t.cause.setWidth 64, tval := t.tval, raised := t.why, shdone := shdone, rptst := rptst,
             tseq := tseq, modp := none, frame := none, shadow := none, resume := none, far := none, probe := none, unsent := some dws, latch := none, obj := none,
             xch := { c.xch with checked := false } }
  State.sendRec { s with core := c }

/-- SHDONE of a shadow (R120). -/
def shdoneOf (len : Nat) (done : BitVec 15) : W64 := w64 (2 ^ 31 + len * 2 ^ 16 + done.toNat)

/-- End an open shadow with `len` positions in effect: L's trap is taken (R121), or L's writes land (R118) and SHDONE.V returns to 0; then the overflow
trap that follows L (R104), or the trap of a shadow instruction that waited for L (R122), is taken. -/
def State.endShadow (s : State) (len : Nat) : State :=
  match s.core.shadow with
  | none => s
  | some sh =>
    match sh.held with
    | some t => s.trapAt sh.pc (shdoneOf len (sh.done ||| sh.fin)) (if bit sh.rptst 63 then sh.rptst else clrBit s.core.rptst 63) t
    | none =>
      let s := s.setCore fun c => ({ c with shadow := none, shdone := clrBit c.shdone 31 } : Core).landAll sh.writes
      match (match sh.ovf with | some v => some ⟨0x09#8, v, 0⟩ | none => sh.trap) with
      | some t => s.trapAt s.core.ipc s.core.shdone s.core.rptstNow t
      | none => s

/-- The current instruction waits (R5); it is tried again. -/
def State.wait (s : State) : State := s.setCore fun c => { c with st := .waiting }

/-- The shadow is over once its positions are used up and L is past its trap point. -/
def State.shadowOver (s : State) : State :=
  match s.core.shadow with
  | some sh => if sh.len ≤ sh.pos && sh.retry.isNone then s.endShadow sh.len else s
  | none => s

/-- The current instruction traps (R373, R122). In another instruction's shadow L is settled first, and L's own trap is the one taken; while L is still in
the cochain queue or short of its trap point, the trap waits for it. -/
def State.trapT (s : State) (t : Trap) : State :=
  match s.core.shadow with
  | none => s.trapAt s.core.ipc (clrBit s.core.shdone 31) s.core.rptstNow t
  | some sh =>
    let s := s.setCore fun c => { c with st := .running, shadow := some { sh with trap := some t } }
    if sh.ticket.isSome || sh.retry.isSome then s else s.endShadow sh.len

/-- The current instruction traps for a fault of its own. -/
def State.trap (s : State) (cause : Byte) (tval : W64) : State := s.trapT ⟨cause, tval, 0⟩

/-- The phase violation that a completed episode has left to the instruction at the PC, the one after that which arrived (R339). -/
def Core.owedHere (c : Core) : Option W64 := c.owed.bind fun x => if x.1 = c.pc ∧ c.modp = none then some x.2 else none

/-- It can be taken: no L in whose shadow the PC lies is short of its trap point (R122). -/
def Core.owedNow (c : Core) : Bool := match c.shadow with | some sh => sh.ticket.isNone && sh.retry.isNone | none => true

/-- Take it; where the L in whose shadow it lies traps, it stays owed (R121). -/
def State.takeOwed (s : State) (v : W64) : State :=
  let s := match s.core.shadow with | some sh => s.endShadow sh.len | none => s
  if s.core.st = .trapped then s else (s.setCore fun c => { c with owed := none }).trap 0x13#8 v

/-- Count a completed instruction as a position of an open shadow, which ends after its last one (R117). -/
def State.position (s : State) : State :=
  match s.core.shadow with
  | none => s
  | some sh =>
    (s.setCore fun c => { c with shadow := some { sh with pos := sh.pos + 1, fin := sh.fin ||| (1#15 <<< sh.pos) } }).shadowOver

/-- An L waits with its shadow open (R119). -/
def Core.retrying (c : Core) : Bool := match c.shadow with | some sh => sh.retry.isSome | none => false

/-- The core waits for the answer of another module to a request of its scalar pipeline. -/
def Core.awaits (c : Core) : Bool := match c.far with | some f => f.reply.isNone && f.nack.isNone | none => false

/-- What an instruction that has completed leaves of itself: the MOD prefix and a resume are used up, and the core runs. A request of an L whose shadow it
is in stays. -/
def Core.settle (c : Core) : Core :=
  { c with st := .running, modp := none, resume := none, far := if c.retrying then c.far else none, gangWait := none, latch := none,
           shdone := if c.resume.any (fun r => r.len != 0 || r.retry.isNone) then clrBit c.shdone 31 else c.shdone }

/-- The instruction has completed: on to the next word. -/
def State.retire (s : State) : State := (s.setCore fun c => c.settle.step4).position

/-- The instruction has completed and the next word is at `t`; it is no position of a shadow. -/
def State.goto (s : State) (t : W64) : State := s.setCore fun c => { c.settle with pc := t, frame := none }

/-- The instruction has completed and sets the PC to a target (R146 to R149): the fetch unit takes the bounds afresh (R131). -/
def State.jump (s : State) (t : W64) : State := (s.goto t).setCore fun c => { c with obj := none }

/-- The positions in effect of L's shadow and the DONE bits it starts with: la, or what RESUME restored (R121). -/
def Core.shadowOf (c : Core) (la : BitVec 4) : Nat × BitVec 15 :=
  match c.resume with
  | some r => (r.len, r.done)
  | none => (la.toNat, 0)

/-- The core behind the current instruction, whose shadow opens. -/
def Core.into (c : Core) (sh : Shadow) : Core :=
  { ({ c with st := .running, modp := none, resume := none, latch := none } : Core).step4 with shadow := some sh }

/-- Open the shadow of the current instruction, which has left `held` and `writes` to land after it (R117, R118); `ticket` is its place
in the cochain queue while it is there. -/
def State.openShadow (s : State) (la : BitVec 4) (writes : List Wr) (held : Option Trap) (ticket : Option Nat) : State :=
  let (n, d) := s.core.shadowOf la
  s.setCore fun c => { c with far := none }.into ⟨c.ipc, c.rptstNow, n, 0, d, 0, writes, held, ticket, none, none, none⟩

/-- L has completed with these writes: pushes are made at once, and the others land at once or after its shadow. -/
def State.landL (s : State) (la : BitVec 4) (writes : List Wr) : State :=
  let later := s.core.lands writes
  let s := s.setCore (·.pushAll writes)
  if (s.core.shadowOf la).1 = 0 then (s.setCore (·.landAll later)).retire else s.openShadow la later none none

/-- The scalar registers that the word of a long-latency instruction that can wait may name (R206: ST64 names eight). -/
def wordRegs (w : W32) : List SReg :=
  let op := (fop w).toNat
  if op = 26 ∧ (fkind w).toNat = 4 then fa w :: (upTo 8).map fun i => fd w + BitVec.ofNat 5 i
  else if 25 ≤ op ∧ op ≤ 27 then [fd w, fa w] else [fd w, fa w, fb w]

/-- L is in a local wait, or waits for the reply that may carry a NACK (R119): its shadow opens, and L tries again with what it read at issue, `fmts` of
its checks among it (R192). An L without a shadow waits as it stands, with those formats. -/
def State.waitWith (s : State) (la : BitVec 4) (fmts : Option (List W64)) : State :=
  match s.core.latch with
  | none => s.wait
  | some w =>
    let (n, d) := s.core.shadowOf la
    let t : Retry := ⟨w, s.core.s, (wordRegs w).filterMap s.core.port?, s.core.modp, s.core.frm, s.core.vrm, fmts⟩
    if s.core.raw = true then s.wait else
    if n = 0 then (if fmts.isSome then s.setCore fun c => { c with resume := some ⟨0, d, some t⟩ } else s).wait else
    s.setCore fun c => c.into ⟨c.ipc, c.rptstNow, n, 0, d, 0, [], none, none, none, none, some t⟩

def State.waitL (s : State) (la : BitVec 4) : State := s.waitWith la none

/-- The state in which the waiting L of the open shadow tries again: at its own PC, with the registers it read, and in no shadow. -/
def State.retryState (s : State) (sh : Shadow) (t : Retry) : State :=
  s.setCore fun c => { c with st := .running, pc := sh.pc, s := t.regs, shadow := none, modp := t.md, frm := t.frm, vrm := t.vrm, frame := none, latch := none,
                              resume := some ⟨Max.max 1 sh.len, sh.done, some t⟩ }

/-- What the try `t` of the waiting L of state s leaves: the shadow instructions go on where they were, and L's writes or its trap wait for the end of its
shadow, or L still waits; an XCHG that has arrived ends its shadow (R364). -/
def State.retried (s t : State) : State :=
  match s.core.shadow with
  | none => t
  | some sh =>
    let back (sh : Shadow) : State :=
      t.setCore fun c => { c with st := s.core.st, pc := s.core.pc, s := s.core.s, latch := s.core.latch, modp := s.core.modp, resume := s.core.resume,
                                  frm := s.core.frm, vrm := s.core.vrm, frame := s.core.frame, gangWait := s.core.gangWait, obj := s.core.obj, shadow := some sh }
    match t.core.shadow with
    | none => back (if t.core.xch.arrived.isSome then { sh with len := sh.pos } else sh)
    | some u =>
      let v := (back { sh with retry := none, writes := u.writes, held := u.held, ticket := u.ticket }).setCore fun c => { c with st := .running }
      if u.held.isSome || sh.trap.isSome then v.endShadow sh.len else v.shadowOver

/-- L traps: at once, or after its shadow (R121). -/
def State.trapLT (s : State) (la : BitVec 4) (t : Trap) : State :=
  if (s.core.shadowOf la).1 = 0 then s.trapT t else s.openShadow la [] (some t) none

/-- L traps with its trap point at issue: none of its shadow has issued (R121, R334). -/
def State.trapAtIssue (s : State) (la : BitVec 4) (t : Trap) : State :=
  let u := s.trapLT la t
  match u.core.shadow with
  | some sh => if sh.held.isSome then u.endShadow sh.len else u
  | none => u

/-- L traps for a fault of its own. -/
def State.trapL (s : State) (la : BitVec 4) (cause : Byte) (tval : W64) : State := s.trapLT la ⟨cause, tval, 0⟩

/-! ### Local memory and full/empty bits (R27, R194) -/

def Core.locByte (c : Core) (o : Nat) : Byte := if o < c.lmin then Memory.get c.lmem o else 0

/-- Plain bytes: zero at and above the declared minimum (R27). -/
def Core.locRead (c : Core) (o n : Nat) : List Byte := (upTo n).map fun i => c.locByte (o + i)

/-- Bytes written at an offset reach the deque's ring (R173). -/
def Core.ringHit (c : Core) (o n : Nat) : Bool :=
  c.deque != [] && decide (o < c.tkbase.toNat + 16 * bf c.tksize 0 9) && decide (c.tkbase.toNat < o + n)

/-- The deque after a store into its ring: its content is not defined (R173), so every entry is free (log entry 7). -/
def Core.scramble (c : Core) (o : Nat) : Core :=
  let f (i : Nat) : W64 := Config.freeBits (o + 2 ^ 20 * i) c.lcn.toNat
  { c with deque := (upTo c.deque.length).map fun i => ⟨bf (f (4 * i)) 0 12, bf (f (4 * i + 1)) 0 26, bit (f (4 * i + 2)) 0, f (4 * i + 3), []⟩ }

/-- Plain stores: ignored at and above the declared minimum (R27). -/
def Core.locWrite (c : Core) (o : Nat) (bs : List Byte) : Core :=
  let c := if c.ringHit o bs.length then c.scramble o else c
  { c with lmem := Memory.write c.lmem o (bs.take (c.lmin - o)) }

def Core.fe (c : Core) (o : Nat) : Bool := !c.empties.contains (o / 8)
def Core.setFe (c : Core) (o : Nat) (full : Bool) : Core :=
  { c with empties := if full then c.empties.filter (· != o / 8) else if c.empties.contains (o / 8) then c.empties else o / 8 :: c.empties }

/-! ### Local memory as other agents see it while a stolen task runs (R18; log entry 74) -/

/-- The core's own byte at an offset that the sets of a stolen task cover while it runs. -/
def Core.aside? (c : Core) (o : Nat) : Option Byte :=
  if o < c.lmin then c.stash.findSome? fun e => if e.off ≤ o then e.bytes[o - e.off]? else none else none

/-- Replace a byte that is set aside. -/
def Stash.put (e : Stash) (o : Nat) (b : Byte) : Stash := { e with bytes := if e.off ≤ o then e.bytes.set (o - e.off) b else e.bytes }

/-- Bytes that another agent reads. -/
def Core.othersRead (c : Core) (o n : Nat) : List Byte :=
  if c.stash = [] then c.locRead o n else (upTo n).map fun i => (c.aside? (o + i)).getD (c.locByte (o + i))

/-- Bytes that another agent writes. -/
def Core.othersWrite (c : Core) (o : Nat) (bs : List Byte) : Core :=
  if c.stash = [] then c.locWrite o bs else
  (bs.zipIdx o).foldl (fun c x => if (c.aside? x.2).isSome then { c with stash := c.stash.map (·.put x.2 x.1) } else c.locWrite x.2 [x.1]) c

/-- Another agent sets the full/empty bit of a word. -/
def Core.othersFill (c : Core) (o : Nat) : Core :=
  if (c.aside? o).isSome then { c with stash := c.stash.map fun e => { e with empty := e.empty.filter (· != o / 8) } } else c.setFe o true

/-! ### Bytes of a place -/

/-- The space of a place, and the address in it. -/
def Place.key : Place → Nat × Nat × Nat
  | .own o => (0, 0, o)
  | .peer i o => (1, i, o)
  | .saved i o _ _ => (1, i, o)
  | .mem a _ => (2, 0, a)
  | .host a _ _ => (3, 0, a)
  | .far p _ a h _ => (if h then 5 else 4, p, a)
  | .farLoc p _ o => (6, p, o)
  | .ctl o => (7, 0, o)

/-- n bytes there now. -/
def State.bytesAt (s : State) (p : Place) (n : Nat) : List Byte :=
  match p with
  | .own o => s.core.locRead o n
  | .peer i o => match s.peers[i]? with | some c => c.othersRead o n | none => []
  | .saved i o a h =>
    let m := (match s.peers[i]? with | some c => c.lmin | none => 0) - o
    let bs := Memory.read (if h then s.hostMem else s.mem) a (Min.min n m) ++ List.replicate (n - m) 0
    match s.peers[i]? with
    | some c => if c.stash = [] then bs else (bs.zipIdx o).map fun x => (c.aside? x.2).getD x.1
    | none => bs
  | .mem a _ => Memory.read s.mem a n
  | .host a _ _ => Memory.read s.hostMem a n
  | _ => List.replicate n 0

/-- Write bytes into the record of a saved core, at offset o of its local memory and physical address a. -/
def State.putSaved (s : State) (i o a : Nat) (h : Bool) (bs : List Byte) : State :=
  let put (s : State) (a : Nat) (bs : List Byte) : State :=
    if h then { s with hostMem := Memory.write s.hostMem a bs } else { s with mem := Memory.write s.mem a bs }
  match s.peers[i]? with
  | none => s
  | some c =>
    let bs := bs.take (c.lmin - o)
    if c.stash = [] then put s a bs else
    bs.zipIdx.foldl (fun s x => if (c.aside? (o + x.2)).isSome then s.setPeer i (·.othersWrite (o + x.2) [x.1]) else put s (a + x.2) [x.1]) s

/-- Perform a store there (R226). -/
def State.putAt (s : State) (p : Place) (bs : List Byte) : State :=
  match p with
  | .own o => s.setCore (·.locWrite o bs)
  | .peer i o => s.setPeer i (·.othersWrite o bs)
  | .saved i o a h => s.putSaved i o a h bs
  | .mem a _ => { s with mem := Memory.write s.mem a bs }
  | .host a _ _ => { s with hostMem := Memory.write s.hostMem a bs }
  | _ => s

/-- A byte of the full/empty bits: bit w for word w. -/
def Core.feByte (c : Core) (i : Nat) : Byte :=
  BitVec.ofNat 8 ((upTo 8).foldl (fun a b => a + if c.empties.contains (8 * i + b) then 0 else 2 ^ b) 0)

/-- The full/empty bits around offset o in the record of a saved core c (R384). -/
def State.recFe (s : State) (c : Core) (o : Nat) : State :=
  match s.recPlace c (0x2000 + o / 64) with
  | some p => s.putAt p [c.feByte (o / 64)]
  | none => s

/-- Set the full/empty bit of a word of another core; that of a saved one in its record too (R77, R385). -/
def State.fillPeer (s : State) (i o : Nat) : State :=
  let s := s.setPeer i (·.othersFill o)
  match s.peers[i]? with
  | some c => if c.st = .saved then s.recFe c o else s
  | none => s

/-- The same of the current core, which may be the one that is being looked at while it is saved. -/
def State.fillOwn (s : State) (o : Nat) : State :=
  let s := s.setCore (·.setFe o true)
  if s.core.st = .saved then s.recFe s.core o else s

/-- Set the full/empty bit of the word there (R194). -/
def State.setFull (s : State) (p : Place) : State :=
  match p with
  | .own o => s.fillOwn o
  | .peer i o => s.fillPeer i o
  | .saved i o _ _ => s.fillPeer i o
  | _ => s

/-- Put bytes into the current core's local memory, or into its record while it is saved (R77). -/
def State.putOwn (s : State) (o : Nat) (bs : List Byte) : State :=
  match (if s.core.st = .saved then s.recPlace s.core (0x20000 + o) else none) with
  | some p => s.putAt p (bs.take (s.core.lmin - o))
  | none => s.putAt (.own o) bs

/-- Die-scope locations of the current core's die (R233); local memory of a saved core counts as that of the core it was saved from (log entry 80). -/
def State.dieScope (s : State) (p : Place) : Bool :=
  match p with
  | .own _ => true
  | .peer i _ | .saved i _ _ _ => match s.peers[i]? with | some c => pcDie c.pcid == pcDie s.core.pcid | none => false
  | .mem a m => m == 0 && paDie a == pcDie s.core.pcid
  | _ => false

/-- Is the place on this module, so that the model holds its bytes. -/
def Place.here : Place → Bool
  | .far _ _ _ _ _ => false
  | .farLoc _ _ _ => false
  | _ => true

/-- A tag for a request to another module (R78); those from 0xF00 on mark what an episode sends (R339). -/
def State.newTag (s : State) : Nat × State := (s.nextTag % 0xF00, { s with nextTag := (s.nextTag + 1) % 0xF00 })

/-- The line of 64 bytes around an address. -/
def lineOf (a : Nat) : Nat := a / 64 * 64

/-- The line holds some of n bytes from the place with this key on. -/
def L1Line.covers (l : L1Line) (k : Nat × Nat × Nat) (n : Nat) : Bool :=
  l.space == (k.1, k.2.1) && decide (l.pa < k.2.2 + n) && decide (k.2.2 < l.pa + 64)

/-- Write the core's own store through to its L1 copy (R188). -/
def L1Line.patch (l : L1Line) (k : Nat × Nat × Nat) (bs : List Byte) : L1Line :=
  if l.covers k bs.length then
    { l with bytes := l.bytes.zipIdx.map fun b => (if k.2.2 ≤ l.pa + b.2 then bs[l.pa + b.2 - k.2.2]? else none).getD b.1 }
  else l

/-- Write a store of the current core through to its L1 copy of memory of this module or of the host. -/
def State.patchL1 (s : State) (p : Place) (bs : List Byte) : State :=
  match p with
  | .mem _ _ | .host _ _ _ => s.setCore fun c => { c with l1 := c.l1.map (·.patch p.key bs) }
  | _ => s

/-- The core's L1 holds no copy of n bytes from a place on (R228), and a line that a load of it still waits for will not be held. -/
def Core.dropL1 (c : Core) (p : Place) (n : Nat) : Core :=
  let hit (f : Far) : Bool := f.line && L1Line.covers ⟨(f.key.1, f.key.2.1), f.key.2.2, []⟩ p.key n
  { c with l1 := c.l1.filter fun l => !l.covers p.key n, far := c.far.map fun f => { f with stale := f.stale || hit f } }

/-- Perform a posted store of the current core that stays on this module (R238), where its place is now. -/
def State.perform (s : State) (e : Posted) : State :=
  let p := s.nowAt e.va e.place
  let s := match p with
    | .own o => s.putOwn o e.bytes
    | _ => (s.putAt p e.bytes).patchL1 p e.bytes
  if e.full then s.setFull p else s

/-- Send a store to another module; its answer is awaited. -/
def State.sendPosted (s : State) (e : Posted) : State :=
  { s.emit (.write e.tag e.place e.bytes e.full) with reqs := s.reqs ++ [⟨e.tag, s.core.queue, s.core.lcn.toNat, .posted, e.place, e.bytes.length⟩] }

/-- The posted store may be performed or sent now, behind the earlier ones that are not: STFL comes after every earlier access (R241), a die-scope store
after every earlier die-scope store (R234), a store to its word after every earlier one to it (R228). -/
def State.mayGo (s : State) (before : List Posted) (e : Posted) : Bool :=
  if e.full then before.isEmpty else
  !(before.any (·.full)) && !(s.dieScope (s.nowAt e.va e.place) && before.any fun b => s.dieScope (s.nowAt b.va b.place))

/-- Perform, or send, the posted stores in order that may go and that `p` selects, and keep the others. -/
def State.drainFrom (s : State) (p : Posted → Bool) (kept : List Posted) : List Posted → List Posted × State
  | [] => (kept, s)
  | e :: es =>
    if !p e || e.sent || !s.mayGo kept e then State.drainFrom s p (kept ++ [e]) es
    else if e.place.here then State.drainFrom (s.perform e) p kept es
    else State.drainFrom (s.sendPosted e) p (kept ++ [{ e with sent := true }]) es

/-- Perform, in order, the posted stores that `p` selects, and keep the rest; stores to other modules await their acknowledgement. -/
def State.drain (s : State) (p : Posted → Bool) : State :=
  let (kept, t) := State.drainFrom s p [] s.core.posted
  t.setCore fun c => { c with posted := kept }

/-- The posted store holds the byte at offset k of space (a, b). -/
def Posted.byte? (e : Posted) (k : Nat × Nat × Nat) : Option Byte :=
  let (a, b, o) := e.place.key
  if a = k.1 ∧ b = k.2.1 ∧ o ≤ k.2.2 then e.bytes[k.2.2 - o]? else none

/-- Bytes under the core's own posted stores, which forward to its loads (R229). -/
def forward (ps : List Posted) (k : Nat × Nat × Nat) : List Byte → List Byte
  | [] => []
  | b :: bs =>
    (ps.foldl (fun x e => (e.byte? k).getD x) b) :: forward ps (k.1, k.2.1, k.2.2 + 1) bs

/-- The core's posted stores, each where its place is now. -/
def State.buffered (s : State) : List Posted := s.core.posted.map fun e => { e with place := s.nowAt e.va e.place }

/-- The L1 of the current core holds lines of the place as far lines: mode 00 of other dies, and mode 10 (R187, R233). -/
def State.l1Holds (s : State) (p : Place) : Bool :=
  match p with
  | .mem a m => m == 2 || (m == 0 && paDie a != pcDie s.core.pcid)
  | .host _ m _ => m == 2
  | .far _ _ _ _ m => m == 2
  | _ => false

/-- The line of 64 bytes that holds the first byte of a place. -/
def Place.line : Place → Place
  | .mem a m => .mem (lineOf a) m
  | .host a m k => .host (lineOf a) m k
  | .far k i a h m => .far k i (lineOf a) h m
  | p => p

/-- n bytes of a line that the L1 holds. -/
def Core.l1Find (c : Core) (p : Place) (n : Nat) : Option (List Byte) :=
  let (a, b, o) := p.key
  (c.l1.find? fun l => l.space == (a, b) && l.pa == lineOf o).map fun l => (l.bytes.drop (o - l.pa)).take n

/-- Hold the line of a place: 256 lines, the oldest replaced (log entry 10). -/
def Core.l1Keep (c : Core) (k : Nat × Nat × Nat) (bs : List Byte) : Core := { c with l1 := (⟨(k.1, k.2.1), lineOf k.2.2, bs⟩ :: c.l1).take 256 }

/-- The word at e is among n bytes from the place on. -/
def State.errAt (s : State) (p : Place) (n : Nat) (e : ErrLoc) : Bool :=
  let hit (w a : Nat) : Bool := decide (w / 8 * 8 < a + n) && decide (a < w / 8 * 8 + 8)
  match e, p with
  | .mem _ w, .mem a _ => hit w a
  | .mem _ w, .saved _ _ a false => hit w a
  | .loc k w, .own o => k == s.core.pcid && hit w o
  | .loc k w, .peer i o => (match s.peers[i]? with | some c => c.pcid == k | none => false) && hit w o
  | _, _ => false

/-- An uncorrectable word under the bytes (R398, R401): the machine check of whoever consumes them. -/
def State.badAt (s : State) (p : Place) (n : Nat) : Option (Byte × W64) := (s.bad.find? (s.errAt p n)).map (errFault · s.core.pcid)

/-- The read of n bytes corrects the words among them that can be (R399). -/
def State.fixAt (s : State) (p : Place) (n : Nat) : State := s.correct (s.errAt p n)

/-- Load bytes of this module or its host as the current core sees them: a far line that its L1 holds is read there, and one that it may hold is held from
then on (R233), unless a word of it cannot be corrected, which is never forwarded (R401). -/
def State.loadHere (s : State) (p : Place) (n : Nat) : Except (Byte × W64) (List Byte × State) :=
  match (if s.l1Holds p then s.core.l1Find p n else none) with
  | some bs => .ok (bs, s)
  | none =>
    match s.badAt p n with
    | some f => .error f
    | none =>
      let s := s.fixAt p n
      .ok (s.bytesAt p n, if s.l1Holds p && (s.badAt p.line 64).isNone then s.setCore (·.l1Keep p.key (s.bytesAt p.line 64)) else s)

/-- The buffer has room for a store, or makes it by performing its oldest one that may go (R234). -/
def State.makeRoom (s : State) : State :=
  if s.core.posted.length < 16 then s else
  let may (e : Posted) : Bool := e.place.here && s.mayGo (s.core.posted.takeWhile (· != e)) e
  match s.core.posted.find? may with
  | some e => s.drain (· == e)
  | none => s

/-- Post a store to paged space or another core's window (R208, R234) in a buffer that has room: a store to another module is sent at once, unless it is
STFL, and stays until it is acknowledged. -/
def State.post (s : State) (p : Place) (bs : List Byte) (full : Bool) (va : W64) : State :=
  let (tag, s) := s.makeRoom.newTag
  let go := !p.here && !full && !s.core.posted.any (·.full)
  let e : Posted := ⟨p, bs, full, tag, va, go⟩
  let s := s.setCore fun c => { c with posted := c.posted ++ [e] }
  if go then s.sendPosted e else s

/-- A store to the core's own local memory lies in the buffer still, behind an STFL: it is performed before work is handed to another agent (R231). -/
def Core.ownPosted (c : Core) : Bool := c.posted.any fun e => match e.place with | .own _ => true | _ => false

/-- Every earlier store is performed (or awaits an acknowledgement of another module). -/
def State.drainAll (s : State) : State := s.drain fun _ => true

/-- Perform, or send, the oldest posted store that may go; the core may do so at any time (R234, R238). -/
def State.drain1 (s : State) : State :=
  let may (e : Posted) : Bool := !e.sent && s.mayGo (s.core.posted.takeWhile (· != e)) e
  match s.core.posted.find? may with
  | some e => s.drain (· == e)
  | none => s

/-- Record a failed posted store in FSTAT (R238). -/
def fstatFail (f : W64) (rsn pkg : Nat) : W64 :=
  let n := satInc (bf f 32 16) 65535
  if bit f 63 then w64 (bf f 48 16 * 2 ^ 48 + n * 2 ^ 32) else w64 (2 ^ 63 + rsn * 2 ^ 60 + pkg % 4096 * 2 ^ 48 + n * 2 ^ 32)

/-- Drop the far lines of the L1 (R236). -/
def State.acquire (s : State) : State := s.setCore fun c => { c with l1 := [] }

/-- Drop the far lines whose home lies on this module (R239, scope module). -/
def State.acquireHere (s : State) : State := s.setCore fun c => { c with l1 := c.l1.filter (·.space != (2, 0)) }

/-- The next free value: the counter to which it is applied advances (log entry 7). -/
def State.freshTick (s : State) : Nat × State := (s.tick, { s with tick := s.tick + 1 })

end Sys2Proof.Machine
end

