-- ==== Sys2Proof/Machine/Issue.lean ====
section
/-!
DEFINITION. From the program counter to an instruction: fetch (R131) and ganged fetch (R132), the stagger of repeat frames (R166), what
a frame may hold (R167), what ends a shadow (R117), and the issue conditions (R164).
-/
namespace Sys2Proof.Machine

/-! ### Fetch -/

/-- The sealed object whose bounds hold the PC (R131): the one whose bounds the fetch unit has, or any object of the context when it takes
them afresh. -/
def State.objAt (s : State) : Option CodeObj :=
  let c := s.core
  (s.ctx (s.ctxOf c)).objs.find? fun o =>
    (c.obj == none || c.obj == some o.id) && decide (o.id ≤ c.pc.toNat) && decide (c.pc.toNat < o.id + 4 * o.n)

/-- The word at the PC, or `none` where the fetch faults (R131; log entry 90 on its translation). -/
def State.wordAt (s : State) : Option (W32 × CodeObj) :=
  match s.objAt with
  | some o => (o.words[(s.core.pc.toNat - o.id) / 4]?).map fun w => (w, o)
  | none => none

/-- What a fetch gives: a word, a wait of a follower for a forwarded one, or a fault. -/
inductive Fetched where
  | word (w : W32) (s : State)
  | wait (s : State)
  | fault (s : State)

/-- A leader forwards the word it has fetched to its followers; a full buffer detaches its follower (R132). -/
def State.forwardWord (s : State) (w : W32) : State :=
  if gangRole s.core.gangst = 1 then
    let me := s.core.pcid % 4
    let mine (c : Core) : Bool := pcStable c.pcid == pcStable s.core.pcid && c.queue == s.core.queue && c.follows me
    let upd (c : Core) : Core :=
      if mine c then (if 8 ≤ c.fwd.length then c.detach 2 else { c with fwd := c.fwd ++ [(s.core.pc, w)] }) else c
    let lost := s.peers.filter fun c => mine c && decide (8 ≤ c.fwd.length)
    { s with peers := s.peers.map upd, core := lost.foldl (fun k c => k.unlead (c.pcid % 4)) s.core }
  else s

/-- The leaf that maps a page of the code heap: X = 1, R = 0, W = 0 (R53). No access reads its FRAME. -/
def heapLeaf : W64 := 0x25

/-- The fetch of a word of the heap goes through the micro-TLB, which a yard-TLB entry fills (R201); the hub maps the heap, so no walk of it faults (R53). -/
def State.fetchTlb (s : State) : State :=
  let c := s.core
  let n := s.ctxOf c
  let va := c.pc.toNat
  if !(s.ctx n).inHeap va || c.utlb.any (TlbE.hit · n va) then s else
  let e : TlbE := ⟨n, va / 2 ^ 17 * 2 ^ 17, false, heapLeaf, 0⟩
  let s := if (s.yard (pcYard c.pcid)).tlb.any (TlbE.hit · n va) then s else s.setYard (pcYard c.pcid) fun t => { t with tlb := (e :: t.tlb).take 2048 }
  s.setCore fun c => { c with utlb := (e :: c.utlb).take 32 }

/-- Fetch from the core's own PC. -/
def State.fetchAlone (s : State) : Fetched :=
  match s.wordAt with
  | none => .fault s
  | some (w, o) => .word w ((s.fetchTlb.setCore fun c => { c with obj := some o.id, latch := some w }).forwardWord w)

/-- Fetch: a follower takes the oldest forwarded word when its address is the PC, and detaches on another address; after GANG it waits for a match for at
most 256 cycles (R132, R171). Where its own fetch would fault, it faults (R21, R131). DESIGN CHOICE on an empty buffer: log entry 43. -/
def State.fetch (s : State) : Fetched :=
  match s.core.latch with
  | some w => .word w s
  | none =>
    if gangRole s.core.gangst ≠ 2 then s.fetchAlone else
    match s.core.fwd with
    | (a, w) :: r =>
      if a = s.core.pc then
        match s.wordAt with
        | some (_, o) => .word w (s.setCore fun c => { c with fwd := r, gangWait := none, latch := some w, obj := some o.id })
        | none => .fault s
      else if s.core.gangWait.isSome then .wait (s.setCore fun c => { c with fwd := r })
      else (s.gangLeave 1).fetchAlone
    | [] =>
      match s.core.gangWait with
      | some n => if 256 ≤ n then (s.gangLeave 6).fetchAlone else .wait (s.setCore fun c => { c with gangWait := some (n + 1) })
      | none => .wait s

/-! ### Repeat frames -/

/-- The stride that a code selects (R165). -/
def stride (code : Nat) : Nat := match code with | 0 => 0 | 1 => 1 | 2 => 2 | _ => 4

/-- STAG of a scalar field (R166). -/
def stagS (f : SReg) (i code : Nat) : SReg := if f = 0#5 then f else f + BitVec.ofNat 5 (i * stride code)

/-- STAG of a handle field (R166). -/
def stagK (f : KReg) (i code : Nat) : KReg := f + BitVec.ofNat 4 (i * stride code)

/-- A word that a frame may hold (R167). -/
def inFrame (w : W32) : Bool :=
  let op := (fop w).toNat
  (1 ≤ op && op ≤ 10) || op == 24 || op == 36 || op == 37 || (op == 38 && decide ((ffn5 w).toNat ≤ 5)) || op == 63

/-- Replace a field of a word. -/
def setField {n : Nat} (w : W32) (lo : Nat) (v : BitVec n) : W32 :=
  (w &&& ~~~(((BitVec.allOnes n).setWidth 32 : W32) <<< lo)) ||| ((v.setWidth 32 : W32) <<< lo)

/-- The instruction of the word uses the field: it may hold another value there (R129). -/
def usesField {n : Nat} (w : W32) (lo : Nat) (_ : BitVec n) : Bool := (decode (setField w lo (BitVec.allOnes n))).isOk

/-- Advance a field that the instruction uses (R166). -/
def advField {n : Nat} (w0 : W32) (lo : Nat) (v : BitVec n) (w : W32) : W32 := if usesField w0 lo v then setField w lo v else w

/-- The word with the register fields that its instruction uses advanced (R166). -/
def Frame.stagger (f : Frame) (w : W32) : W32 :=
  let op := (fop w).toNat
  let sd := f.str.toNat / 16
  let sa := f.str.toNat / 4 % 4
  let sb := f.str.toNat % 4
  let i := f.iter
  let d (x : W32) := advField w 21 (stagS (fd w) i sd) x
  let a (x : W32) := advField w 16 (stagS (fa w) i sa) x
  let kd (x : W32) := advField w 22 (stagK (fkd w) i sd) x
  let ka (x : W32) := advField w 18 (stagK (fka w) i sa) x
  if op = 1 ∨ op = 24 then d (a (advField w 11 (stagS (fb w) i sb) w))
  else if 2 ≤ op ∧ op ≤ 10 then d (a w)
  else if op = 36 then kd (ka (advField w 14 (stagK (fkb w) i sb) w))
  else if op = 37 then kd (ka w)
  else if op = 38 then kd (ka (advField w 13 (stagS (fs w) i sb) w))
  else w

/-! ### What MOD may precede (R126) -/

/-- A word that MOD may precede (R126). -/
def modTarget (w : W32) : Bool :=
  let op := (fop w).toNat
  (op == 1 && decide ((ffn w).toNat ≤ 18)) || (op == 24 && decide ((ffn w).toNat ≤ 7)) || (op == 36 && decide ((ffn6 w).toNat ≤ 14))
    || (op == 38 && decide ((ffn5 w).toNat ≤ 5)) || (op == 40 && ((ffn6 w).toNat == 2 || (ffn6 w).toNat == 4))

/-- A target without a b operand: FSQRT and HSTAR (R126). -/
def oneOperand (w : W32) : Bool := ((fop w).toNat == 24 && (ffn w).toNat == 4) || ((fop w).toNat == 40 && (ffn6 w).toNat == 2)

/-- The next word in sequence, when it lies in the same object. -/
def State.nextWord (s : State) : Option W32 := ((s.setCore fun c => { c with pc := c.pc + 4#64 }).wordAt).map (·.1)

/-- The next word is no target of the MOD prefix i (R126). -/
def State.modMisuse (s : State) (i : Instr) : Bool :=
  match i with
  | .mod _ _ _ _ b m _ _ => (match s.nextWord with | some w => !modTarget w || ((b == 1#1 || m == 1#1) && oneOperand w) | none => false)
  | _ => false

/-! ### Shadows and issue -/

/-- A word of a long-latency instruction (R116). -/
def isLong (w : W32) : Bool :=
  let op := (fop w).toNat
  op == 24 || op == 25 || op == 26 || op == 27 || op == 28 || op == 32 || op == 33 || (35 ≤ op && op ≤ 42)
    || (op == 1 && decide (18 ≤ (ffn w).toNat) && decide ((ffn w).toNat ≤ 24))

/-- A word that ends an open shadow (R117). -/
def endsShadow (w : W32) : Bool :=
  let op := (fop w).toNat
  isLong w || (12 ≤ op && op ≤ 23) || op == 62

/-- A cochain word whose guard is false (R115): it completes at issue, as one position of a shadow. -/
def Core.guardOff (c : Core) (w : W32) : Bool :=
  let op := (fop w).toNat
  36 ≤ op && op ≤ 40 && !c.rp (fpg w)

/-- The scalar registers that a word may name, for the check of pending writes; a field that is no register only makes the check wait
longer. -/
def hazS (w : W32) : List SReg :=
  let op := (fop w).toNat
  if op = 19 ∨ op = 22 ∨ op = 62 ∨ op = 63 ∨ op = 36 ∨ op = 37 ∨ op = 40 then []
  else if op = 20 then [1#5]
  else if op = 38 ∨ op = 39 then [fs w, fs w + 1#5]
  else if op = 26 ∧ (fkind w).toNat = 4 then
    [fa w, fd w, fd w + 1#5, fd w + 2#5, fd w + 3#5, fd w + 4#5, fd w + 5#5, fd w + 6#5, fd w + 7#5]
  else [fd w, fd w + 1#5, fd w + 2#5, fa w, fa w + 1#5, fa w + 2#5, fa w + 3#5, fb w]

/-- The handles that a word may name. -/
def hazK (w : W32) : List KReg :=
  let op := (fop w).toNat
  if op = 36 ∨ op = 40 then [fkd w, fka w, fkb w] else if op = 37 ∨ op = 38 ∨ op = 39 then [fkd w, fka w] else []

/-- The scalar registers that a queued cochain instruction has still to write. -/
def CochEntry.pendS (e : CochEntry) : List SReg :=
  match e.instr with
  | .vgete _ s _ _ | .vmaxr _ s _ _ | .vminr _ s _ _ | .kget _ s _ _ => [s ++ 0#1, s ++ 1#1]
  | .vsum _ s _ _ | .vdot _ _ s _ _ | .cmpr48 _ _ s _ _ | .kst _ s _ _ => [s]
  | _ => []

/-- The handles whose flags or fields it has still to write (R46): its destination, or its source where it has none. -/
def CochEntry.pendK (e : CochEntry) : List KReg :=
  match e.instr with
  | .vgete a _ _ _ | .vmaxr a _ _ _ | .vminr a _ _ _ | .vsum a _ _ _ | .vdot _ a _ _ _ | .kst a _ _ _ => [a]
  | .kget _ _ _ _ => []
  | i => [fkd (encode i)]

/-- The entry is L of the open shadow (R117). -/
def Core.ownShadow (c : Core) (e : CochEntry) : Bool :=
  match c.shadow with
  | some sh => sh.ticket == some e.seq
  | none => false

/-- An earlier cochain instruction outside whose shadow the next word lies may still take the overflow trap of R104: nothing issues (R164, R262). -/
def Core.pointPending (c : Core) : Bool := c.cq.any fun e => !c.ownShadow e && bit e.vrm 2

/-- A word may not issue yet (R164): a register it names has a write pending from an earlier cochain instruction outside its shadow; or it reaches memory,
the tiles, a unit or SRBASE after cochain instructions that are still queued (R231, R264, R267). -/
def Core.blocked (c : Core) (w : W32) : Bool :=
  let op := (fop w).toNat
  let regs := (match c.modp with | some m => if m.clamp then [m.c, m.c + 1#5] else [] | none => []) ++ hazS w
  let ks := hazK w
  c.cq.any fun e =>
    !c.ownShadow e && (e.pendS.any (regs.contains ·) || e.pendK.any (ks.contains ·)
      || (25 ≤ op && op ≤ 28) || op == 30 || op == 35 || op == 41 || op == 42 || (e.adv != 0 && (op == 24 || (36 ≤ op && op ≤ 40))))

/-- What issue gives: an instruction to execute, a word that decoding refuses, a fetch fault, a step already done (a wait, a skipped
position, a trap before any effect), or nothing: a condition of R164 that is no wait of R5 does not hold yet. -/
inductive Issued where
  | run (i : Instr) (s : State)
  | illegal (w : W32) (s : State)
  | noWord (s : State)
  | done (s : State)
  | stall (s : State)

/-- Skip a position that SHDONE marks as done (R121): it advances the frame as if it had run (R169). -/
def State.skipPosition (s : State) (sh : Shadow) : State :=
  (s.setCore fun c => { ({ c with st := .running, latch := none } : Core).step4 with shadow := some { sh with pos := sh.pos + 1 } }).shadowOver

/-- The next position of the open shadow is marked as done. -/
def Shadow.skips (sh : Shadow) : Bool := sh.done.getLsbD sh.pos && decide (sh.pos < sh.len)

/-- The scalar fields of a word that its instruction reads or writes, for the ports that they name. -/
def portFields (w : W32) : List SReg :=
  let op := (fop w).toNat
  let d := if usesField w 21 (fd w) then [fd w] else []
  let a := if usesField w 16 (fa w) then [fa w] else []
  let b := if usesField w 11 (fb w) then [fb w] else []
  if op = 38 ∨ op = 39 then (if usesField w 13 (fs w) then [fs w, fs w + 1#5] else [])
  else if op = 36 ∨ op = 37 ∨ op = 40 ∨ op = 62 ∨ op = 63 then []
  else if 2 ≤ op ∧ op ≤ 10 then d ++ a
  else if op = 29 ∨ op = 30 then (d ++ a).flatMap (fun r => [r, r + 1#5, r + 2#5]) ++ b
  else d ++ a ++ b

/-- The word touches a port that the waiting L of the open shadow names: it issues once L is past its trap point (R214; log entry 79). -/
def Core.portHeld (c : Core) (w : W32) : Bool :=
  match c.shadow.bind (·.retry) with
  | some t => t.ports.any fun n => (portFields w).any fun r => r.toNat == 24 + n.val
  | none => false

/-- No further word may issue into the open shadow: one of its instructions waits with a trap for L (R122), or its positions are used up while L is short
of its trap point (R119). -/
def Core.shut (c : Core) : Bool :=
  match c.shadow with
  | some sh => sh.trap.isSome || (sh.retry.isSome && decide (sh.len ≤ sh.pos))
  | none => false

/-- A word that ends the shadow arrives (R117): L's shadow has the positions passed so far, and is over unless L is short of its trap point. -/
def State.cutShadow (s : State) : State :=
  match s.core.shadow with
  | some sh => (s.setCore fun c => { c with shadow := some { sh with len := sh.pos } }).shadowOver
  | none => s

/-- A core that cannot issue because its L is in its local wait, with the positions of the shadow used up, is waiting (R5, R164). -/
def State.starve (s : State) : State := if s.core.retrying && s.core.shut then s.wait else s

/-- The word w0 at the PC goes to issue. -/
def State.issueWord (s : State) (w0 : W32) : Issued :=
  match decode w0 with
  | .error _ => .illegal w0 s
  | .ok i0 =>
    if s.core.frame.isSome && !inFrame w0 && !s.modMisuse i0 then .done (s.trap 0x11#8 (w0.setWidth 64)) else
    let w := match s.core.frame with
      | some f => f.stagger w0
      | none => w0
    match decode w with
    | .error _ => .illegal w s
    | .ok i =>
      let off := s.core.guardOff w
      let s1 := if s.core.shadow.isSome && endsShadow w && !off then s.cutShadow else s
      if s1.core.st = .trapped then .done s1
      else if s1.core.shut || s1.core.pointPending || (s1.core.blocked w && !off) || s1.core.portHeld w then .stall s1.starve
      else .run i s1

/-- The next instruction of the current core (R164). -/
def State.issue (s : State) : Issued :=
  if s.core.shut || s.core.pointPending then .stall s.starve else
  match s.core.owedHere with
  | some v => if s.core.owedNow then .done (s.takeOwed v) else .stall s
  | none =>
    match s.fetch with
    | .wait s => .done s.wait
    | .fault s => .noWord s
    | .word w s =>
      match s.core.shadow with
      | some sh => if sh.skips then .done (s.skipPosition sh) else s.issueWord w
      | none => s.issueWord w

/-- The L that waits with its shadow open (R119), and the state in which it tries again; nothing while another module has not answered it. -/
def State.retryL (s : State) : Option (Instr × State) :=
  match s.core.shadow with
  | some sh =>
    match sh.retry with
    | some t =>
      match decode t.word with
      | .ok i => if s.core.awaits then none else some (i, s.retryState sh t)
      | .error _ => none
    | none => none
  | none => none

/-! ### The two steps that a fetch itself can end in -/

/-- R129: the word is refused at decode, with its reason. -/
def execIllegalInstruction (w : W32) (s : State) : Out := .next <|
  match decode w with
  | .error r => s.trap 0x01#8 (w64 (w.toNat + r.toNat * 2 ^ 32))
  | .ok _ => s

/-- R131: the PC lies in no sealed object, or past the bounds of its object. -/
def execFetchFault (s : State) : Out := .next <|
  match s.wordAt with
  | none => s.trap 0x03#8 s.core.pc
  | some _ => s

end Sys2Proof.Machine
end

