-- ==== Sys2Proof/Machine/Prefix.lean ====
section
/-!
DEFINITION. The MOD prefix (R125 to R127).
-/
namespace Sys2Proof.Machine

/-- R125: the prefix is armed for the next word; a target outside the list of R126 is the MOD's own misuse (R129, reason 0x05), and a
target that cannot be fetched faults when it is fetched (R127). -/
def execMod (t k a n b m : BitVec 1) (e : BitVec 6) (r : BitVec 5) (s : State) : Out := .next <|
  let on (x : BitVec 1) : Bool := x == 1#1
  if s.modMisuse (.mod t k a n b m e r) then s.trap 0x01#8 (w64 ((encode (.mod t k a n b m e r)).toNat + 5 * 2 ^ 32)) else
  s.setCore fun c =>
    ({ c with st := .running, latch := none, modp := some ⟨c.pc, on t, on k, on a, on n, on b, on m, e, r⟩ } : Core).step4

end Sys2Proof.Machine
end

