-- ==== Sys2Proof/Machine/Stream.lean ====
section
/-!
DEFINITION. The stream transfer unit and the ports (R211 to R217), and how an engine of a core reaches memory.
-/
namespace Sys2Proof.Machine

/-! ### Engine accesses: refused in the control page and at or above a declared minimum (R27, R196, R200) -/

/-- Bytes of local memory that the owner of a place grants. -/
def State.limit (s : State) (p : Place) : Option (Nat × Nat) :=
  match p with
  | .own o => some (o, s.core.lmin)
  | .peer i o => some (o, match s.peers[i]? with | some c => c.lmin | none => 0)
  | .saved i o _ _ => some (o, match s.peers[i]? with | some c => c.lmin | none => 0)
  | .farLoc _ _ o => some (o, s.core.lmin)
  | _ => none

/-- Translate an engine's access of n bytes: where it goes, or the fault it takes. -/
def State.engine (s : State) (a : Acc) (va : W64) (n : Nat) : Except (Byte × W64) (Place × State) :=
  match s.xlat false a va with
  | .error r => .error (xFault a va r)
  | .ok (.ctl _, _) => .error (xFault a va 6)
  | .ok (p, s) =>
    match s.limit p with
    | some (o, m) => if m < o + n then .error (xFault a va 6) else .ok (p, s)
    | none => .ok (p, s)

/-- Read n bytes for an engine from this module; `none` in the answer says another module must be asked. -/
def State.engineRead (s : State) (va : W64) (n : Nat) : Except (Byte × W64) (Option (List Byte) × Place × State) :=
  match s.engine .load va n with
  | .error e => .error e
  | .ok (p, s) =>
    match s.badAt p n with
    | some e => .error e
    | none => .ok (if p.here then some (s.bytesAt p n) else none, p, s.fixAt p n)

/-- A peer module answers a request with this incarnation by a NACK (R86, R87), as far as the module-state table tells. -/
def State.nacks (s : State) (pkg inc : Nat) : Bool := (s.module pkg).2 || (s.module pkg).1.toNat != inc

/-- The package and the incarnation that an access to another module names. -/
def Place.peerKey : Place → Nat × Nat
  | .far k i _ _ _ => (k, i)
  | .farLoc k i _ => (pcPkg k, i)
  | _ => (0, 0)

/-- Read n bytes for a unit of the module at once; what another module's memory holds is a free value (log entry 11). -/
def State.unitRead (s : State) (va : W64) (n : Nat) : Except (Byte × W64) (List Byte × State) :=
  match s.engineRead va n with
  | .error e => .error e
  | .ok (some bs, _, s) => .ok (bs, s)
  | .ok (none, p, s) =>
    if s.nacks p.peerKey.1 p.peerKey.2 then .error (xFault .load va 7) else
    let (t, s) := s.freshTick
    .ok ((upTo n).map fun i => (Config.freeBits t (va.toNat + i)).setWidth 8, s)

/-- The output in which a write leaves for another module: copy data (KIND 8) where a word's full/empty bit is set with it (R252). -/
def writeOut (t : Nat) (p : Place) (bs : List Byte) (full : Bool) : Out1 :=
  match p with
  | .farLoc pc _ o => if full then .copy t pc (o / 8 * 8) (w64 (ofBytes bs * 2 ^ (8 * (o % 8)))) (BitVec.ofNat 8 ((2 ^ bs.length - 1) * 2 ^ (o % 8))) else .write t p bs full
  | _ => .write t p bs full

/-- A place of another module as the hub's module-state table knows the module: a copy takes INC from there (R86). -/
def State.hubInc (s : State) (p : Place) : Place :=
  match p with
  | .far k _ a h m => .far k (s.module k).1.toNat a h m
  | p => p

/-- Write bytes for a unit of the module: performed here, or sent, for `u`, to the module that holds them, whose answer is awaited. -/
def State.unitSend (s : State) (u : ReqUse) (va : W64) (bs : List Byte) (full : Bool) : Except (Byte × W64) State :=
  match s.engine .store va bs.length with
  | .error e => .error e
  | .ok (p, s) =>
    if p.here then
      let s := s.putAt p bs
      let s := match u with | .unit _ => s.patchL1 p bs | _ => s
      .ok (if full then s.setFull p else s)
    else
    let p := match u with | .copy _ _ _ _ _ => s.hubInc p | _ => p
    if s.nacks p.peerKey.1 p.peerKey.2 then .error (xFault .store va 7) else
    let (t, s) := (match u with | .copy _ _ _ _ _ => s.counted p va | _ => s).newTag
    .ok { s.emit (writeOut t p bs full) with reqs := s.reqs ++ [⟨t, s.core.queue, s.core.lcn.toNat, u, p, bs.length⟩] }

/-- The same for an instruction that writes memory itself. -/
def State.unitWrite (s : State) (va : W64) (bs : List Byte) (full : Bool) : Except (Byte × W64) State := s.unitSend (.unit va) va bs full

/-! ### Reads of an engine that another module answers (R86, R87, R427) -/

/-- Not a fault: the engine has to ask another module for the doubleword at va first. The list of causes (R373) has no 0x00. -/
def askMark (va : W64) : Byte × W64 := (0x00#8, va)

/-- The mark that the engine has still to ask another module. -/
def isAsk (f : Byte × W64) : Bool := f.1 == 0x00#8

/-- What the engine `eng` of the current core has of the doubleword at va. -/
def Core.eread (c : Core) (eng va : Nat) : Option ERead := c.erd.find? fun e => e.eng == eng && e.va == va / 8 * 8

/-- Read n bytes that lie in one doubleword for engine `eng`: those of this module, or those that another module has answered with. -/
def State.engRead (s : State) (eng : Nat) (va : W64) (n : Nat) : Except (Byte × W64) (List Byte × State) :=
  match s.engineRead va n with
  | .error e => .error e
  | .ok (some bs, _, s) => .ok (bs, s)
  | .ok (none, p, s) =>
    let p := if eng = 1 then s.hubInc p else p
    match s.core.eread eng va.toNat with
    | some ⟨_, _, _, some bs, _⟩ => .ok ((bs.drop (va.toNat % 8)).take n, s)
    | some ⟨_, _, _, none, some k⟩ => .error (xFault .load va k)
    | some ⟨_, _, _, none, none⟩ => .error (askMark va)
    | none => if s.nacks p.peerKey.1 p.peerKey.2 then .error (xFault .load va 7) else .error (askMark va)

/-- Send the request for a doubleword that engine `eng` still needs, once; those of the copy engine (1) count at the page (R203; log entry 85). -/
def State.engAsk (s : State) (eng : Nat) (va : W64) : State :=
  let v := va.toNat / 8 * 8
  if (s.core.eread eng v).isSome then s else
  match s.engine .load (w64 v) 8 with
  | .ok (p, s) =>
    if p.here then s else
    let p := if eng = 1 then s.hubInc p else p
    let (t, s) := (if eng = 1 then s.counted p va else s).newTag
    { (s.emit (.read t p 8)).setCore fun c => { c with erd := c.erd ++ [⟨eng, v, t, none, none⟩] } with
      reqs := s.reqs ++ [⟨t, s.core.queue, s.core.lcn.toNat, .engine eng va, p, 8⟩] }
  | .error _ => s

/-- The engine is done with what it has read. -/
def Core.edrop (c : Core) (eng : Nat) : Core := { c with erd := c.erd.filter fun e => e.eng != eng }

/-- Read n doublewords. -/
def State.unitDws (s : State) (va : W64) : Nat → Except (Byte × W64) (List W64 × State)
  | 0 => .ok ([], s)
  | n + 1 =>
    match s.unitRead va 8 with
    | .error e => .error e
    | .ok (bs, s) =>
      match State.unitDws s (va + 8#64) n with
      | .error e => .error e
      | .ok (ws, s) => .ok (w64 (ofBytes bs) :: ws, s)

/-- Write doublewords. -/
def State.unitPut (s : State) (va : W64) : List W64 → Except (Byte × W64) State
  | [] => .ok s
  | w :: ws =>
    match s.unitWrite va (toBytes 8 w.toNat) false with
    | .error e => .error e
    | .ok s => State.unitPut s (va + 8#64) ws

/-! ### Descriptors (R211) -/

def Core.dw (c : Core) (n j : Nat) : W64 := tget 0 (4 * n + j) c.desc
def Core.strBase (c : Core) (n : Nat) : W64 := c.dw n 0
def Core.strStride0 (c : Core) (n : Nat) : Int := sext (bf (c.dw n 1) 0 32) 32
def Core.strStride1 (c : Core) (n : Nat) : Int := sext (bf (c.dw n 1) 32 32) 32
def Core.strCount0 (c : Core) (n : Nat) : Nat := bf (c.dw n 2) 0 32
def Core.strCount1 (c : Core) (n : Nat) : Nat := bf (c.dw n 2) 32 32
def Core.strTotal (c : Core) (n : Nat) : Nat := c.strCount0 n * c.strCount1 n
def Core.strSx (c : Core) (n : Nat) : Bool := bit (c.dw n 3) 6
def Core.strWrite (c : Core) (n : Nat) : Bool := bit (c.dw n 3) 5
def Core.strSize (c : Core) (n : Nat) : Nat := 2 ^ bf (c.dw n 3) 3 2

/-- Address of element e. -/
def Core.strAddr (c : Core) (n e : Nat) : W64 :=
  i64 ((c.strBase n).toNat + (e / c.strCount0 n : Nat) * c.strStride1 n + (e % c.strCount0 n : Nat) * c.strStride0 n)

/-- Extend an element as SX gives (R214). -/
def Core.strExt (c : Core) (n : Nat) (bs : List Byte) : W64 :=
  if c.strSx n then i64 (sext (ofBytes bs) (8 * c.strSize n)) else w64 (ofBytes bs)

/-- Element e of port n is the first of its 8-byte word group, the access that R203 counts (log entry 85). -/
def Core.strFirst (c : Core) (n e : Nat) : Bool := e == 0 || (c.strAddr n (e - 1)).toNat / 8 != (c.strAddr n e).toNat / 8

/-- Count an access of element e of port n (R203). -/
def State.strCount (s : State) (n e : Nat) (p : Place) : State := if s.core.strFirst n e then s.counted p (s.core.strAddr n e) else s

/-- A write port still holds an element, pushed before now, that overlaps n bytes at va: the unit writes it first (R229, R230). -/
def Core.strAhead (c : Core) (va n : Nat) : Bool :=
  (List.finRange 8).any fun m =>
    let p := c.ports.get m
    p.bound && (upTo p.pushed.length).any fun i =>
      let a := (c.strAddr m (p.idx + i)).toNat
      decide (a < va + n) && decide (va < a + c.strSize m)

/-- Write the oldest pushed element of a write port (R216, R217). -/
def State.strDrain1 (s : State) (n : Fin 8) : State :=
  let c := s.core
  let p := c.ports.get n
  match p.pushed with
  | [] => s
  | v :: rest =>
    if !p.bound || p.held.isSome then s else
    let va := c.strAddr n p.idx
    let bs := toBytes (c.strSize n) v.toNat
    let me (r : Req) : Bool := r.q == c.queue && r.l == c.lcn.toNat && r.use == .streamW n.val
    if s.reqs.any me then s else
    match s.engine .store va (c.strSize n) with
    | .error f => s.setCore (·.setPort n fun p => { p with held := some f })
    | .ok (pl, s) =>
      if pl.here then (s.putAt pl bs).setCore (·.setPort n fun p => { p with pushed := rest, idx := p.idx + 1 }) else
      let (tag, s) := (s.strCount n p.idx pl).newTag
      { s.emit (.write tag pl bs false) with reqs := s.reqs ++ [⟨tag, c.queue, c.lcn.toNat, .streamW n.val, pl, c.strSize n⟩] }

/-- Write pushed elements until the buffer is empty or the unit cannot go on. -/
def State.strDrain (s : State) (n : Fin 8) : Nat → State
  | 0 => s
  | k + 1 => State.strDrain (s.strDrain1 n) n k

/-- Every pushed element of a port, as far as it goes. -/
def State.strDrainAll (s : State) (n : Fin 8) : State := s.strDrain n (s.core.ports.get n).pushed.length

/-- Every bound write port, as far as it goes. -/
def State.strDrainPorts (s : State) : State := (List.finRange 8).foldl State.strDrainAll s

/-- A bound write port that still holds elements, without a fault held: some wait remains. -/
def Core.strBusy (c : Core) : Bool := c.ports.toList.any fun p => p.bound && !p.pushed.isEmpty && p.held.isNone

/-- Fetch the next element of a read port ahead (R216): it is buffered, or its fault is held against it, or another module is asked.
The elements pushed to the core's write ports are written first: the unit keeps its own accesses in order (R230). -/
def State.strFetch (s : State) (n : Fin 8) : State :=
  let c := s.core
  let p := c.ports.get n
  let e := p.idx + p.fetched.length
  if !p.bound || c.strWrite n || p.held.isSome || decide (c.strTotal n ≤ e) || decide (256 < (p.fetched.length + 1) * c.strSize n) then s else
  let va := c.strAddr n e
  let me (r : Req) : Bool := r.q == c.queue && r.l == c.lcn.toNat && r.use == .stream n.val
  if s.reqs.any me then s else
  let s := s.strDrainPorts
  if s.core.strAhead va.toNat (c.strSize n) then s else
  match s.engineRead va (c.strSize n) with
  | .error f => s.setCore (·.setPort n fun p => { p with held := some f })
  | .ok (some bs, _, s) => s.setCore (·.setPort n fun p => { p with fetched := p.fetched ++ [c.strExt n bs] })
  | .ok (none, pl, s) =>
    let (tag, s) := (s.strCount n e pl).newTag
    { s.emit (.read tag pl (c.strSize n)) with reqs := s.reqs ++ [⟨tag, c.queue, c.lcn.toNat, .stream n.val, pl, c.strSize n⟩] }

/-- The fault held against port n, as a trap. -/
def Port.heldTrap (p : Port) (n : Fin 8) : Option Trap := p.held.map fun f => ⟨f.1, f.2, 3 + n.val⟩

/-- The first held write fault of a bound port. -/
def Core.strFault (c : Core) : Option Trap :=
  ((List.finRange 8).filterMap fun n => if (c.ports.get n).bound && c.strWrite n then (c.ports.get n).heldTrap n else none).head?

end Sys2Proof.Machine
end

