-- ==== Sys2Proof/Machine/MxRec.lean ====
section
/-!
DEFINITION. The matrix command record (R306, R307), its checks at the ST64 (R308), acceptance (R305), and the status page (R315).
-/
namespace Sys2Proof.Machine

/-- Doubleword j of a record. -/
def MxCmd.dw (m : MxCmd) (j : Nat) : W64 := m.dws.getD j 0
def MxCmd.K (m : MxCmd) : Nat := bf (m.dw 0) 48 16
def MxCmd.N (m : MxCmd) : Nat := bf (m.dw 0) 40 8
def MxCmd.M (m : MxCmd) : Nat := bf (m.dw 0) 32 8
def MxCmd.setf (m : MxCmd) : Bool := bit (m.dw 0) 26
def MxCmd.trb (m : MxCmd) : Bool := bit (m.dw 0) 25
def MxCmd.acc (m : MxCmd) : Bool := bit (m.dw 0) 24
def MxCmd.renc (m : MxCmd) : Nat := bf (m.dw 0) 20 4
def MxCmd.benc (m : MxCmd) : Nat := bf (m.dw 0) 16 4
def MxCmd.aenc (m : MxCmd) : Nat := bf (m.dw 0) 12 4
def MxCmd.tile (m : MxCmd) : Nat := bf (m.dw 0) 8 4
def MxCmd.op (m : MxCmd) : Nat := bf (m.dw 0) 0 8
def MxCmd.aaddr (m : MxCmd) : W64 := m.dw 1
def MxCmd.bstr (m : MxCmd) : Nat := bf (m.dw 2) 32 32
def MxCmd.astr (m : MxCmd) : Nat := bf (m.dw 2) 0 32
def MxCmd.baddr (m : MxCmd) : W64 := m.dw 3
def MxCmd.xaddr (m : MxCmd) : W64 := m.dw 4
def MxCmd.rnd (m : MxCmd) : BitVec 2 := BitVec.ofNat 2 (bf (m.dw 5) 24 2)
def MxCmd.rsc (m : MxCmd) : Int := sext (bf (m.dw 5) 16 8) 8
def MxCmd.bsc (m : MxCmd) : Int := sext (bf (m.dw 5) 8 8) 8
def MxCmd.asc (m : MxCmd) : Int := sext (bf (m.dw 5) 0 8) 8
def MxCmd.ctr (m : MxCmd) : W64 := m.dw 6

/-- The MMA family (R310). -/
def MxCmd.isMma (m : MxCmd) : Bool := m.op == 2 || m.op == 3 || m.op == 4

/-- Every field that R307 does not list for the command is zero. -/
def MxCmd.unusedZero (m : MxCmd) : Bool :=
  let ops (l : List Nat) : Bool := l.contains m.op
  let fp := m.renc == 1
  (ops [2, 3, 4] || m.K == 0) && (ops [6] || !m.setf) && (ops [2, 3, 4] || !m.trb) && (ops [2, 3, 4] || !m.acc)
    && (ops [2, 3, 4] || m.benc == 0) && (ops [2, 3, 4, 5] || m.aenc == 0)
    && (ops [2, 3, 4] || m.aaddr == 0#64) && (ops [2, 3, 4] || m.bstr == 0) && (ops [2, 3, 4, 5, 6] || m.astr == 0)
    && (ops [2, 3, 4] || m.baddr == 0#64) && (ops [3, 5, 6] || m.xaddr == 0#64)
    && (ops [5, 6] || m.rnd == 0#2) && (ops [6] || m.rsc == 0) && ((ops [2, 3] && fp) || m.bsc == 0)
    && ((ops [2, 3] && fp) || ops [4, 5] || m.asc == 0) && (ops [5, 6] || m.ctr == 0#64)

/-- The encodings form a row of R307. -/
def MxCmd.row (m : MxCmd) : Bool :=
  let f8 (n : Nat) : Bool := n == 4 || n == 5
  let enc (n : Nat) : Bool := 1 ≤ n && n ≤ 11
  match m.op with
  | 1 => m.aenc == 0 && m.benc == 0 && (m.renc == 1 || m.renc == 8)
  | 2 => (f8 m.aenc && f8 m.benc && m.renc == 1) || (m.aenc == 2 && m.benc == 2 && m.renc == 1)
      || (m.aenc == 3 && m.benc == 3 && m.renc == 1) || (m.aenc == 6 && m.benc == 6 && m.renc == 8)
  | 3 => (f8 m.aenc && f8 m.benc && m.renc == 1) || (m.aenc == 6 && m.benc == 6 && m.renc == 8)
  | 4 => m.aenc == 11 && m.benc == 6 && m.renc == 8
  | 5 => enc m.aenc && m.benc == 0 && (m.renc == 1 || m.renc == 8)
  | _ => m.aenc == 0 && m.benc == 0 && enc m.renc

/-- Width in bytes of an element of the encoding (R42). -/
def encBytes (code : Nat) : Nat := (Enc.ofCode code).bits / 8

/-- M, N and K lie in their ranges. -/
def MxCmd.ranges (m : MxCmd) : Bool :=
  1 ≤ m.M && m.M ≤ 32 && 1 ≤ m.N && m.N ≤ 32 &&
  (if m.op = 2 ∨ m.op = 4 then decide (1 ≤ m.K) else if m.op = 3 then decide (8 ≤ m.K) && m.K % 8 == 0 else m.K == 0)

/-- Addresses and strides are multiples of their element widths. -/
def MxCmd.aligned (m : MxCmd) : Bool :=
  let al (x w : Nat) : Bool := x % w == 0
  if m.isMma then
    al m.aaddr.toNat (encBytes m.aenc) && al m.astr (encBytes m.aenc) && al m.baddr.toNat (encBytes m.benc) && al m.bstr (encBytes m.benc)
      && (m.op != 3 || al m.xaddr.toNat 8)
  else if m.op = 5 then al m.xaddr.toNat (encBytes m.aenc) && al m.astr (encBytes m.aenc)
  else if m.op = 6 then al m.xaddr.toNat (encBytes m.renc) && al m.astr (encBytes m.renc)
  else true

/-- The address lies in LOCAL or in the core's own window (R196). -/
def Core.isOwn (c : Core) (va : Nat) : Bool :=
  (localBase ≤ va && va < localBase + 0x40000) ||
    (winBase ≤ va && va < localBase && (va - winBase) / 2 ^ 18 == c.lcn.toNat && decide (c.lcn.toNat < c.ncores.toNat))

/-- It lies in another core's window. -/
def Core.isOther (c : Core) (va : Nat) : Bool :=
  winBase ≤ va && va < localBase && (va - winBase) / 2 ^ 18 != c.lcn.toNat && decide ((va - winBase) / 2 ^ 18 < c.ncores.toNat)

/-- Address of row r, element c of a tile transfer (R309). -/
def MxCmd.xElem (m : MxCmd) (w r c : Nat) : W64 := m.xaddr + w64 (r * m.astr + c * w)

/-- The tile is declared INT32 (R315 TYPES). -/
def Core.tileInt (c : Core) (t : Nat) : Bool := bit c.types t

/-- The first check of R308 that fails at the ST64. -/
def Core.mxCheck (c : Core) (m : MxCmd) : Option Nat :=
  if m.op < 1 ∨ 6 < m.op then some 1
  else if bf (m.dw 0) 27 5 ≠ 0 ∨ bf (m.dw 5) 26 38 ≠ 0 ∨ m.dw 7 ≠ 0#64 ∨ !m.unusedZero then some 2
  else if !m.row then some 3
  else if !m.ranges then some 4
  else if !m.aligned then some 5
  else if m.acc && m.renc != (if c.tileInt m.tile then 8 else 1) then some 6
  else if m.op = 6 ∧ ((m.setf && !c.isOwn m.xaddr.toNat) ||
      (upTo m.M).any fun r => c.isOther (m.xElem (encBytes m.renc) r 0).toNat || c.isOther (m.xElem (encBytes m.renc) r (m.N - 1)).toNat)
    then some 7
  else none

/-- Accept a command (R305, R307): sequence number, MINTKEY, the tile's declared type. -/
def Core.mxAccept (c : Core) (dws : List W64) : Core :=
  let m : MxCmd := ⟨dws, c.mx.next, if bf (dws.getD 5 0) 24 2 = 3 then c.mintkey else 0, false⟩
  let setsType := m.op == 1 || m.op == 5 || (m.isMma && !m.acc)
  let types := if setsType then (if m.renc = 8 then c.types ||| at64 1 m.tile else clrBit c.types m.tile) else c.types
  { c with mx := { c.mx with queue := c.mx.queue ++ [{ m with tint := bit types m.tile }], next := (c.mx.next + 1) % 65536 }, types := types }

/-- A doubleword of the status page at offset o (R315). -/
def Core.mxStatus (c : Core) (o : Nat) : W64 :=
  let m := c.mx
  match o with
  | 0x100 =>
    let old := match m.queue.head? with | some q => q.seq | none => m.next
    w64 (m.next * 2 ^ 48 + old * 2 ^ 32 + m.queue.length * 2 ^ 16 + m.fault.isSome.toNat)
  | 0x108 => m.rowprog
  | 0x110 => m.mxflt
  | 0x118 => m.mxfl
  | 0x120 => c.types
  | _ => 0

/-! ### Local operands (R192, R196, R309) -/

/-- The logical core and the offset that an address names, when it lies in LOCAL or a window (R196). -/
def Core.localOf (c : Core) (va : Nat) : Option (Nat × Nat) :=
  if localBase ≤ va ∧ va < localBase + 0x40000 then some (c.lcn.toNat, va - localBase)
  else if winBase ≤ va ∧ va < localBase ∧ (va - winBase) / 2 ^ 18 < c.ncores.toNat then some ((va - winBase) / 2 ^ 18, (va - winBase) % 2 ^ 18)
  else none

/-- The pieces of a range of n bytes at va that lie in one bay each: the addresses of their first bytes. -/
def bayStarts (va n : Nat) : List Nat := va :: ((upTo ((va + n - 1) / 32768 - va / 32768)).map fun i => (va / 32768 + i + 1) * 32768)

/-- Rows of an operand: address of the first byte and length in bytes of each. -/
def rowsOf (base : W64) (rows stride n : Nat) : List (Nat × Nat) := (upTo rows).map fun r => ((base + w64 (r * stride)).toNat, n)

/-- Operands of a command in memory: their rows and encoding (R309, R311). -/
def MxCmd.operands (m : MxCmd) : List (List (Nat × Nat) × Nat) :=
  let wa := encBytes m.aenc
  let wb := encBytes m.benc
  let wr := encBytes m.renc
  if m.isMma then
    let ac := if m.op = 3 then m.K / 2 else m.K
    [(rowsOf m.aaddr m.M m.astr (ac * wa), m.aenc),
     (if m.trb then rowsOf m.baddr m.N m.bstr (m.K * wb) else rowsOf m.baddr m.K m.bstr (m.N * wb), m.benc)]
  else if m.op = 5 then [(rowsOf m.xaddr m.M m.astr (m.N * wa), m.aenc)]
  else if m.op = 6 then [(rowsOf m.xaddr m.M m.astr (m.N * wr), m.renc)]
  else []

/-- The bays that the rows touch: key 8 * core + bay. -/
def Core.baysOf (c : Core) (rows : List (Nat × Nat)) : List Nat :=
  (rows.flatMap fun r => (bayStarts r.1 r.2).filterMap fun a => (c.localOf a).map fun x => 8 * x.1 + x.2 / 32768).eraseDups

/-- Some command that has still to read its formats takes one from bay b of the own core (R192); one that has started, or has stopped since, has read them. -/
def Core.mxReads (c : Core) (b : Nat) : Bool :=
  (if c.mx.started || c.mx.fault.isSome then c.mx.queue.drop 1 else c.mx.queue).any fun m =>
    m.operands.any fun o => (c.baysOf o.1).contains (8 * c.lcn.toNat + b)

/-- The pending matrix fault as a trap (R321). -/
def Core.mxTrap (c : Core) : Option Trap := c.mx.fault.map fun f => ⟨f.1, f.2, 2⟩

/-- The pending copy fault as a trap (R257). -/
def Core.cfTrap (c : Core) : Option Trap := c.cf.fault.map fun f => ⟨f.2.1, f.2.2, 1⟩

end Sys2Proof.Machine
end

