-- ==== Sys2Proof/Machine/Operands.lean ====
section
/-!
DEFINITION. Scalar operands (R114, R133, R214, R215): what the register fields of an instruction read and where they write, through
registers or bound stream ports.
-/
namespace Sys2Proof.Machine

/-- TVAL of port misuse (R215). -/
def portTval (n : Fin 8) (reason : Nat) : W64 := w64 (n.val + reason * 256)

/-- The bound ports that fields name, in field order. -/
def Core.named (c : Core) (rs : List SReg) : List (Fin 8) := rs.filterMap c.port?

/-- Fetch until the port holds k elements, its fault, or its end. -/
def State.strNeed (s : State) (n : Fin 8) (k : Nat) : Nat → State
  | 0 => s
  | f + 1 => if (s.core.ports.get n).fetched.length < k then State.strNeed (s.strFetch n) n k f else s

/-- What a use of fields meets first, in the order of R215: a trap, or that it must wait, or nothing. -/
def portCheck (bad8 : Bool) (rs ws : List (Fin 8)) (c : Core) : Option (Option Trap) :=
  let mis (n : Fin 8) (r : Nat) : Option (Option Trap) := some (some ⟨0x10#8, portTval n r, 0⟩)
  let need (n : Fin 8) : Nat := (rs.filter (· == n)).length
  match (if bad8 then ws.head? else none) with
  | some n => mis n 8
  | none =>
  match (rs.filter (ws.contains ·)).head? with
  | some n => mis n 6
  | none =>
  match (rs.filter (c.strWrite ·.val)).head? with
  | some n => mis n 4
  | none =>
  match (ws.filter (!c.strWrite ·.val)).head? with
  | some n => mis n 4
  | none =>
  match (rs.filterMap fun n => if (c.ports.get n).fetched.length < need n then (c.ports.get n).heldTrap n else none).head? with
  | some f => some (some f)
  | none =>
  match (ws.filterMap fun n => (c.ports.get n).heldTrap n).head? with
  | some f => some (some f)
  | none =>
  match (rs.filter fun n => decide (c.strTotal n.val < (c.ports.get n).idx + need n)).head? with
  | some n => mis n 5
  | none =>
  match (ws.filter fun n => decide (c.strTotal n.val ≤ (c.ports.get n).idx + (c.ports.get n).pushed.length)).head? with
  | some n => mis n 5
  | none =>
  if rs.any (fun n => decide ((c.ports.get n).fetched.length < need n))
    || ws.any (fun n => decide (256 < ((c.ports.get n).pushed.length + 1) * c.strSize n.val)) then some none
  else none

/-- Read source fields in order, each bound port giving its next element (R214): the values, and the core that has consumed them. -/
def Core.readAll (c : Core) : List SReg → List W64 × Core
  | [] => ([], c)
  | r :: rs =>
    match c.port? r with
    | none => let (vs, c') := c.readAll rs; (c.rd r :: vs, c')
    | some n =>
      let p := c.ports.get n
      let c1 := c.setPort n fun p => { p with idx := p.idx + 1, fetched := p.fetched.drop 1 }
      let (vs, c') := Core.readAll c1 rs
      (p.fetched.headD 0 :: vs, c')

/-- Give an instruction its source values: `k` receives them with the state before and the state after it has consumed its elements.
`bad8` marks CSEL, FMAC and ATOM, whose d no port may be (R215 0x08). -/
def State.operands (s : State) (bad8 : Bool) (rs ws : List SReg) (k : List W64 → State → State → State) : State :=
  let nr := s.core.named rs
  let nw := s.core.named ws
  if nr = [] ∧ nw = [] then k (rs.map s.core.rd) s s else
  let s := nr.foldl (fun s n => s.strNeed n (nr.filter (· == n)).length nr.length) s
  let s := nw.foldl (fun s n => if 256 < ((s.core.ports.get n).pushed.length + 1) * s.core.strSize n.val then s.strDrain1 n else s) s
  match portCheck bad8 nr nw s.core with
  | some (some t) => s.trapT t
  | some none => s.wait
  | none => let (vs, c) := s.core.readAll rs; k vs s { s with core := c }

/-- Operands of a long-latency instruction: a port's trap is its own (R121), and its wait for stream data is a local wait (R119). -/
def State.operandsL (s : State) (la : BitVec 4) (bad8 : Bool) (rs ws : List SReg) (k : List W64 → State → State → State) : State :=
  let nr := s.core.named rs
  let nw := s.core.named ws
  if nr = [] ∧ nw = [] then k (rs.map s.core.rd) s s else
  let s := nr.foldl (fun s n => s.strNeed n (nr.filter (· == n)).length nr.length) s
  let s := nw.foldl (fun s n => if 256 < ((s.core.ports.get n).pushed.length + 1) * s.core.strSize n.val then s.strDrain1 n else s) s
  match portCheck bad8 nr nw s.core with
  | some (some t) => s.trapLT la t
  | some none => s.waitL la
  | none => let (vs, c) := s.core.readAll rs; k vs s { s with core := c }

/-- Write a scalar result and complete. -/
def State.finish (s : State) (d : SReg) (v : W64) : State := (s.setCore (·.out d v)).retire

end Sys2Proof.Machine
end

