-- ==== Sys2Proof/Machine/Mem.lean ====
section
/-!
DEFINITION. Loads, stores and full/empty operations (R206 to R210), with the control page (R196, R211, R305, R315).
-/
namespace Sys2Proof.Machine

/-- A - s[a] + SEXT(off9) * size (R206). -/
def effAddr (x : W64) (o : BitVec 9) (size : Nat) : W64 := x + o.signExtend 64 * w64 size

/-- Zero- or sign-extension of loaded bytes. -/
def extend (sx : Bool) (bs : List Byte) : W64 := if sx then i64 (sext (ofBytes bs) (8 * bs.length)) else w64 (ofBytes bs)

/-- Doubleword i of the stream descriptors as it is held: the reserved bits of DW3 are zero (R4, R211). An SBIND that finds them set in what was last written
is refused (R215): they are kept beside, and read as zero. -/
def descRead (i : Nat) (w : W64) : W64 := if i % 4 = 3 then w &&& 0x78 else w

/-- A doubleword of the control page as LDD reads it: the status page and the stream descriptors (R196). -/
def Core.ctlRead (c : Core) (o n : Nat) : Option W64 :=
  if n ≠ 8 then none
  else if 0x100 ≤ o ∧ o < 0x200 then some (c.mxStatus o)
  else if 0x400 ≤ o ∧ o < 0x500 then some (descRead ((o - 0x400) / 8) (tget 0 ((o - 0x400) / 8) c.desc))
  else none

/-- What the core's own stores still in its buffer have for n bytes of a place, byte by byte (R229). -/
def State.ownBytes (s : State) (p : Place) (n : Nat) : List (Option Byte) :=
  let (a, b, o) := p.key
  let ps := s.buffered
  (upTo n).map fun i => ps.foldl (fun x e => match e.byte? (a, b, o + i) with | some v => some v | none => x) none

/-- Bytes with those of the core's own stores in their place. -/
def overlay (own : List (Option Byte)) (bs : List Byte) : List Byte := bs.zipIdx.map fun b => ((own[b.2]?).getD none).getD b.1

/-- Send a request to another module for the scalar pipeline (R78); `line` marks one for a line that the L1 may hold (R233), and `own` are the bytes of the
access that the core has in flight. -/
def State.askFor (s : State) (use : ReqUse) (p : Place) (size : Nat) (va : W64) (line : Bool) (own : List (Option Byte)) (mk : Nat → Out1) : State :=
  let (tag, s) := s.newTag
  let c := s.core
  let s : State := { s.emit (mk tag) with reqs := s.reqs ++ [⟨tag, c.queue, c.lcn.toNat, use, p, size⟩] }
  s.setCore fun c => { c with far := some ⟨tag, va.toNat, p.key, line, own, false, none, none⟩ }

/-- The same for an atomic of the instruction L, which waits for the answer (R119). -/
def State.ask (s : State) (la : BitVec 4) (p : Place) (size : Nat) (va : W64) (mk : Nat → Out1) : State :=
  (s.askFor .load p size va false [] mk).waitL la

/-- State s with what the translation of an access that has still to wait has left in t: TLB entries, counts and corrections. -/
def State.seen (s t : State) : State := { s with yards := t.yards, dies := t.dies, soft := t.soft, core := { s.core with utlb := t.core.utlb } }

/-- Ask for the bytes of a load: of a mode 10 page for the line, of 64 bytes. -/
def State.askLoad (s : State) (la : BitVec 4) (p : Place) (size : Nat) (va : W64) : State :=
  let own := s.ownBytes p size
  if s.l1Holds p then (s.askFor .load p.line 64 va true own fun t => .read t p.line 64).waitL la
  else (s.askFor .load p size va false own fun t => .read t p size).waitL la

/-- TVAL and CAUSE of a NACK that ends a waiting access (R87, R427). -/
def nackFault (a : Acc) (va : W64) (code : Nat) : Byte × W64 := (a.cause, w64 (bf va 0 56 + code * 2 ^ 56))

/-- The answer of another module to the core's waiting request: none sent yet, still waiting, a reply, a NACK. -/
inductive Answer where
  | none | waiting | reply (f : Far) (ws : List W64) | nack (code : Nat)

def Core.answer (c : Core) (va : W64) : Answer :=
  match c.far with
  | some f =>
    if f.va ≠ va.toNat then .none else
    match f.nack, f.reply with
    | some n, _ => .nack n
    | none, some ws => .reply f ws
    | none, none => .waiting
  | none => .none

/-- n bytes of the doublewords of a reply. -/
def replyData (n : Nat) (ws : List W64) : List Byte := ((ws.flatMap fun (w : W64) => toBytes 8 w.toNat) ++ List.replicate n 0).take n

/-- The bytes of a load that another module has answered: of a line those at va; at and above the declared minimum of a window, zero (R27); those of the
core's own stores that were in flight when it was sent forward (R229). -/
def Core.replyBytes (c : Core) (f : Far) (va : W64) (size : Nat) (ws : List W64) : List Byte :=
  overlay f.own <|
    if f.line then ((replyData 64 ws).drop (va.toNat % 64)).take size
    else if f.key.1 = 6 then ((replyData size ws).zipIdx f.key.2.2).map fun b => if b.2 < c.lmin then b.1 else 0
    else replyData size ws

/-- An answered line of a mode 10 page is held from now on (R233), unless a store of the core to it has been acknowledged since it was asked for; with the
bytes that have been forwarded from it. -/
def State.keepLine (s : State) (f : Far) (va : W64) (ws : List W64) : State :=
  if f.line && !f.stale then s.setCore (·.l1Keep f.key (overlay (List.replicate (va.toNat % 64) none ++ f.own) (replyData 64 ws))) else s

/-- A load of `size` bytes (R206, R207). -/
def load (d a : SReg) (o : BitVec 9) (la : BitVec 4) (size : Nat) (sx : Bool) (s : State) : State :=
  s.operandsL la false [a] [d] fun vs s0 s =>
    let va := effAddr (vs.getD 0 0) o size
    if va.toNat % size ≠ 0 then s0.trapL la 0x02#8 va else
    let fault (f : Byte × W64) : State := s0.trapL la f.1 f.2
    let give (s : State) (bs : List Byte) : State := s.landL la [.s d (extend sx bs)]
    match s0.core.answer va with
    | .waiting => s0.waitL la
    | .nack n => fault (nackFault .load va n)
    | .reply f ws => give (s.keepLine f va ws) (s.core.replyBytes f va size ws)
    | .none =>
      match s.xlat true .load va with
      | .error r => fault (xFault .load va r)
      | .ok (p, s) =>
        match p with
        | .ctl off =>
          match s.core.ctlRead off size with
          | some v => s.landL la [.s d v]
          | none => fault (xFault .load va 6)
        | _ =>
          if p.here then
            match s.loadHere p size with
            | .ok (bs, s) => give s (forward s.buffered p.key bs)
            | .error f => fault f
          else
            match (if s.l1Holds p then s.core.l1Find p size else none) with
            | some bs => give s (forward s.buffered p.key bs)
            | none => (s0.seen (s.counted p va)).askLoad la p size va

/-- Every earlier access of the core to any location is performed, as far as this module knows: no posted store is outstanding. -/
def State.settled (s : State) : Bool := s.drainAll.core.posted.isEmpty

/-- Bytes of a store that exist: those below the declared minimum of the core whose local memory it reaches (R27). -/
def State.clip (s : State) (p : Place) (bs : List Byte) : List Byte :=
  match s.limit p with
  | some (o, m) => bs.take (m - o)
  | none => bs

/-- The buffer is full of stores that cannot be performed yet: a further store waits at issue (R234). -/
def State.bufferFull (s : State) : Bool := decide (16 ≤ s.makeRoom.core.posted.length)

/-- A store to a place that is not the control page: to the core's own local memory at once, after its earlier die-scope stores (R231,
R234), elsewhere posted (R208). Of bytes that do not exist nothing is stored (R27). -/
def State.storeTo (s : State) (p : Place) (bs : List Byte) (va : W64) : State :=
  match p with
  | .own _ =>
    let s := s.drain fun e => s.dieScope (s.nowAt e.va e.place)
    if s.core.posted.any fun e => e.full || s.dieScope (s.nowAt e.va e.place) then s.post p (s.clip p bs) false va else s.putAt p bs
  | _ => let bs := s.clip p bs; if bs.isEmpty then s else s.post p bs false va

/-- A store of `size` bytes (R206, R207); `dws` are the data registers, lowest address first. -/
def store (ds : List SReg) (a : SReg) (o : BitVec 9) (la : BitVec 4) (size : Nat) (s : State) : State :=
  s.operandsL la false (a :: ds) [] fun vs s0 s =>
    let va := effAddr (vs.getD 0 0) o size
    let data := vs.drop 1
    if va.toNat % size ≠ 0 then s0.trapL la 0x02#8 va else
    match s.xlat true .store va with
    | .error r => let f := xFault .store va r; s0.trapL la f.1 f.2
    | .ok (p, s) =>
      match p with
      | .ctl off =>
        if size = 8 ∧ 0x400 ≤ off ∧ off < 0x500 then
          let n : Fin 8 := ⟨(off - 0x400) / 32 % 8, by omega⟩
          if (s.core.ports.get n).bound then s0.trapL la 0x10#8 (portTval n 7)
          else (s.setCore fun c => { c with desc := tset ((off - 0x400) / 8) (data.getD 0 0) c.desc }).landL la []
        else if size = 64 ∧ off = 0 then
          match s.core.mxTrap with
          | some t => s0.trapLT la t
          | none =>
            match s.core.mxCheck ⟨data, 0, 0, false⟩ with
            | some code => s0.trapL la 0x0B#8 (w64 (code + bf (data.getD 0 0) 0 8 * 256))
            | none =>
              let s := s.drainAll
              if 16 ≤ s.core.mx.queue.length || s.core.ownPosted then s0.drainAll.waitL la else (s.setCore (·.mxAccept data)).landL la []
        else let f := xFault .store va 6; s0.trapL la f.1 f.2
      | _ => if s.bufferFull then s0.wait else ((s.counted p va).storeTo p ((data.flatMap fun x => toBytes 8 x.toNat).take size) va).landL la []

/-- STFL (R206, R207): local memory of some core, below its declared minimum. It is posted, and performed only after every earlier access of the core
(R208, R241). -/
def storeFull (d a : SReg) (o : BitVec 9) (la : BitVec 4) (s : State) : State :=
  s.operandsL la false [a, d] [] fun vs s0 s =>
    let va := effAddr (vs.getD 0 0) o 8
    if va.toNat % 8 ≠ 0 then s0.trapL la 0x02#8 va else
    match s.xlat true .store va with
    | .error r => let f := xFault .store va r; s0.trapL la f.1 f.2
    | .ok (p, s) =>
      match s.limit p with
      | none => let f := xFault .store va 6; s0.trapL la f.1 f.2
      | some (off, m) =>
        if m < off + 8 then (let f := xFault .store va 6; s0.trapL la f.1 f.2)
        else if s.bufferFull then s0.wait
        else ((s.post p (toBytes 8 (vs.getD 1 0).toNat) true va).drainAll).landL la []

/-- The word of an LDSYNC instruction (R209): its offset in the core's own local memory, or the trap. -/
def State.syncWord (s : State) (va : W64) : Except (Byte × W64) Nat :=
  if va.toNat % 8 ≠ 0 then .error (0x02#8, va)
  else if !s.core.isOwn va.toNat then .error (xFault .load va 6)
  else
    let off := if localBase ≤ va.toNat then va.toNat - localBase else (va.toNat - winBase) % 2 ^ 18
    if s.core.lmin < off + 8 then .error (xFault .load va 6) else .ok off

/-- An STFL of the core to the word at this offset of its own local memory is still posted. -/
def Core.fills (c : Core) (off : Nat) : Bool := c.posted.any fun e => e.full && (match e.place with | .own o => o / 8 == off / 8 | _ => false)

/-- LDF and LDFE (R209, R210, R241): wait until the word is full; `empty` clears its bit. -/
def loadFull (d a : SReg) (o : BitVec 9) (la : BitVec 4) (empty : Bool) (s : State) : State :=
  s.operandsL la false [a] [d] fun vs s0 s =>
    let va := effAddr (vs.getD 0 0) o 8
    match s.syncWord va with
    | .error f => s0.trapL la f.1 f.2
    | .ok off =>
      let s := s.drainAll
      if !s.core.fe off || s.core.ownPosted then s0.drainAll.waitL la else
      match s.badAt (.own off) 8 with
      | some f => s0.drainAll.trapL la f.1 f.2
      | none =>
      let s := s.fixAt (.own off) 8
      let v := w64 (ofBytes (s.core.locRead off 8))
      let s := if empty then s.setCore (·.setFe off false) else s
      s.acquire.landL la [.s d v]

def execLdb (d a : BitVec 5) (o : BitVec 9) (l : BitVec 4) (s : State) : Out := .next (load d a o l 1 true s)
def execLdbu (d a : BitVec 5) (o : BitVec 9) (l : BitVec 4) (s : State) : Out := .next (load d a o l 1 false s)
def execLdh (d a : BitVec 5) (o : BitVec 9) (l : BitVec 4) (s : State) : Out := .next (load d a o l 2 true s)
def execLdhu (d a : BitVec 5) (o : BitVec 9) (l : BitVec 4) (s : State) : Out := .next (load d a o l 2 false s)
def execLdw (d a : BitVec 5) (o : BitVec 9) (l : BitVec 4) (s : State) : Out := .next (load d a o l 4 true s)
def execLdwu (d a : BitVec 5) (o : BitVec 9) (l : BitVec 4) (s : State) : Out := .next (load d a o l 4 false s)
def execLdd (d a : BitVec 5) (o : BitVec 9) (l : BitVec 4) (s : State) : Out := .next (load d a o l 8 false s)
def execStb (d a : BitVec 5) (o : BitVec 9) (l : BitVec 4) (s : State) : Out := .next (store [d] a o l 1 s)
def execSth (d a : BitVec 5) (o : BitVec 9) (l : BitVec 4) (s : State) : Out := .next (store [d] a o l 2 s)
def execStw (d a : BitVec 5) (o : BitVec 9) (l : BitVec 4) (s : State) : Out := .next (store [d] a o l 4 s)
def execStd (d a : BitVec 5) (o : BitVec 9) (l : BitVec 4) (s : State) : Out := .next (store [d] a o l 8 s)

/-- R206: s[d] to s[d + 7]; d is a multiple of 8, of which the word carries the two high bits. -/
def execSt64 (d : BitVec 2) (a : BitVec 5) (o : BitVec 9) (l : BitVec 4) (s : State) : Out := .next <|
  let r (j : BitVec 3) : SReg := d ++ j
  store [r 0, r 1, r 2, r 3, r 4, r 5, r 6, r 7] a o l 64 s

def execStfl (d a : BitVec 5) (o : BitVec 9) (l : BitVec 4) (s : State) : Out := .next (storeFull d a o l s)
def execLdf (d a : BitVec 5) (o : BitVec 9) (l : BitVec 4) (s : State) : Out := .next (loadFull d a o l false s)
def execLdfe (d a : BitVec 5) (o : BitVec 9) (l : BitVec 4) (s : State) : Out := .next (loadFull d a o l true s)

/-- R209: FETEST. An own STFL to the word that is still posted counts (R229). -/
def execFetest (d a : BitVec 5) (o : BitVec 9) (l : BitVec 4) (s : State) : Out := .next <|
  s.operandsL l false [a] [d] fun vs s0 s =>
    match s.syncWord (effAddr (vs.getD 0 0) o 8) with
    | .error f => s0.trapL l f.1 f.2
    | .ok off => s.landL l [.s d (b64 (s.core.fe off || s.core.fills off))]

/-- R209: FECLR, after every earlier STFL of the core to the word (R229). -/
def execFeclr (a : BitVec 5) (o : BitVec 9) (l : BitVec 4) (s : State) : Out := .next <|
  s.operandsL l false [a] [] fun vs s0 s =>
    match s.syncWord (effAddr (vs.getD 0 0) o 8) with
    | .error f => s0.trapL l f.1 f.2
    | .ok off =>
      let t := s.drainAll
      if t.core.fills off then s0.drainAll.waitL l else (t.setCore (·.setFe off false)).landL l []

end Sys2Proof.Machine
end

