-- ==== Sys2Proof/Machine/Flags.lean ====
section
/-!
DEFINITION. Results under a MOD prefix (R107, R141), and how flags reach FFLAGS (R102).
-/
namespace Sys2Proof.Machine

/-- The signed scale of a MOD word (R125). -/
def Mod.k (m : Mod) : Int := m.scale.toInt

/-- absa, nega on an integer (R107). -/
def Mod.onA (m : Mod) (x : Int) : Int := let x := if m.absa then |x| else x; if m.nega then -x else x
def Mod.onB (m : Mod) (x : Int) : Int := let x := if m.absb then |x| else x; if m.negb then -x else x

/-- absa, nega on a value: the sign only (R107). -/
def Mod.onAV (m : Mod) (v : Val) : Val := let v := if m.absa then v.setNeg false else v; if m.nega then negV v else v
def Mod.onBV (m : Mod) (v : Val) : Val := let v := if m.absb then v.setNeg false else v; if m.negb then negV v else v

/-- The exact integer scaled by 2^k and rounded by RD (R107: integer destinations). -/
def scaleFloor (v k : Int) : Int := if 0 ≤ k then v * 2 ^ k.toNat else v.fdiv (2 ^ (-k).toNat)

/-- Clamp to integer bounds (R107); HI wins when LO > HI. -/
def clampI (lo hi v : Int) : Int := Min.min (Max.max v lo) hi

/-- An operand or bound as an integer: unsigned for the unsigned operations (R107). -/
def asInt (uns : Bool) (x : W64) : Int := if uns then x.toNat else x.toInt

/-- MODRESULT for an integer destination (R107, R141). -/
def modInt (m : Mod) (uns : Bool) (f : Int → Int → Int) (lo hi x y : W64) : W64 :=
  let v := f (m.onA (asInt uns x)) (m.onB (asInt uns y))
  let r := scaleFloor v m.k
  let r := if m.clamp then clampI (asInt uns lo) (asInt uns hi) r else r
  if m.sat then (if uns then i64 (clampI 0 (2 ^ 64 - 1) r) else i64 (clampI (-2 ^ 63) (2 ^ 63 - 1) r)) else i64 r

/-- The clamp registers s[c] and s[c + 1] of the armed prefix (R125). -/
def Core.bounds (c : Core) (m : Mod) : W64 × W64 := (c.rd m.c, c.rd (m.c + 1#5))

/-- An integer result: plain, or under the armed MOD prefix. -/
def Core.intResult (c : Core) (plain : W64 → W64 → W64) (uns : Bool) (f : Int → Int → Int) (x y : W64) : W64 :=
  match c.modp with
  | none => plain x y
  | some m => modInt m uns f (c.bounds m).1 (c.bounds m).2 x y

/-- OR flags into FFLAGS (R102). -/
def Core.raise (c : Core) (f : Fl) : Core := { c with fflags := c.fflags ||| f.fflags }

/-- The mode of scalar floating point (R98, R103). -/
def Core.frmMode (c : Core) : RMode := c.frm.setWidth 2

/-- The draw of a scalar instruction in SR mode: MINT(MINTKEY, SRBASE), and SRBASE one further (R105, R161). -/
def Core.drawFp (c : Core) : Nat × Core :=
  if c.frmMode = 3#2 then (draw c.mintkey c.srbase, { c with srbase := c.srbase + 1#64 }) else (0, c)

/-- An FP32 register operand (R152). -/
def f32 (x : W64) : Val := fp32.read (bf x 0 32)

/-- MODRESULT for a value (R107): scale and clamp of the exact value. -/
def Mod.onV (m : Mod) (lo hi v : Val) : Val :=
  let v := v.scale m.k
  if m.clamp then clampV lo hi v else v

end Sys2Proof.Machine
end

