-- ==== Sys2Proof/Machine/HubMem.lean ====
section
/-!
DEFINITION. How the hub, the save sequencer and the tellers reach memory on behalf of a context: a walk of its page tables (R197 to R200)
that no TLB caches, and the local memory of a core wherever it lies (R77, R384).
-/
namespace Sys2Proof.Machine

/-- A byte that another module holds: free (log entry 11). -/
def farByte (t k : Nat) : Byte := (Config.freeBits t k).setWidth 8

/-- n bytes at a place for the hub; what another module's memory holds is a free value (log entry 11). -/
def State.hubBytes (s : State) (p : Place) (n : Nat) : List Byte :=
  match p with
  | .mem a _ => Memory.read s.mem a n
  | .host a _ _ => Memory.read s.hostMem a n
  | .far _ _ a _ _ => (upTo n).map fun i => farByte s.tick (a + i)
  | _ => List.replicate n 0

/-- Put bytes at a place for the hub; bytes that another module holds leave as a write. -/
def State.hubPut (s : State) (p : Place) (bs : List Byte) : State :=
  match p with
  | .mem a _ => { s with mem := Memory.write s.mem a bs }
  | .host a _ _ => { s with hostMem := Memory.write s.hostMem a bs }
  | .far _ _ _ _ _ => let (t, s) := s.newTag; s.emit (.write t p bs false)
  | _ => s

/-- An uncorrectable word under the bytes, or a mismatch that a peer module answers by a NACK (R86, R87): the hub cannot reach them. -/
def State.hubBad (s : State) (p : Place) (n : Nat) : Bool :=
  match p with
  | .far k i _ _ _ => s.nacks k i
  | _ => (s.badAt p n).isSome

/-- Read n bytes that lie in one page. -/
def State.hubRead1 (s : State) (n : Nat) (va len : Nat) : Except Nat (List Byte) :=
  match s.hubXlat n .load va with
  | .error r => .error r
  | .ok p => if s.hubBad p len then .error 7 else .ok (s.hubBytes p len)

/-- Bytes from va to the end of its page. -/
def pageRest (va : Nat) : Nat := 2 ^ 17 - va % 2 ^ 17

/-- Read at most 128 KiB, which may run on into the next page. -/
def State.hubRead (s : State) (n : Nat) (va len : Nat) : Except Nat (List Byte) :=
  if len ≤ pageRest va then s.hubRead1 n va len else
  match s.hubRead1 n va (pageRest va), s.hubRead1 n (va + pageRest va) (len - pageRest va) with
  | .ok a, .ok b => .ok (a ++ b)
  | .error r, _ => .error r
  | _, .error r => .error r

/-- Write bytes that lie in one page. -/
def State.hubWrite1 (s : State) (n : Nat) (va : Nat) (bs : List Byte) : Except Nat State :=
  match s.hubXlat n .store va with
  | .error r => .error r
  | .ok p => if s.hubBad p 0 then .error 7 else .ok (s.hubPut p bs)

/-- Write at most 128 KiB, which may run on into the next page; nothing when one page cannot be written. -/
def State.hubWrite (s : State) (n : Nat) (va : Nat) (bs : List Byte) : Except Nat State :=
  if bs.length ≤ pageRest va then s.hubWrite1 n va bs else
  match s.hubXlat n .store (va + pageRest va), s.hubWrite1 n va (bs.take (pageRest va)) with
  | .ok _, .ok s => s.hubWrite1 n (va + pageRest va) (bs.drop (pageRest va))
  | .error r, _ => .error r
  | _, .error r => .error r

/-- Read k doublewords. -/
def State.hubDws (s : State) (n : Nat) (va : Nat) : Nat → Except Nat (List W64)
  | 0 => .ok []
  | k + 1 =>
    match s.hubRead n va 8 with
    | .error r => .error r
    | .ok bs =>
      match State.hubDws s n (va + 8) k with
      | .error r => .error r
      | .ok ws => .ok (w64 (ofBytes bs) :: ws)

/-- Write doublewords. -/
def State.hubPutDws (s : State) (n : Nat) (va : Nat) : List W64 → Except Nat State
  | [] => .ok s
  | w :: ws =>
    match s.hubWrite n va (toBytes 8 w.toNat) with
    | .error r => .error r
    | .ok s => State.hubPutDws s n (va + 8) ws

/-! ### Homes: words that a teller serves -/

/-- Where the bytes of a home are now. -/
def State.homePlace (s : State) (h : Home) : Place :=
  match h with
  | .mem a => .mem a 1
  | .host a => .host a 1 0
  | .loc q l off =>
    if s.isCur q l then .own off else
    match s.find q l with
    | none => .ctl 0
    | some i =>
      match s.peers[i]? with
      | none => .ctl 0
      | some c =>
        if c.st ≠ .saved then .peer i off else
        match s.hubXlat (s.ctxOf c) .store (s.recBase c + 0x20000 + off) with
        | .ok (.far _ _ _ _ _) => .peer i off
        | .ok p => p
        | .error _ => .ctl 0

/-- n bytes of a home. -/
def State.homeRead (s : State) (h : Home) (n : Nat) : List Byte :=
  match s.homePlace h with
  | .own o => s.core.locRead o n
  | .peer i o => s.bytesAt (.peer i o) n
  | p => s.hubBytes p n

/-- Bytes of a home that exist: those below the declared minimum of its core (R27). -/
def State.homeClip (s : State) (h : Home) (bs : List Byte) : List Byte :=
  match h with
  | .mem _ | .host _ => bs
  | .loc q l off => match (s.find q l).bind fun i => s.peers[i]? with | some c => bs.take (c.lmin - off) | none => bs

/-- Write bytes of a home. -/
def State.homeWrite (s : State) (h : Home) (bs : List Byte) : State :=
  match s.homePlace h with
  | .own o => s.setCore (·.locWrite o bs)
  | .peer i o => s.setPeer i (·.othersWrite o bs)
  | p => s.hubPut p (s.homeClip h bs)

/-- Logical core l of queue q on this module. -/
def State.coreAt (s : State) (q l : Nat) : Option Core := if s.isCur q l then some s.core else (s.find q l).bind fun i => s.peers[i]?

/-- n bytes of a home as an agent other than its core reads them (log entry 74). -/
def State.homeView (s : State) (h : Home) (n : Nat) : List Byte :=
  let bs := s.homeRead h n
  match h with
  | .loc q l off => (match s.coreAt q l with | some c => (bs.zipIdx off).map fun x => (c.aside? x.2).getD x.1 | none => bs)
  | _ => bs

/-- Write bytes of a home for such an agent. -/
def State.homePut (s : State) (h : Home) (bs : List Byte) : State :=
  match h with
  | .loc q l off =>
    (match s.coreAt q l with
     | some c =>
       if c.stash = [] then s.homeWrite h bs else
       (bs.zipIdx off).foldl (fun s x =>
         if (c.aside? x.2).isSome then s.asCore q l fun s => s.setCore (·.othersWrite x.2 [x.1]) else s.homeWrite (.loc q l x.2) [x.1]) s
     | none => s)
  | _ => s.homeWrite h bs

/-- Set the full/empty bit of a word of a home for such an agent, in the record of a saved core too (R77, R385). -/
def State.homeFull (s : State) (h : Home) : State :=
  match h with
  | .loc q l o =>
    if s.isCur q l then
      let s := s.setCore (·.othersFill o)
      if s.core.st = .saved then s.recFe s.core o else s
    else match s.find q l with | some i => s.fillPeer i o | none => s
  | _ => s

/-- The same for n bytes of words from an offset on. -/
def State.homeFills (s : State) (q l o n : Nat) : State := (upTo (n / 8)).foldl (fun s i => s.homeFull (.loc q l (o + 8 * i))) s

/-- A unit of this module reads n bytes of a home for another agent: the state with an uncorrectable word among them counted as found (R400), or with the
others corrected (R399). -/
def State.consume (s : State) (h : Home) (n : Nat) : Bool × State :=
  let p := s.homePlace h
  match s.bad.find? (s.errAt p n) with
  | some e => (false, s.eccCount (errDie e) 0 8)
  | none => (true, s.fixAt p n)

/-- The home that a place of the current core names; none where no teller of this module serves it. -/
def State.homeOf (s : State) (p : Place) : Option Home :=
  match p with
  | .own o => some (.loc s.core.queue s.core.lcn.toNat o)
  | .peer i o => (s.peers[i]?).map fun c => .loc c.queue c.lcn.toNat o
  | .saved i o _ _ => (s.peers[i]?).map fun c => .loc c.queue c.lcn.toNat o
  | .mem a _ => some (.mem a)
  | _ => none

/-- The yard whose teller serves a home (R220). -/
def State.homeYard (s : State) (h : Home) : Nat :=
  match h with
  | .mem a => paTeller a
  | .host _ => 0
  | .loc q l _ =>
    if s.isCur q l then pcYard s.core.pcid else
    match s.find q l with
    | some i => (match s.peers[i]? with | some c => pcYard c.pcid | none => 0)
    | none => 0

end Sys2Proof.Machine
end

