-- ==== Sys2Proof/Machine/Slot.lean ====
section
/-!
DEFINITION. Exact slots (R108, R109, R111) and their image in memory (R222).
-/
namespace Sys2Proof.Machine

/-- An exact slot: the total in units of 2^-300, the zero-sign bits, the sticky overflow with its sign, the flag and least origin of NaN,
+infinity and -infinity, whether anything was added. -/
structure ExSum where
  sum : Int
  nonneg : Bool
  nonz : Bool
  negz : Bool
  ovf : Bool
  ovs : Bool
  nan : Option Nat
  pinf : Option Nat
  ninf : Option Nat
  seen : Bool
deriving DecidableEq, Repr

def ExSum.empty : ExSum := ⟨0, false, false, false, false, false, none, none, none, false⟩

/-- An origin (LCN, index) as R222 lays it out: the order of R111 is that of the numbers. -/
def origin (lcn idx : Nat) : Nat := lcn % 2 ^ 26 * 2 ^ 32 + idx % 2 ^ 32

/-- The least of two origins. -/
def leastOrg (a : Option Nat) (o : Nat) : Option Nat :=
  match a with
  | some x => some (Min.min x o)
  | none => some o

/-- The total as a 704-bit two's-complement number. -/
def wrap704 (n : Int) : Int := sext (n % 2 ^ 704).toNat 704

/-- Add one contribution (R108, R111). -/
def ExSum.add (e : ExSum) (v : Val) (org : Nat) : ExSum :=
  match v with
  | .nan _ _ => { e with nan := leastOrg e.nan org, nonneg := true, seen := true }
  | .inf false => { e with pinf := leastOrg e.pinf org, nonneg := true, seen := true }
  | .inf true => { e with ninf := leastOrg e.ninf org, nonneg := true, seen := true }
  | .fin s x =>
    if x.isZero then (if s then { e with negz := true, seen := true } else { e with nonneg := true, seen := true }) else
    let t := e.sum + termAt (-300) (.fin s x)
    let out := decide (t < -2 ^ 703) || decide (2 ^ 703 ≤ t)
    { e with sum := wrap704 t, nonneg := true, nonz := true, seen := true, ovf := e.ovf || out,
             ovs := if e.ovf then e.ovs else out && decide (t < 0) }

/-- Origin of the NaN that the slot reads as (R109, R111). -/
def ExSum.nanOrg (e : ExSum) : Option Nat :=
  match e.pinf, e.ninf with
  | some a, some b => some (match e.nan with | some n => Min.min n (Min.min a b) | none => Min.min a b)
  | _, _ => e.nan

/-- The value that the slot reads as, before its one rounding (R108, R109, R111). -/
def ExSum.value (rd : Bool) (e : ExSum) : Val × Fl :=
  match e.nanOrg with
  | some o => (.nan false (2 ^ 22 + o / 2 ^ 32 % 2 ^ 22), .none)
  | none =>
    if e.pinf.isSome then (.inf false, .none)
    else if e.ninf.isSome then (.inf true, .none)
    else if e.ovf then (.inf e.ovs, { ovf := true })
    else if 2 ^ 640 ≤ e.sum.natAbs then (.inf (decide (e.sum < 0)), { ovf := true })
    else if e.sum = 0 then
      let s := if !e.seen then false else if !e.nonneg then true else if !e.nonz && !e.negz then false else rd
      (.fin s (.dy 0 0), .none)
    else (.int e.sum (-300), .none)

/-- The image of 16 doublewords (R222). -/
def ExSum.toDws (e : ExSum) : List W64 :=
  let n := (e.sum % 2 ^ 704).toNat
  let f (b : Bool) (k : Nat) : Nat := if b then 2 ^ k else 0
  (upTo 11).map (fun i => w64 (n / 2 ^ (64 * i))) ++
    [w64 (f e.negz 7 + f e.nonz 6 + f e.ovs 5 + f e.ovf 4 + f e.nan.isSome 3 + f e.ninf.isSome 2 + f e.pinf.isSome 1 + f e.nonneg 0),
     w64 (e.nan.getD 0), w64 (e.pinf.getD 0), w64 (e.ninf.getD 0), b64 e.seen]

/-- A slot from its image. -/
def ExSum.ofDws (ws : List W64) : ExSum :=
  let dw (i : Nat) : W64 := ws.getD i 0
  let f := dw 11
  let org (k i : Nat) : Option Nat := if bit f k then some (bf (dw i) 0 58) else none
  ⟨sext ((upTo 11).foldl (fun a i => a + (dw i).toNat * 2 ^ (64 * i)) 0) 704, bit f 0, bit f 6, bit f 7, bit f 4, bit f 5,
    org 3 12, org 1 13, org 2 14, bit (dw 15) 0⟩

end Sys2Proof.Machine
end

