-- ==== Sys2Proof/Machine/Teller.lean ====
section
/-!
DEFINITION. The tellers of the yards (R220 to R222): input ports, hot lines, live exact slots, and the operations of R218.
-/
namespace Sys2Proof.Machine

/-! ### Operations (R218, R223) -/

/-- The new word of an AMO, of M, x and s[d] at issue. -/
def amoNew (op : Nat) (m x y : W64) : W64 :=
  match op with
  | 0 => m + x
  | 1 => x
  | 2 => if m = y then x else m
  | 3 => if m.slt x then m else x
  | 4 => if m.slt x then x else m
  | 5 => if m.ult x then m else x
  | 6 => if m.ult x then x else m
  | 7 => m &&& x
  | 8 => m ||| x
  | _ => m ^^^ x

/-- The encoding and rounding mode that a readout selects (R223). -/
def getMode (x : W64) : RMode := BitVec.ofNat 2 (bf x 16 2)

/-- What REDGET reads of a slot with selector x and draw u: the value, the origin, and the flags. -/
def slotGet (e : ExSum) (x : W64) (u : Nat) : W64 × W64 × Fl :=
  let mode := getMode x
  let (v, f1) := e.value (mode == 2#2)
  let org := match e.nanOrg with | some o => w64 (2 ^ 63 + o % 2 ^ 58) | none => 0
  if bf x 0 4 = 9 then
    let (b, f2) := Enc.cq32.round (sext (bf x 8 8) 8) 0 mode u false v
    (i64 (sext b 32), org, f1.or { f2 with nv := f2.nv || f2.sat })
  else
    let (b, f2) := fp32.round mode u false v
    (w64 b, org, f1.or f2)

/-- The contribution of REDX or REDQ (R218). -/
def redVal (op : Nat) (x : W64) : Val :=
  if op = 10 then fp32.read (bf x 0 32) else .int (sext (bf x 0 32) 32) (sext (bf x 32 8) 8)

/-! ### Live slots (R222) -/

/-- The hot line of a home. -/
def Home.line : Home → Home
  | .mem a => .mem (a / 64 * 64)
  | .host a => .host (a / 64 * 64)
  | .loc q l o => .loc q l (o / 64 * 64)

/-- Requests wait in the FIFO of the line. -/
def Teller.busy (t : Teller) (h : Home) : Bool := t.lines.any fun l => l.1 == h.line && !l.2.isEmpty

/-- Doublewords of a list of bytes. -/
def dwsOf : List Byte → List W64
  | a :: b :: c :: d :: e :: f :: g :: h :: t => w64 (ofBytes [a, b, c, d, e, f, g, h]) :: dwsOf t
  | _ => []

def bytesOf (ws : List W64) : List Byte := ws.flatMap fun w => toBytes 8 w.toNat

/-- Write a slot to its home. -/
def State.slotBack (s : State) (e : ExSlot) : State := s.homeWrite e.home (bytesOf e.dws)

def State.setTeller (s : State) (y : Nat) (f : Teller → Teller) : State := s.setYard y fun t => { t with teller := f t.teller }

/-- The slot at a home, most recently used from now on: a live one, or one loaded from its home after the least recently used slot with an
empty FIFO has been written back when 64 are live. None while no slot can be replaced. -/
def State.slotAt (s : State) (y : Nat) (h : Home) : Option (ExSum × State) :=
  let t := (s.yard y).teller
  match t.slots.find? (·.home == h) with
  | some e => some (ExSum.ofDws e.dws, s.setTeller y fun t => { t with slots := e :: t.slots.filter (·.home != h) })
  | none =>
    let load (s : State) : ExSum × State :=
      let dws := dwsOf (s.homeRead h 128)
      (ExSum.ofDws dws, s.setTeller y fun t => { t with slots := ⟨h, dws⟩ :: t.slots })
    if t.slots.length < 64 then some (load s) else
    match (t.slots.filter fun e => !t.busy e.home).getLast? with
    | none => none
    | some e => some (load ((s.slotBack e).setTeller y fun t => { t with slots := t.slots.filter (·.home != e.home) }))

/-- Perform one request at teller y: the reply's two doublewords and flags. None while it has to wait for a slot. -/
def State.tellerDo (s : State) (y : Nat) (r : TReq) : Option (W64 × W64 × Fl × State) :=
  if r.op < 10 then
    -- a core's own atomics act on its memory as its task sees it, those of others on its own bytes (log entry 74)
    let own := r.now && (match r.home with | .loc q l _ => s.isCur q l | _ => true)
    let m := w64 (ofBytes (if own then s.homeRead r.home 8 else s.homeView r.home 8))
    let new := toBytes 8 (amoNew r.op m r.x r.y).toNat
    some (m, 0, .none, if own then s.homeWrite r.home new else s.homePut r.home new)
  else
    match s.slotAt y r.home with
    | none => none
    | some (e, s) =>
      if r.op = 13 then
        some (0, 0, .none, (s.setTeller y fun t => { t with slots := t.slots.filter (·.home != r.home) }).homeWrite r.home (List.replicate 128 0))
      else if r.op = 12 then
        let (v, o, f) := slotGet e r.x r.y.toNat
        some (v, o, f, s)
      else
        let e := e.add (redVal r.op r.x) r.origin.toNat
        some (0, 0, .none, s.setTeller y fun t => { t with slots := t.slots.map fun x => if x.home == r.home then ⟨r.home, e.toDws⟩ else x })

/-! ### Acceptance and execution (R221) -/

/-- A head can be accepted: its line is present with fewer than 16 requests, or a line can be taken. -/
def Teller.canTake (t : Teller) (r : TReq) : Bool :=
  match t.lines.find? (·.1 == r.home.line) with
  | some l => decide (l.2.length < 16)
  | none => decide (t.lines.length < 256) || t.lines.any (·.2.isEmpty)

/-- Put a request into the FIFO of its line; an empty line is replaced when the store is full. -/
def Teller.take (t : Teller) (r : TReq) : Teller :=
  let h := r.home.line
  if t.lines.any (·.1 == h) then { t with lines := t.lines.map fun l => if l.1 == h then (h, l.2 ++ [r]) else l }
  else if t.lines.length < 256 then { t with lines := t.lines ++ [(h, [r])] }
  else
    match t.lines.find? (·.2.isEmpty) with
    | some l => { t with lines := (t.lines.filter (· != l)) ++ [(h, [r])] }
    | none => t

/-- One cycle of acceptance: the head of the first port after the last one served that can be accepted. -/
def Teller.accept (t : Teller) : Teller :=
  let try1 (k : Nat) : Option Nat :=
    match (t.ports.getD k []).head? with
    | some r => if t.canTake r then some k else none
    | none => none
  match ([1, 2, 3, 4].filterMap fun d => try1 ((t.last + d) % 4)).head? with
  | some k =>
    match t.ports.getD k [] with
    | r :: rest => { t.take r with ports := t.ports.set k rest, last := k }
    | [] => t
  | none => t

/-- Reply to the sender of a request on another module (R86): the flags of a readout in bits [62:58] of the second doubleword. -/
def State.tellerReply (s : State) (yard : Nat) (r : TReq) (x y : W64) (f : Fl) : State :=
  s.emitFrom (yardCore yard) (.reply r.src r.srcInc r.tag 5 [x, y ||| (f.fflags <<< 58)])

/-- One cycle of execution: the first line that holds a request that can be performed performs its oldest one. The answer of a request of the current
core's own step comes back with the state; any other leaves as a reply. DESIGN CHOICE on which line comes next: log entry 105. -/
def State.tellerCycle (s : State) (y : Nat) : Option (Option (W64 × W64 × Fl) × State) :=
  let t := (s.yard y).teller
  let go (l : Home × List TReq) : Option (Option (W64 × W64 × Fl) × State) :=
    match l.2 with
    | [] => none
    | r :: rest =>
      let s1 := s.setTeller y fun t => { t with lines := t.lines.map fun m => if m.1 == l.1 then (l.1, rest) else m }
      match s1.tellerDo y r with
      | none => none
      | some (a, b, f, s1) => some (if r.now then (some (a, b, f), s1) else (none, s1.tellerReply y r a b f))
  (t.lines.filterMap go).head?

/-- The same for a step of its own. -/
def State.tellerRun (s : State) (y : Nat) : Option State := (s.tellerCycle y).map (·.2)

/-- Cycles of acceptance and execution until the request of the current core's own step is performed; none when the teller cannot go on so far. -/
def State.tellerUntil (s : State) (y : Nat) : Nat → Option (W64 × W64 × Fl × State)
  | 0 => none
  | n + 1 =>
    let s := s.setTeller y Teller.accept
    match s.tellerCycle y with
    | some (some (a, b, f), s) => some (a, b, f, s)
    | some (none, s) => State.tellerUntil s y n
    | none => none

/-- The input port at which a request of a core of yard `mine` reaches teller y (R221): its own yard, the other yards of its die, the fabric. -/
def tellerPort (mine y : Nat) : Nat := if mine = y then 0 else if mine / 32 = y / 32 then 1 else 2

/-- A request of a core of this module, or of its engine, joins the queue of port k and is performed in its turn (R221); none while the queue is full, or while the teller has no
line or slot for it: the core waits. -/
def State.tellerNow (s : State) (k : Nat) (r : TReq) : Option (W64 × W64 × Fl × State) :=
  let y := s.homeYard r.home
  if 32 ≤ ((s.yard y).teller.ports.getD k []).length then none else
  (s.setTeller y fun t => { t with ports := t.ports.modify k (· ++ [r]) }).tellerUntil y 4400

/-- Write back and free the live slots that `p` selects in yard y (R394, R396). -/
def State.flushSlots (s : State) (y : Nat) (p : Home → Bool) : State :=
  let t := (s.yard y).teller
  let s := s.setTeller y fun t => { t with slots := t.slots.filter fun e => !p e.home }
  (t.slots.filter fun e => p e.home).foldl State.slotBack s

end Sys2Proof.Machine
end

