-- ==== Sys2Proof/Machine/Atom.lean ====
section
/-!
DEFINITION. The atomic instructions (R218 to R223).
-/
namespace Sys2Proof.Machine

/-- The logical core that contributions originate from: the home of the current task (R111). -/
def Core.orgLcn (c : Core) : Nat :=
  match c.task with
  | some t => t.home
  | none => c.lcn.toNat

/-- Origin of REDX and REDQ (R111, R222). -/
def Core.redOrg (c : Core) : Nat := origin c.orgLcn (bf c.streamid 0 32)

/-- The order code releases, acquires (R218). -/
def ordRel (r : BitVec 2) : Bool := r == 2#2 || r == 3#2
def ordAcq (r : BitVec 2) : Bool := r == 1#2 || r == 3#2

/-- A posted store of the core is still outstanding in the space that holds the place, or an STFL. -/
def Core.postedTo (c : Core) (p : Place) : Bool := c.posted.any fun e => e.full || (e.place.key.1 == p.key.1 && e.place.key.2.1 == p.key.2.1)

/-- The atomic has its reply: the acquire drops the far lines (R236), an access to a line invalidates the requester's copy (R220), and the
results land. -/
def State.atomDone (s : State) (r : BitVec 2) (la : BitVec 4) (p : Option (Nat × Nat × Nat)) (drew : Bool) (f : Fl) (ws : List Wr) : State :=
  let upd (c : Core) : Core :=
    let c := match p with
      | some k => { c with l1 := c.l1.filter fun l => !l.covers k 1 }
      | none => c
    let c := if drew then { c with srbase := c.srbase + 1#64 } else c
    c.raise f
  let s := s.setCore upd
  let s := if ordAcq r then s.acquire else s
  s.landL la ws

/-- An atomic of op5 code `op`: `cmp` is s[d] for AMOCAS, `res` the writes that its reply makes (R218, R219, R220). -/
def atom (op : Nat) (rs ws : List SReg) (cmp : State → W64) (r : BitVec 2) (la : BitVec 4) (res : W64 → W64 → List Wr) (s : State) : State :=
  s.operandsL la true rs ws fun vs s0 s =>
    let va := vs.getD 0 0
    let x := vs.getD 1 0
    let size := if op < 10 then 8 else 128
    let fault (f : Byte × W64) : State := s0.trapL la f.1 f.2
    if va.toNat % size ≠ 0 then s0.trapL la 0x02#8 va else
    let drew := op == 12 && getMode x == 3#2
    let c := s.core
    let y : W64 := if op = 12 then w64 (draw c.mintkey c.srbase) else if op = 10 ∨ op = 11 then w64 c.redOrg else cmp s
    let flags (v : W64) : Fl := ⟨bit v 62, bit v 61, bit v 60, bit v 59, bit v 58, false, false⟩
    match s0.core.answer va with
    | .waiting => s0.waitL la
    | .nack n => fault (nackFault .atomic va n)
    | .reply f ws => let w := ws.getD 1 0; s.atomDone r la (some f.key) drew (flags w) (res (ws.getD 0 0) (w &&& ~~~(at64 31 58)))
    | .none =>
      match s.xlat true .atomic va with
      | .error e => fault (xFault .atomic va e)
      | .ok (p, s1) =>
        let hostBad := match p with
          | .host _ _ _ => decide (2 < op)
          | .far _ _ _ h _ => h && decide (2 < op)
          | .ctl _ => true
          | _ => false
        let beyond := match s1.limit p with | some (o, m) => decide (m < o + size) | none => false
        if hostBad || beyond then fault (xFault .atomic va 6) else
        match s1.badAt p size with
        | some f => fault f
        | none =>
        let d := (s1.fixAt p size).drainAll
        if (ordRel r && !d.core.posted.isEmpty) || d.core.postedTo p then s0.drainAll.waitL la else
        match p with
        | .host a _ _ =>
          let m := w64 (Memory.num d.hostMem a 8)
          let d := { d with hostMem := Memory.write d.hostMem a (toBytes 8 (amoNew op m x y).toNat) }
          d.atomDone r la (some p.key) drew .none (res m 0)
        | _ =>
          match d.homeOf p with
          | some h =>
            let pa := match p with | .mem _ _ => some p.key | _ => none
            match d.tellerNow (tellerPort (pcYard c.pcid) (d.homeYard h)) ⟨op, h, x, y, BitVec.ofNat 58 c.redOrg, 0, 0, 0, true⟩ with
            | some (v, w, f, d) => d.atomDone r la pa drew f (res v w)
            | none => s0.drainAll.waitL la
          | none => (s0.drainAll.seen (d.counted p va)).ask la p size va fun t => .atomic t p op x y

/-- An AMO. -/
def amo (op : Nat) (d a b : SReg) (r : BitVec 2) (la : BitVec 4) (s : State) : State :=
  atom op [a, b] [d] (fun s => s.rd d) r la (fun v _ => [.s d v]) s

def execAmoadd (d a b : BitVec 5) (r : BitVec 2) (l : BitVec 4) (s : State) : Out := .next (amo 0 d a b r l s)
def execAmoswp (d a b : BitVec 5) (r : BitVec 2) (l : BitVec 4) (s : State) : Out := .next (amo 1 d a b r l s)
def execAmocas (d a b : BitVec 5) (r : BitVec 2) (l : BitVec 4) (s : State) : Out := .next (amo 2 d a b r l s)
def execAmomin (d a b : BitVec 5) (r : BitVec 2) (l : BitVec 4) (s : State) : Out := .next (amo 3 d a b r l s)
def execAmomax (d a b : BitVec 5) (r : BitVec 2) (l : BitVec 4) (s : State) : Out := .next (amo 4 d a b r l s)
def execAmominu (d a b : BitVec 5) (r : BitVec 2) (l : BitVec 4) (s : State) : Out := .next (amo 5 d a b r l s)
def execAmomaxu (d a b : BitVec 5) (r : BitVec 2) (l : BitVec 4) (s : State) : Out := .next (amo 6 d a b r l s)
def execAmoand (d a b : BitVec 5) (r : BitVec 2) (l : BitVec 4) (s : State) : Out := .next (amo 7 d a b r l s)
def execAmoor (d a b : BitVec 5) (r : BitVec 2) (l : BitVec 4) (s : State) : Out := .next (amo 8 d a b r l s)
def execAmoxor (d a b : BitVec 5) (r : BitVec 2) (l : BitVec 4) (s : State) : Out := .next (amo 9 d a b r l s)

def execRedx (a b : BitVec 5) (r : BitVec 2) (l : BitVec 4) (s : State) : Out := .next (atom 10 [a, b] [] (fun _ => 0) r l (fun _ _ => []) s)
def execRedq (a b : BitVec 5) (r : BitVec 2) (l : BitVec 4) (s : State) : Out := .next (atom 11 [a, b] [] (fun _ => 0) r l (fun _ _ => []) s)

/-- R223: s[d] and s[d + 1]; d is even and not 0, of which the word carries the four high bits. -/
def execRedget (d : BitVec 4) (a b : BitVec 5) (r : BitVec 2) (l : BitVec 4) (s : State) : Out := .next <|
  let e : SReg := d ++ 0#1
  let o : SReg := d ++ 1#1
  atom 12 [a, b] [e, o] (fun _ => 0) r l (fun v w => [.s e v, .s o w]) s

def execRedclr (a : BitVec 5) (r : BitVec 2) (l : BitVec 4) (s : State) : Out := .next (atom 13 [a] [] (fun _ => 0) r l (fun _ _ => []) s)

end Sys2Proof.Machine
end

