-- ==== Sys2Proof/Machine/Handle.lean ====
section
/-!
DEFINITION. Cochain handles (R41 to R43), the checks of R44, and the elements that handles name (R42, R266).
-/
namespace Sys2Proof.Machine

/-- A field of a handle (R41). -/
def hf (h : Handle) (lo w : Nat) : Nat := fld h.toNat lo w

/-- A handle with one field replaced by the low bits of v. -/
def setHf (h : Handle) (lo w v : Nat) : Handle :=
  BitVec.ofNat 128 (h.toNat - hf h lo w * 2 ^ lo + v % 2 ^ w * 2 ^ lo)

def hKind (h : Handle) : Nat := hf h 124 4
def hDeg (h : Handle) : Nat := hf h 122 2
def hCplx (h : Handle) : Nat := hf h 104 16
def hPatch (h : Handle) : Nat := hf h 88 16
def hE (h : Handle) : Int := sext (hf h 80 8) 8
def hBase (h : Handle) : Nat := hf h 62 18
def hLen (h : Handle) : Nat := hf h 46 16
def hTy (h : Handle) : Bool := h.getLsbD 42

/-- Residency slots (R38): n and the counts of a degree (R32). -/
def Slot.n (x : Slot) : Nat := bf (x.hdr.getD 0 0) 32 2
def Slot.owned (x : Slot) (k : Nat) : Nat := bf (x.hdr.getD 1 0) (13 * k) 13
def Slot.total (x : Slot) (k : Nat) : Nat := bf (x.hdr.getD 2 0) (13 * k) 13

/-- The slot of this core that holds a patch (R38). -/
def Core.slotOf (c : Core) (cplx patch : Nat) : Option Slot :=
  (c.slots.filterMap id).find? fun x => x.cplx == cplx && x.patch == patch

/-- A handle operand: its position (0 kd, 1 ka, 2 kb), register, value, the BAYFMT of its bay, and whether the instruction reads its
elements. -/
structure HV where
  pos : Nat
  reg : KReg
  h : Handle
  fmt : W64
  src : Bool
deriving DecidableEq, Repr

namespace HV

def kind (v : HV) : Nat := hKind v.h
def deg (v : HV) : Nat := hDeg v.h
def cplx (v : HV) : Nat := hCplx v.h
def patch (v : HV) : Nat := hPatch v.h
def base (v : HV) : Nat := hBase v.h
def len (v : HV) : Nat := hLen v.h
def enc (v : HV) : Enc := Enc.ofCode (bf v.fmt 0 4)

/-- Element width in bytes; a BIT element is a bit of a byte (R42). -/
def w (v : HV) : Nat := if v.enc = .bit then 1 else v.enc.bits / 8

/-- Bytes of all the elements. -/
def bytes (v : HV) : Nat := if v.enc = .bit then cdiv v.len 8 else v.len * v.w

/-- Scales (R42, R93, R94). -/
def E (v : HV) : Int := hE v.h
def S (v : HV) : Int := sext (bf v.fmt 11 8) 8

/-- A cochain or chain: kinds 2 to 4. -/
def onPatch (v : HV) : Bool := v.kind == 2 || v.kind == 3 || v.kind == 4

/-- Degree of the simplices that index a handle on a patch of dimension n (R43). -/
def idxDeg (v : HV) (n : Nat) : Nat := if v.kind = 3 then n - v.deg else v.deg

/-- Two handles of an elementwise instruction agree (R44 0x06). -/
def agree (a b : HV) : Bool :=
  a.len == b.len && (!a.onPatch || !b.onPatch || (a.kind == b.kind && a.deg == b.deg && a.cplx == b.cplx && a.patch == b.patch))

/-- The scales of two handles agree where both are CQ (R44 0x07). -/
def sameE (a b : HV) : Bool := !a.enc.isCq || !b.enc.isCq || a.E == b.E

/-- Element i as bits, as they lie in the core's local memory (R42, R264). -/
def bits (v : HV) (c : Core) (i : Nat) : Nat :=
  if v.enc = .bit then (c.locByte (v.base + i / 8)).toNat / 2 ^ (i % 8) % 2 else ofBytes (c.locRead (v.base + i * v.w) v.w)

/-- The exact value of bits in this bay (R266). -/
def valOf (v : HV) (b : Nat) : Val := v.enc.val v.E v.S b

/-- The exact value of element i (R266). -/
def val (v : HV) (c : Core) (i : Nat) : Val := v.valOf (v.bits c i)

/-- Write element i. -/
def put (v : HV) (c : Core) (i b : Nat) : Core :=
  if v.enc = .bit then
    let x := (c.locByte (v.base + i / 8)).toNat
    c.locWrite (v.base + i / 8) (toBytes 1 (x - x / 2 ^ (i % 8) % 2 * 2 ^ (i % 8) + b % 2 * 2 ^ (i % 8)))
  else c.locWrite (v.base + i * v.w) (toBytes v.w b)

/-- The value rounded once into this bay (R101, R267). -/
def round (v : HV) (mode : RMode) (u : Nat) (sat : Bool) (x : Val) : Nat × Fl := v.enc.round v.E v.S mode u sat x

end HV

/-- The handle in register r as an operand. -/
def Core.hv (c : Core) (pos : Nat) (r : KReg) (src : Bool) : HV :=
  ⟨pos, r, c.rk r, c.bayfmt.toList.getD (hBase (c.rk r) / 32768) 0, src⟩

/-! ### The checks (R44, R263) -/

/-- A failed check. -/
def HV.fail (v : HV) (code : Nat) : Trap := ⟨0x07#8, w64 (v.reg.toNat + v.pos * 16 + code * 256), 0⟩

/-- CAUSE 0x08 (R34). -/
def cplxTrap (cplx patch reason : Nat) : Trap := ⟨0x08#8, w64 (cplx % 65536 + patch % 65536 * 2 ^ 16 + reason * 2 ^ 32), 0⟩

/-- Checks 0x01 and 0x02. -/
def HV.check01 (v : HV) : Option Trap := if 1 ≤ v.kind ∧ v.kind ≤ 5 then none else some (v.fail 1)
def HV.check02 (v : HV) : Option Trap :=
  if v.enc.valued && (v.kind == 5) == (v.enc == .bit) then none else some (v.fail 2)

/-- Check 0x03 and the declared-minimum test that follows it. -/
def HV.check03 (v : HV) (lmin : Nat) : Option Trap :=
  if v.base % v.w ≠ 0 ∨ (v.bytes ≠ 0 ∧ (v.base + v.bytes - 1) / 32768 ≠ v.base / 32768) then some (v.fail 3)
  else if v.bytes ≠ 0 ∧ lmin < v.base + v.bytes then some ⟨0x06#8, w64 ((localBase + Max.max v.base lmin) % 2 ^ 56 + 6 * 2 ^ 56), 0⟩
  else none

/-- Check 0x04. -/
def HV.check04 (v : HV) : Option Trap :=
  if !v.onPatch && (v.deg != 0 || v.cplx != 0 || v.patch != 0) then some (v.fail 4) else none

/-- Check 0x05, in whose place the residency test stands. -/
def HV.check05 (v : HV) (c : Core) : Option Trap :=
  if !v.onPatch then none else
  match c.slotOf v.cplx v.patch with
  | none => some (cplxTrap v.cplx v.patch 1)
  | some x =>
    if v.deg ≤ x.n ∧ (v.len = x.owned (v.idxDeg x.n) ∨ v.len = x.total (v.idxDeg x.n)) then none else some (v.fail 5)

/-- Check 0x08. -/
def HV.check08 (v : HV) : Option Trap := if v.src && hTy v.h then some (v.fail 8) else none

/-- The first of the relations that does not hold, blamed on its handle. -/
def relFail (code : Nat) (rels : List (HV × Bool)) : Option Trap := (rels.find? fun r => !r.2).map fun r => r.1.fail code

/-- The checks of R44 in their order: `vs` in the order kd, ka, kb; `own` what a handle alone must meet, `rels` and `scales` the relations
of checks 0x06 and 0x07. -/
def Core.checkHandles (c : Core) (vs : List HV) (own : HV → Bool) (rels scales : List (HV × Bool)) : Option Trap :=
  (vs.findSome? HV.check01).or <|
  (vs.findSome? HV.check02).or <|
  (vs.findSome? fun v => v.check03 c.lmin).or <|
  (vs.findSome? HV.check04).or <|
  (vs.findSome? fun v => v.check05 c).or <|
  (relFail 6 (vs.map fun v => (v, own v))).or <|
  (relFail 6 rels).or <|
  (relFail 7 scales).or (vs.findSome? HV.check08)

/-- Relations of an elementwise instruction with kd, ka and kb: ka is the reference (R44). -/
def elemRels (d a b : HV) : List (HV × Bool) := [(d, d.agree a), (b, b.agree a), (d, d.agree b)]

/-- Equal E on every CQ handle, with ka the reference (R44 0x07, R268). -/
def elemScales (d a b : HV) : List (HV × Bool) := [(d, d.sameE a), (b, b.sameE a), (d, d.sameE b)]

end Sys2Proof.Machine
end

