-- ==== Sys2Proof/Machine/CplxRec.lean ====
section
/-!
DEFINITION. Patch records (R32, R33), what a well-formed one keeps (R34), and the complex cache that shows them (R38 to R40).
-/
namespace Sys2Proof.Machine

/-! ### Tables (R32, R33) -/

/-- The doubleword and the word at an offset of the record. -/
def RecV.dw (r : RecV) (o : Nat) : W64 := w64 (ofBytes ((r.bytes.drop o).take 8))
def RecV.w (r : RecV) (o : Nat) : Nat := ofBytes ((r.bytes.drop o).take 4)

def RecV.own (r : RecV) (k : Nat) : Nat := r.owned.getD k 0
def RecV.tot (r : RecV) (k : Nat) : Nat := r.total.getD k 0
def RecV.ghosts (r : RecV) (k : Nat) : Nat := r.tot k - r.own k

/-- Sum of f over the degrees lo to k - 1. -/
def degSum (f : Nat → Nat) (lo k : Nat) : Nat := ((upTo k).filter fun i => decide (lo ≤ i)).foldl (fun a i => a + f i) 0

def RecV.rmapOn (r : RecV) : Bool := bit (r.dw 0) 40
def RecV.gidOff (r : RecV) : Nat := bf (r.dw 24) 32 32
def RecV.incOff (r : RecV) : Nat := bf (r.dw 24) 0 32
def RecV.metOff (r : RecV) : Nat := bf (r.dw 32) 32 32
def RecV.ghOff (r : RecV) : Nat := bf (r.dw 32) 0 32
def RecV.rmOff (r : RecV) : Nat := bf (r.dw 40) 32 32
def RecV.crdOff (r : RecV) : Nat := bf (r.dw 40) 0 32

/-- Offsets of the entries of element j of degree k. -/
def RecV.incAt (r : RecV) (k j : Nat) : Nat := r.incOff + 8 * (degSum r.tot 1 k + j)
def RecV.gidAt (r : RecV) (k j : Nat) : Nat := r.gidOff + 8 * (degSum r.tot 0 k + j)
def RecV.metAt (r : RecV) (k j : Nat) : Nat := r.metOff + 4 * (degSum r.tot 0 k + j)
def RecV.ghAt (r : RecV) (k j : Nat) : Nat := r.ghOff + 8 * (degSum r.ghosts 0 k + (j - r.own k))
def RecV.rmAt (r : RecV) (k j : Nat) : Nat := r.rmOff + 8 * (degSum r.tot 0 k + j)
def RecV.crdAt (r : RecV) (j : Nat) : Nat := r.crdOff + 12 * j

def RecV.inc (r : RecV) (k j : Nat) : W64 := r.dw (r.incAt k j)
def RecV.facet (r : RecV) (k j i : Nat) : Nat := bf (r.inc k j) (12 * i) 12
def RecV.gid (r : RecV) (k j : Nat) : Nat := bf (r.dw (r.gidAt k j)) 0 40
def RecV.metric (r : RecV) (k j : Nat) : Nat := r.w (r.metAt k j)
def RecV.ghost (r : RecV) (k j : Nat) : W64 := if j < r.own k then 0 else r.dw (r.ghAt k j)
def RecV.rmap (r : RecV) (k j : Nat) : W64 := r.dw (r.rmAt k j)

/-- Coordinate x of a vertex: FP32 bits of axis x. -/
def RecV.crd (r : RecV) (j x : Nat) : Nat := r.w (r.crdAt j + 4 * x)

/-- The vertices of element j of degree k by ascending id, as local indices: facet 1 gives the first and facet 0 the rest (R31). -/
def RecV.verts (r : RecV) : Nat → Nat → List Nat
  | 0, j => [j]
  | k + 1, j => ((RecV.verts r k (r.facet (k + 1) j 1)).take 1) ++ RecV.verts r k (r.facet (k + 1) j 0)

/-- Vertices as global ids. -/
def RecV.ids (r : RecV) (k j : Nat) : List Nat := (r.verts k j).map (r.gid 0)

/-- The element of degree k with these vertices (local indices, by ascending id). -/
def RecV.findElem (r : RecV) (k : Nat) (vs : List Nat) : Option Nat := (upTo (r.tot k)).find? fun j => r.verts k j == vs

/-! ### Well-formed records (R34) -/

/-- The degrees 0 to n. -/
def RecV.degs (r : RecV) : List Nat := upTo (r.n + 1)

/-- Condition 0x02 on the header at a record address. -/
def headOk (va : Nat) (h : List W64) : Bool :=
  let d (i : Nat) : W64 := h.getD i 0
  let len := bf (d 6) 0 32
  bf (d 0) 36 4 == 1 && bf (d 0) 41 23 == 0 && bf (d 0) 34 2 == 0 && bf (d 1) 52 12 == 0 && bf (d 2) 52 12 == 0 && bf (d 6) 32 32 == 0
    && d 7 == 0#64 && bit (d 0) 40 == (bf (d 5) 32 32 != 0) && va % 64 == 0 && decide (va + len ≤ winBase)
    && decide (64 ≤ len) && len % 8 == 0 && decide (len ≤ 1048576)

/-- Condition 0x03. -/
def countsOk (n : Nat) (owned total : List Nat) : Bool :=
  (upTo 4).all fun k => if k ≤ n then decide (owned.getD k 0 ≤ total.getD k 0) && decide (total.getD k 0 ≤ 4096)
    else owned.getD k 0 == 0 && total.getD k 0 == 0

/-- The tables that have entries: offset and length. -/
def RecV.tables (r : RecV) : List (Nat × Nat) :=
  let all := degSum r.tot 0 (r.n + 1)
  [(r.incOff, 8 * degSum r.tot 1 (r.n + 1)), (r.gidOff, 8 * all), (r.ghOff, 8 * degSum r.ghosts 0 (r.n + 1)), (r.metOff, 4 * all),
    (r.crdOff, 12 * r.tot 0), (r.rmOff, if r.rmapOn then 8 * all else 0)].filter fun t => t.2 != 0

/-- No two of the ranges share a byte. -/
def disjoint : List (Nat × Nat) → Bool
  | [] => true
  | t :: ts => ts.all (fun u => decide (t.1 + t.2 ≤ u.1) || decide (u.1 + u.2 ≤ t.1)) && disjoint ts

/-- Condition 0x04, with the alignment of R33. -/
def RecV.tablesOk (r : RecV) (len : Nat) : Bool :=
  r.tables.all (fun t => t.1 % 8 == 0 && decide (64 ≤ t.1) && decide (t.1 + t.2 ≤ len)) && disjoint r.tables

/-- Every element of degree k keeps p. -/
def RecV.allOf (r : RecV) (k : Nat) (p : Nat → Bool) : Bool := (upTo (r.tot k)).all p

/-- Condition 0x05 on element j of degree k. -/
def RecV.facetOk (r : RecV) (k j : Nat) : Bool :=
  k == 0 || (bf (r.inc k j) 52 12 == 0 && (upTo 4).all fun i => if i ≤ k then decide (r.facet k j i < r.tot (k - 1)) else r.facet k j i == 0)

/-- Condition 0x05. -/
def RecV.facetsOk (r : RecV) : Bool := r.degs.all fun k => r.allOf k (r.facetOk k)

/-- Strictly ascending. -/
def ascending : List Nat → Bool
  | a :: b :: r => decide (a < b) && ascending (b :: r)
  | _ => true

/-- What condition 0x06 asks of the entry of element j of degree k alone. -/
def RecV.signOk (r : RecV) (k j : Nat) : Bool :=
  let fs := (upTo (k + 1)).map (r.facet k j)
  k == 0 || (fs.length == fs.dedup.length && bf (r.inc k j) 48 4 == (if k = 3 then 10 else 2))

/-- What condition 0x06 asks of the vertex sets of the facets of element j of degree k. -/
def RecV.setsOk (r : RecV) (k j : Nat) : Bool :=
  let vs := r.verts k j
  k == 0 || (ascending (r.ids k j) && (upTo (k + 1)).all fun i => r.verts (k - 1) (r.facet k j i) == vs.eraseIdx i)

/-- Condition 0x06. -/
def RecV.orderOk (r : RecV) : Bool := r.degs.all fun k => r.allOf k fun j => r.signOk k j && r.setsOk k j

/-- What condition 0x07 asks of one global-id word. -/
def RecV.gidOk (r : RecV) (k j : Nat) : Bool := bf (r.dw (r.gidAt k j)) 40 24 == 0

/-- Condition 0x07. -/
def RecV.idsOk (r : RecV) : Bool :=
  r.degs.all fun k =>
    let gs := (upTo (r.tot k)).map (r.gid k)
    let vs := (upTo (r.tot k)).map (r.verts k)
    gs.length == gs.dedup.length && vs.length == vs.dedup.length && r.allOf k (r.gidOk k)

/-- Condition 0x08 on element j of degree k. -/
def RecV.ghostOk (r : RecV) (ncores k j : Nat) : Bool :=
  decide (j < r.own k) ||
    (decide (bf (r.ghost k j) 0 26 < ncores) && decide (bf (r.ghost k j) 26 12 < 4096) && bf (r.ghost k j) 38 26 == 0)

/-- Condition 0x08. -/
def RecV.ghostsOk (r : RecV) (ncores : Nat) : Bool := r.degs.all fun k => r.allOf k (r.ghostOk ncores k)

/-- FP32 bits of a finite value. -/
def finite32 (b : Nat) : Bool := fld b 23 8 != 255

/-- The coordinates of vertex j are finite. -/
def RecV.crdOk (r : RecV) (j : Nat) : Bool := (upTo 3).all fun x => finite32 (r.crd j x)

/-- Condition 0x09. -/
def RecV.finiteOk (r : RecV) : Bool :=
  (r.degs.all fun k => r.allOf k fun j => finite32 (r.metric k j)) && r.allOf 0 r.crdOk

/-- Kind, half, parent degree and parent of an entry of the refinement map (R33). -/
def rmKind (e : W64) : Nat := bf e 14 2
def rmHalf (e : W64) : Bool := bit e 16
def rmDeg (e : W64) : Nat := bf e 12 2
def rmPar (e : W64) : Nat := bf e 0 12

/-- Condition 0x0A on the entry of element j of degree k. -/
def RecV.mapOk (r : RecV) (k j : Nat) : Bool :=
  let e := r.rmap k j
  let d := rmDeg e
  (match rmKind e with
   | 0 => d == k
   | 1 => k == 0 && d == 1
   | 2 => k == 1 && d == 1
   | _ => (k == 1 || k == 2) && d == 2) && (!rmHalf e || rmKind e == 2) && bf e 17 47 == 0

/-- Condition 0x0A. -/
def RecV.rmapOk (r : RecV) : Bool := !r.rmapOn || (decide (r.n ≤ 2) && r.degs.all fun k => r.allOf k (r.mapOk k))

/-- The first of the conditions 0x05 to 0x0A that fails. -/
def RecV.bodyFail (r : RecV) (ncores : Nat) : Option Nat :=
  if !r.facetsOk then some 5 else if !r.orderOk then some 6 else if !r.idsOk then some 7
  else if !r.ghostsOk ncores then some 8 else if !r.finiteOk then some 9 else if !r.rmapOk then some 10 else none

/-! ### Malformed elements (R40) -/

/-- No byte of the range lies in a line that cannot be read. -/
def RecV.shown (r : RecV) (o n : Nat) : Bool := r.miss.all fun l => decide (64 * l + 64 ≤ o) || decide (o + n ≤ 64 * l)

/-- The incidence entries from which the vertices of element j of degree k come, and the ids of those vertices, can be read. -/
def RecV.seen (r : RecV) : Nat → Nat → Bool
  | 0, j => r.shown (r.gidAt 0 j) 8
  | k + 1, j => r.shown (r.incAt (k + 1) j) 8 && (upTo (k + 2)).all fun i => RecV.seen r k (r.facet (k + 1) j i)

/-- Stores have made the incidence, id, metric or ghost entry of element j of degree k malformed: it lies past the record, or breaks R34. What cannot
be read is not held against an element: an instruction that needs it traps (R39). -/
def RecV.malformed (r : RecV) (ncores k j : Nat) : Bool :=
  let entry (o n : Nat) (ok : Bool) : Bool := decide (r.bytes.length < o + n) || (r.shown o n && !ok)
  let others (p : Nat → Bool) : Bool := (upTo (r.tot k)).any fun i => i != j && p i
  (k != 0 && entry (r.incAt k j) 8 (r.facetOk k j && r.signOk k j))
    || (k != 0 && r.seen k j && (!r.setsOk k j || others fun i => r.seen k i && r.verts k i == r.verts k j))
    || entry (r.gidAt k j) 8 (r.gidOk k j && !others fun i => r.shown (r.gidAt k i) 8 && r.gid k i == r.gid k j)
    || entry (r.metAt k j) 4 (finite32 (r.metric k j))
    || (decide (r.own k ≤ j) && entry (r.ghAt k j) 8 (r.ghostOk ncores k j))

/-- Element j of degree k is malformed. -/
def RecV.isBad (r : RecV) (k j : Nat) : Bool := r.bad.contains (k, j)

/-! ### The complex cache (R38 to R40) -/

/-- Lines of 64 bytes in 96 KiB. -/
def cplxLines : Nat := 1536

/-- The error lies in a line of the stable's complex cache (R398). -/
def inCplxLine (st : Nat) (key : Nat × Nat × Nat) (e : ErrLoc) : Bool :=
  match e with | .line n k _ => n == st && k == key | _ => false

/-- Line k of the record at `base` through the complex cache of the core's stable, filled through the yard TLB (R39). The oldest line
makes room (log entry 10). A line read from the cache is checked whole (R399, R401; log entry 95). -/
def State.cplxLine (s : State) (base k : Nat) : Except (Byte × W64) (List Byte × State) :=
  let st := pcStable s.core.pcid
  let key := (s.ctxOf s.core, base, k)
  match (s.stable st).lines.find? (·.1 == key) with
  | some l =>
    match s.bad.find? (inCplxLine st key) with
    | some e => .error (errFault e s.core.pcid)
    | none => .ok (l.2, s.correct (inCplxLine st key))
  | none =>
    match s.unitRead (w64 (base + 64 * k)) 64 with
    | .error e => .error e
    | .ok (bs, s) =>
      let s : State := { s with bad := s.bad.filter fun e => !inCplxLine st key e, soft := s.soft.filter fun e => !inCplxLine st key e }
      .ok (bs, s.setStable st fun t => { t with lines := ((key, bs) :: t.lines).take cplxLines })

/-- The trap of a failed fill (R39, R401). -/
def fillTrap (cplx patch : Nat) (e : Byte × W64) : Trap := if e.1 = 0x1F#8 then ⟨e.1, e.2, 0⟩ else cplxTrap cplx patch 0x0B

/-- Fill lines k, k + 1, … -/
def State.fillLines (s : State) (base k : Nat) : Nat → Except (Byte × W64) State
  | 0 => .ok s
  | m + 1 =>
    match s.cplxLine base k with
    | .error e => .error e
    | .ok (_, s) => State.fillLines s base (k + 1) m

/-- Fill every line that the byte ranges (offset, length) touch. -/
def State.fillRanges (s : State) (base : Nat) : List (Nat × Nat) → Except (Byte × W64) State
  | [] => .ok s
  | (o, n) :: r =>
    match s.fillLines base (o / 64) (if n = 0 then 0 else (o + n - 1) / 64 - o / 64 + 1) with
    | .error e => .error e
    | .ok s => State.fillRanges s base r

/-- Line k of the record as the cache shows it, without a fill: cached, else memory; none where it cannot be read. -/
def State.recLine (s : State) (base k : Nat) : Option (List Byte) :=
  match s.cplxLine base k with
  | .ok (bs, _) => some bs
  | .error _ => none

/-- The bytes of the record as the cache shows them; zero where they cannot be read. -/
def State.recBytes (s : State) (base len : Nat) : List Byte :=
  ((upTo (cdiv len 64)).flatMap fun k => (s.recLine base k).getD (List.replicate 64 0)).take len

/-- The record in slot x as the core's instructions see it now. -/
def State.recView (s : State) (x : Slot) : RecV :=
  let len := Min.min (bf (w64 (ofBytes (s.recBytes x.base 56 |>.drop 48))) 0 32) 1048576
  let miss := (upTo (cdiv len 64)).filter fun k => s.recLine x.base k == none
  let r : RecV := ⟨x.cplx, x.patch, x.base, x.n, (upTo 4).map x.owned, (upTo 4).map x.total, s.recBytes x.base len, miss, []⟩
  { r with bad := r.degs.flatMap fun k => ((upTo (r.tot k)).filter (r.malformed s.core.ncores.toNat k)).map fun j => (k, j) }

/-- The ranges as far as they lie in the record: no instruction reads past it (R40). -/
def RecV.clip (r : RecV) (l : List (Nat × Nat)) : List (Nat × Nat) :=
  (l.filter fun t => decide (t.1 < r.bytes.length)).map fun t => (t.1, Min.min t.2 (r.bytes.length - t.1))

/-- Fill the header and the ranges that `need` asks of the patch, and give the record (R285); the trap of a failed fill. -/
def State.useRec (s : State) (x : Slot) (need : RecV → List (Nat × Nat)) : Except Trap (RecV × State) :=
  match s.fillLines x.base 0 1 with
  | .error e => .error (fillTrap x.cplx x.patch e)
  | .ok s =>
    let r := s.recView x
    match s.fillRanges x.base (r.clip (need r)) with
    | .error e => .error (fillTrap x.cplx x.patch e)
    | .ok s => .ok (s.recView x, s)

end Sys2Proof.Machine
end

