-- ==== Sys2Proof/Machine/CochQ.lean ====
section
/-!
DEFINITION. The cochain queue (R262): what an instruction takes into it at issue, how its elements are rounded and drawn (R267, R105, R107),
and what lands when it completes (R46, R47).
-/
namespace Sys2Proof.Machine

/-! ### Operands of a queued instruction -/

def CochEntry.dreg (e : CochEntry) : KReg := fkd (encode e.instr)
def CochEntry.areg (e : CochEntry) : KReg := fka (encode e.instr)

/-- A handle with the bay format that the instruction read when it was bound (R192). -/
def CochEntry.hv (e : CochEntry) (pos : Nat) (r : KReg) (h : Handle) : HV := ⟨pos, r, h, e.fmts.getD (hBase h / 32768) 0, false⟩
def CochEntry.d (e : CochEntry) : HV := e.hv 0 e.dreg e.kd
def CochEntry.a (e : CochEntry) : HV := e.hv 1 e.areg e.ka
def CochEntry.b (e : CochEntry) : HV := e.hv 2 0 e.kb

/-- The mode of the one rounding into a destination (R267, R107): an integer destination under a MOD prefix rounds by RD. -/
def kMode (vrm : W64) (md : Option Mod) (d : HV) : RMode :=
  if md.isSome && (d.enc.isInt || d.enc == .bit) then 2#2 else vrm.setWidth 2
def CochEntry.mode (e : CochEntry) : RMode := kMode e.vrm e.md e.d

/-- The handle whose kind and elements key the draws of an elementwise result (R267): the destination, or the source whose kind it takes. -/
def drawOf (d a b : HV) : HV := if d.onPatch then d else if a.onPatch then a else if b.onPatch then b else d
def CochEntry.dv (e : CochEntry) : HV := drawOf e.d e.a e.b

/-- The record of the patch that a handle names, as the instruction took it. -/
def CochEntry.rec? (e : CochEntry) (v : HV) : Option RecV := e.recs.find? fun r => r.cplx == v.cplx && r.patch == v.patch

/-- Output of the Mint for element i of v with index j (R105, R267, R279); free for an element that stores have made malformed (R40; log entry 7). -/
def CochEntry.mintAt (e : CochEntry) (c : Core) (v : HV) (i j : Nat) : W64 :=
  if v.onPatch then
    match e.rec? v with
    | some r =>
      if !r.isBad (v.idxDeg r.n) i then mint (mint c.jobseed 0) (w64 (r.gid (v.idxDeg r.n) i * 2 ^ 24 + bf e.site 0 16 * 2 ^ 8 + j))
      else Config.freeBits e.free i
    | none => Config.freeBits e.free i
  else mint e.key (e.base + w64 i)

/-- The draw u of element i (R99); no mode but SR uses it. -/
def CochEntry.u (e : CochEntry) (c : Core) (v : HV) (i : Nat) : Nat := if e.mode = 3#2 then bf (e.mintAt c v i 0) 32 32 else 0

/-! ### The one rounding -/

/-- A clamp bound in the destination's terms (R107). DESIGN CHOICE for PS2: log entry 102. -/
def HV.bound (d : HV) (x : W64) : Val :=
  if d.enc.isCq then .int x.toInt d.E else if d.enc.isInt || d.enc == .bit then .int x.toInt 0 else f32 x

/-- The exact result v with its flags, rounded once into d: plainly (R267), or scaled, clamped and rounded under the prefix (R107). -/
def CochEntry.one (e : CochEntry) (d : HV) (mode : RMode) (u : Nat) (v : Val × Fl) : Nat × Fl :=
  match e.md with
  | none => let (b, f) := d.round mode u false v.1; (b, v.2.or f)
  | some m => let (b, f) := d.round mode u m.sat (m.onV (d.bound e.lo) (d.bound e.hi) v.1); (b, v.2.or f)

/-- Elements 0 to n - 1 in order, each on what the one before has left (R264). -/
def kLoop (n : Nat) (f : Nat → Core → Core × Fl) (c : Core) : Core × Fl :=
  (upTo n).foldl (fun (x : Core × Fl) i => let (c, fl) := f i x.1; (c, x.2.or fl)) (c, .none)

/-! ### What lands -/

/-- The destination handle after the instruction (R46, R47, R267): the flags ORed in, TY 0, and the kind of a source where kd is plain. -/
def CochEntry.dest (e : CochEntry) (takes : Bool) (fl : Fl) : Handle :=
  let src := if e.a.onPatch then e.ka else if e.b.onPatch then e.kb else e.kd
  let h := if takes && hKind e.kd == 1 && (e.a.onPatch || e.b.onPatch)
    then setHf (setHf (setHf (setHf e.kd 124 4 (hKind src)) 122 2 (hDeg src)) 104 16 (hCplx src)) 88 16 (hPatch src) else e.kd
  setHf h 42 1 0 ||| fl.handle

/-- What an instruction gives when it completes: its core's local memory, the flags, and the registers it writes. -/
structure KRes where
  core : Core
  fl : Fl
  ws : List Wr
  ovt : Bool
deriving DecidableEq, Repr

/-- The result with a destination handle; saturation in a CQ or integer destination can raise the trap of R104. -/
def CochEntry.toD (e : CochEntry) (takes : Bool) (ws : List Wr) (r : Core × Fl) : KRes :=
  ⟨r.1, r.2, ws ++ [.k e.dreg (e.dest takes r.2)], r.2.sat && e.d.enc.isIntClass⟩

/-- A result without one: the flags go to ka (R46). -/
def CochEntry.toA (e : CochEntry) (ws : List Wr) (c : Core) (fl : Fl) (ovt : Bool) : KRes :=
  ⟨c, fl, ws ++ [.kor e.areg fl.handle], ovt⟩

/-! ### Issue (R262) -/

/-- Patches that an instruction needs, with the ranges of their records. -/
abbrev Needs := List (Slot × (RecV → List (Nat × Nat)))

/-- The global ids of the first n elements of v (R43, R267). -/
def gidNeed (v : HV) (n : Nat) (r : RecV) : List (Nat × Nat) := [(r.gidAt (v.idxDeg r.n) 0, 8 * n)]

/-- The patch of v with these ranges. -/
def Core.need (c : Core) (v : HV) (f : RecV → List (Nat × Nat)) : Needs :=
  match c.slotOf v.cplx v.patch with
  | some x => [(x, f)]
  | none => []

/-- What the draws of an instruction need: the ids of v's elements when v lies on a patch. -/
def Core.drawNeed (c : Core) (sr : Bool) (v : HV) (n : Nat) : Needs := if sr && v.onPatch then c.need v (gidNeed v n) else []

/-- By how much the draws advance SRBASE (R105, R267). -/
def drawAdv (sr : Bool) (v : HV) (n : Nat) : Nat := if sr && !v.onPatch then n else 0

/-- The mode is SR for a destination of the current instruction. -/
def Core.srFor (c : Core) (d : HV) : Bool := kMode c.vrm c.modp d == 3#2

/-- Take the records that the instruction needs. -/
def State.useAll (s : State) : Needs → Except Trap (List RecV × State)
  | [] => .ok ([], s)
  | (x, f) :: r =>
    match s.useRec x f with
    | .error t => .error t
    | .ok (v, s) =>
      match State.useAll s r with
      | .error t => .error t
      | .ok (vs, s) => .ok (v :: vs, s)

/-- What an instruction names and asks: its handles kd, ka and kb, its checks, the records it needs, the advance of SRBASE, and a check that
reads those records. -/
structure KAsk where
  d : Option KReg
  a : Option KReg
  b : Option KReg
  fail : Option Trap
  needs : Needs
  adv : Nat
  late : List RecV → Option Trap := fun _ => none

/-- A cochain instruction issues (R115, R262): with a false guard it completes, and the DONE positions behind it are skipped (R121); else it waits for room in the queue, makes its checks, and
enters the queue with its operands. -/
def State.cochIssue (s : State) (i : Instr) (g : PReg) (la : BitVec 4) (rs ws : List SReg) (ask : Core → W64 → W64 → KAsk) : State :=
  if !s.rp g && s.core.again.isNone then (if s.core.resume.isSome then s.landL la [] else s.retire) else
  s.operandsL la false rs ws fun vs s0 s =>
    let s := if s.core.ownPosted then s.drainAll else s
    if 8 ≤ s.core.cq.length || s.core.ownPosted then s0.wait else
    let x := vs.getD 0 0
    let y := vs.getD 1 0
    let q := ask s.core x y
    match q.fail with
    | some t => s0.trapLT la t
    | none =>
      match s.useAll q.needs with
      | .error t => s0.trapLT la t
      | .ok (recs, s) =>
        match q.late recs with
        | some t => s0.trapLT la t
        | none =>
        let c := s.core
        let h (r : Option KReg) : Handle := match r with | some k => c.rk k | none => 0
        let b := match c.modp with | some m => if m.clamp then c.bounds m else (0, 0) | none => (0, 0)
        let e : CochEntry := ⟨c.cqNext, i, c.modp, b.1, b.2, h q.d, h q.a, h q.b, x, y, c.vrm, c.srsite, c.srbase, c.mintkey, c.orgLcn,
          q.adv, recs, s.tick, c.named ws, [], none⟩
        let s := s.setCore fun c => { c with cq := c.cq ++ [e], cqNext := c.cqNext + 1 }
        if (s.core.shadowOf la).1 = 0 then s.retire else s.openShadow la [] none (some e.seq)

end Sys2Proof.Machine
end

