-- ==== Sys2Proof/Machine/Elem.lean ====
section
/-!
DEFINITION. The cochain instructions of KE, KU, KS and KH (R262 to R283): their results on elements, and their issue.
-/
namespace Sys2Proof.Machine

/-! ### Results (R268 to R279) -/

/-- The operands of one element under the prefix (R107, R270). -/
def CochEntry.pre (e : CochEntry) (A B : Val) : Val × Val :=
  match e.md with
  | some m => (m.onAV A, m.onBV B)
  | none => (A, B)

/-- The rounding direction matters for the sign of an exact zero (R153). -/
def CochEntry.rd (e : CochEntry) : Bool := e.mode == 2#2

/-- Element i of an arithmetic instruction: op on A, B and C, with the second operand as given. -/
def CochEntry.arith1 (e : CochEntry) (B : Core → Nat → Val) (op : Bool → Val → Val → Val → Val × Fl) (i : Nat) (c : Core) : Core × Fl :=
  let (A, B) := e.pre (e.a.val c i) (B c i)
  let (r, fl) := e.one e.d e.mode (e.u c e.dv i) (op e.rd A B (e.d.val c i))
  (e.d.put c i r, fl)

/-- KE arithmetic (R269). -/
def CochEntry.arith (e : CochEntry) (c : Core) (op : Bool → Val → Val → Val → Val × Fl) : KRes :=
  e.toD true [] (kLoop e.d.len (e.arith1 (fun c i => e.b.val c i) op) c)

/-- The value itself, as VCVT converts it: a NaN quiet, and NV for a signalling one (R90, R101). -/
def cvtV (v : Val) : Val × Fl := (v.quiet, { nv := v.isSnan })

/-- VSEL (R268, R269). -/
def CochEntry.select (e : CochEntry) (c : Core) : KRes :=
  e.toD true [] (kLoop e.d.len (fun i c =>
    if e.a.bits c i = 0 then (c, .none) else
    let (_, B) := e.pre (e.a.val c i) (e.b.val c i)
    let (r, fl) := e.one e.d e.mode (e.u c e.dv i) (cvtV B)
    (e.d.put c i r, fl)) c)

/-- The bits of an element as a signed integer; a BIT element as 0 or 1 (R270). -/
def HV.signed (v : HV) (b : Nat) : Int := if v.enc = .bit then (b % 2 : Nat) else sext b v.enc.bits

/-- VAND, VOR, VXOR (R269, R270). -/
def CochEntry.logic (e : CochEntry) (c : Core) (op : Nat → Nat → Nat) : KRes :=
  e.toD true [] (kLoop e.d.len (fun i c =>
    let x := e.a.bits c i
    let y := e.b.bits c i
    match e.md with
    | none => (e.d.put c i (op x y), .none)
    | some m =>
      let lim (n : Int) : Nat := mantBits e.d.enc.bits n
      let r := op (lim (m.onA (e.a.signed x))) (lim (m.onB (e.b.signed y)))
      let (b, fl) := e.one e.d e.mode 0 (.int (e.d.signed r) 0, .none)
      (e.d.put c i b, fl)) c)

/-- VCGT, VCGE, VCEQ (R269): a NaN gives 0. -/
def CochEntry.compare (e : CochEntry) (c : Core) (f : Val → Val → Bool × Fl) : KRes :=
  e.toD false [] (kLoop e.d.len (fun i c =>
    let (A, B) := e.pre (e.a.val c i) (e.b.val c i)
    let (r, fl) := f A B
    (e.d.put c i r.toNat, fl)) c)

def vcgtV (a b : Val) : Bool × Fl := (!a.isNan && !b.isNan && cmpV a b == .gt, { nv := a.isNan || b.isNan })
def vcgeV (a b : Val) : Bool × Fl := (!a.isNan && !b.isNan && cmpV a b != .lt, { nv := a.isNan || b.isNan })
def vceqV (a b : Val) : Bool × Fl := (!a.isNan && !b.isNan && cmpV a b == .eq, { nv := a.isSnan || b.isSnan })

/-- VMOV (R271). DESIGN CHOICE on a CQ element with the least mantissa: log entry 103. -/
def CochEntry.move (e : CochEntry) (c : Core) : KRes :=
  e.toD true [] (kLoop e.d.len (fun i c => (e.d.put c i (e.a.bits c i), .none)) c)

/-- VSQRT to VCVT (R271). -/
def CochEntry.unary (e : CochEntry) (c : Core) (op : Val → Val × Fl) : KRes :=
  e.toD true [] (kLoop e.d.len (fun i c =>
    let (r, fl) := e.one e.d e.mode (e.u c e.dv i) (op (e.a.val c i))
    (e.d.put c i r, fl)) c)

/-- The scalar operand by the class of a handle (R266); `mul` for VMULS and VFMAS. -/
def HV.scalar (v : HV) (mul : Bool) (x : W64) : Val :=
  if v.enc.isCq && !mul then .int x.toInt v.E else if v.enc.isIntClass then .int x.toInt 0 else f32 x

/-- VADDS to VMAXS (R272). -/
def CochEntry.arithS (e : CochEntry) (c : Core) (mul : Bool) (op : Bool → Val → Val → Val → Val × Fl) : KRes :=
  e.toD true [] (kLoop e.d.len (e.arith1 (fun _ _ => e.a.scalar mul e.x) op) c)

/-- Element i filled with x. -/
def CochEntry.fill1 (e : CochEntry) (x : W64) (i : Nat) (c : Core) : Core × Fl :=
  let (r, fl) := e.one e.d e.mode (e.u c e.d i) (cvtV (e.d.scalar false x))
  (e.d.put c i r, fl)

/-- VFILL (R272). -/
def CochEntry.fill (e : CochEntry) (c : Core) : KRes := e.toD true [] (kLoop e.d.len (e.fill1 e.x) c)

/-- VPUTE (R273). -/
def CochEntry.pute (e : CochEntry) (c : Core) : KRes := e.toD true [] (e.fill1 e.y e.x.toNat c)

/-- Does reading an element out draw (R273)? -/
def psDraw (vrm : W64) (v : HV) : Bool := v.enc == .ps2 && (vrm.setWidth 2 : RMode) == 3#2

/-- An element in VGETE's form, with the flags it leaves (R273). -/
def CochEntry.form (e : CochEntry) (v : HV) (b : Nat) : W64 × Fl :=
  if v.enc = .bit then (w64 (b % 2), .none)
  else if v.enc.isIntClass then (i64 (sext b v.enc.bits), .none)
  else if v.enc = .fp32 then (w64 b, .none)
  else
    let (r, fl) := fp32.round (e.vrm.setWidth 2) (if psDraw e.vrm v then draw e.key e.base else 0) false (v.valOf b)
    (w64 r, if v.enc = .ps2 then { ovf := fl.ovf, nx := fl.nx } else .none)

/-- VGETE (R273). -/
def CochEntry.gete (e : CochEntry) (c : Core) (o : SReg) : KRes :=
  let (r, fl) := e.form e.a (e.a.bits c e.x.toNat)
  e.toA [.s o r] c fl false

/-- The signed 64-bit sum, saturated (R274). -/
def satSum (t : Int) : W64 × Bool :=
  if t < -2 ^ 63 then (i64 (-2 ^ 63), true) else if 2 ^ 63 ≤ t then (i64 (2 ^ 63 - 1), true) else (i64 t, false)

/-- NaN of a reduction (R111). -/
def nanOut (lcn : Nat) : W64 := w64 (0x7FC00000 + lcn % 2 ^ 22)

/-- VSUM and VDOT (R274): the mantissa and the value of term i, with flags. -/
def CochEntry.reduce (e : CochEntry) (c : Core) (r : SReg) (ints : Bool) (mant : Nat → Int) (term : Nat → Val × Fl) : KRes :=
  if ints then
    let (v, o) := satSum ((upTo e.a.len).foldl (fun t i => t + mant i) 0)
    e.toA [.s r v] c { ov := o, sat := o } o
  else
    let (x, fl) := (upTo e.a.len).foldl (fun (p : ExSum × Fl) i =>
      let (v, f) := term i
      (p.1.add v (origin e.home i), p.2.or f)) (ExSum.empty, .none)
    let mode : RMode := e.vrm.setWidth 2
    let (v, f) := x.value (mode == 2#2)
    match x.nanOrg with
    | some o => e.toA [.s r (nanOut (o / 2 ^ 32))] c fl false
    | none =>
      let (b, f2) := fp32.round mode (if mode = 3#2 then draw e.key e.base else 0) false v
      e.toA [.s r (w64 b)] c ((fl.or f).or f2) false

/-- Every source is of integer class or BIT (R274). -/
def intSum (v : HV) : Bool := v.enc.isIntClass || v.enc == .bit

/-- VSUM. -/
def CochEntry.sum (e : CochEntry) (c : Core) (r : SReg) : KRes :=
  e.reduce c r (intSum e.a) (fun i => e.a.signed (e.a.bits c i)) fun i => let v := e.a.val c i; (v, { nv := v.isSnan })

/-- VDOT: a product of 0 and an infinity is NaN. -/
def CochEntry.dot (e : CochEntry) (c : Core) (r : SReg) : KRes :=
  e.reduce c r (intSum e.a && intSum e.b) (fun i => e.a.signed (e.a.bits c i) * e.b.signed (e.b.bits c i)) fun i =>
    mulV (e.a.val c i) (e.b.val c i)

/-- The later of two indices holds the greater (or lesser) element; -0 ranks below +0 (R275). -/
def beats (max : Bool) (x y : Val) : Bool :=
  match cmpV x y with
  | .gt => max
  | .lt => !max
  | .eq => x.isZero && (if max then y.neg && !x.neg else x.neg && !y.neg)

/-- VMAXR and VMINR (R275); `s` even, of which `p` are the four high bits. -/
def CochEntry.extreme (e : CochEntry) (c : Core) (p : BitVec 4) (max : Bool) : KRes :=
  let out (x y : W64) (fl : Fl) : KRes := e.toA [.s (p ++ 0#1) x, .s (p ++ 1#1) y] c fl false
  if e.a.len = 0 then out 0 (BitVec.allOnes 64) .none else
  match (upTo e.a.len).find? fun i => (e.a.val c i).isNan with
  | some i => out (nanOut e.home) (w64 i) { nv := true }
  | none =>
    let k := (upTo e.a.len).foldl (fun k i => if beats max (e.a.val c i) (e.a.val c k) then i else k) 0
    let (r, fl) := e.form e.a (e.a.bits c k)
    out r (w64 k) fl

/-- Magnitude order with NaN above every number (R276): x comes before y, of a greater index. -/
def magBefore (x y : Val) : Bool :=
  if x.isNan then true else if y.isNan then false else cmpV (x.setNeg false) (y.setNeg false) != .lt

/-- Insert an index into a list ordered by magnitude, after those it does not beat. -/
def magInsert (f : Nat → Val) (i : Nat) : List Nat → List Nat
  | [] => [i]
  | k :: ks => if magBefore (f k) (f i) then k :: magInsert f i ks else i :: k :: ks

/-- Indices by magnitude descending, then by index ascending. -/
def magSort (f : Nat → Val) (is : List Nat) : List Nat := is.foldl (fun l i => magInsert f i l) []

/-- TOPK (R276). -/
def CochEntry.topk (e : CochEntry) (c : Core) : KRes :=
  let f (i : Nat) : Val := e.a.val c i
  let cand := magSort f ((upTo e.a.len).filter fun i => !(f i).isZero)
  let keep := cand.take (Min.min e.x.toNat e.a.len)
  let c1 := (upTo e.d.len).foldl (fun k i => e.d.put k i (keep.contains i).toNat) c
  e.toD false [] (c1, { nv := (upTo e.a.len).any fun i => (f i).isNan })

/-- The four indices that a group of eight keeps (R277), ascending. -/
def keep4 (f : Nat → Val) : List Nat := let k := (magSort f (upTo 8)).take 4; (upTo 8).filter k.contains

/-- CMPR48 (R277): sources are read before any element is written (R264). -/
def CochEntry.cmpr (e : CochEntry) (c : Core) (r : SReg) : KRes :=
  let kept (g : Nat) : List Nat := (keep4 fun i => e.a.val c (8 * g + i)).map fun i => 8 * g + i
  let all := (upTo (e.a.len / 8)).flatMap kept
  let c1 := (upTo all.length).foldl (fun k n => e.d.put k n (e.a.bits c (all.getD n 0))) c
  let mask := all.foldl (fun m i => m + 2 ^ i) 0
  e.toD false [.s r (w64 mask)] (c1, { nv := all.any fun i => (e.a.val c i).isNan })

/-- +0 of an encoding (R94). -/
def zeroBits (d : HV) : Nat := if d.enc = .ps2 then 0x77 else 0

/-- VDEC48 (R278). -/
def CochEntry.vdec (e : CochEntry) (c : Core) : KRes :=
  let src := (upTo e.a.len).map (e.a.bits c)
  let (c1, _) := (upTo e.d.len).foldl (fun (p : Core × Nat) i =>
    if bit e.x i then (e.d.put p.1 i (src.getD p.2 0), p.2 + 1) else (e.d.put p.1 i (zeroBits e.d), p.2)) (c, 0)
  e.toD false [] (c1, .none)

/-- VRAND (R279). -/
def CochEntry.rand (e : CochEntry) (c : Core) : KRes :=
  e.toD false [] (kLoop e.d.len (fun i c =>
    let y := e.mintAt c e.d i (bf e.x 0 8)
    let b := if e.d.enc.fp?.isSome then (e.d.round 2#2 0 false (.int (bf y 40 24) (-24))).1
      else if e.d.enc = .bit then bf y 63 1 else bf y (65 - e.d.enc.bits) (e.d.enc.bits - 1)
    (e.d.put c i b, .none)) c)

/-- The handle that KDEF writes (R280). -/
def kdefH (x y : W64) : Handle := setHf (setHf (x ++ y : BitVec 128) 120 2 0) 0 42 0

/-- The field that a KSET selector names (R281). -/
def ksetField (sel : Nat) : Nat × Nat :=
  match sel with
  | 0 => (124, 4) | 1 => (122, 2) | 2 => (104, 16) | 3 => (88, 16) | 4 => (80, 8) | 5 => (62, 18) | 6 => (46, 16) | _ => (42, 4)

/-- KSET (R281). -/
def ksetH (h : Handle) (x : W64) : Handle := let (lo, w) := ksetField (bf x 0 4); setHf h lo w (bf x 8 56)

/-- KVIEW (R282). -/
def kviewH (v : HV) (x : W64) : Handle :=
  let off := bf x 0 16
  BitVec.ofNat 128 ((if v.enc = .bit then 5 else 1) * 2 ^ 124 + hf v.h 80 8 * 2 ^ 80
    + (v.base + if v.enc = .bit then off / 8 else off * v.w) % 2 ^ 18 * 2 ^ 62 + bf x 16 16 * 2 ^ 46)

/-! ### Checks and issue -/

/-- An encoding class that arithmetic takes: every class but BIT (R266, R269). -/
def HV.numeric (v : HV) : Bool := v.enc != .bit

/-- An instruction on kd, ka and kb. -/
def ask3 (d a b : KReg) (srcD draws : Bool) (chk : Core → HV → HV → HV → Option Trap) (c : Core) : KAsk :=
  let vd := c.hv 0 d srcD
  let va := c.hv 1 a true
  let vb := c.hv 2 b true
  let sr := draws && c.srFor vd
  let dv := drawOf vd va vb
  ⟨some d, some a, some b, chk c vd va vb, c.drawNeed sr dv vd.len, drawAdv sr dv vd.len, fun _ => none⟩

/-- An instruction on kd and ka. -/
def ask2 (d a : KReg) (srcD draws : Bool) (chk : Core → HV → HV → Option Trap) (c : Core) : KAsk :=
  let vd := c.hv 0 d srcD
  let va := c.hv 1 a true
  let sr := draws && c.srFor vd
  let dv := drawOf vd va vd
  ⟨some d, some a, none, chk c vd va, c.drawNeed sr dv vd.len, drawAdv sr dv vd.len, fun _ => none⟩

/-- An instruction on kd alone. -/
def ask1 (d : KReg) (sr : Bool) (chk : Core → HV → Option Trap) (c : Core) : KAsk :=
  let vd := c.hv 0 d false
  ⟨some d, none, none, chk c vd, c.drawNeed sr vd vd.len, drawAdv sr vd vd.len, fun _ => none⟩

/-- An instruction on ka alone, which may draw once (R105). -/
def askA (a : KReg) (chk : Core → HV → Option Trap) (sr : Core → HV → Bool) (c : Core) : KAsk :=
  let va := c.hv 1 a true
  ⟨none, some a, none, chk c va, [], if sr c va then 1 else 0, fun _ => none⟩

/-- Checks of KE arithmetic (R268, R269). -/
def chkArith (scales : Bool) (c : Core) (d a b : HV) : Option Trap :=
  c.checkHandles [d, a, b] HV.numeric (elemRels d a b) (if scales then elemScales d a b else [])

/-- KE arithmetic; `srcD` for VFMA and VFMS, `sc` for the instructions marked E. -/
def keArith (i : Instr) (d a b : KReg) (g : PReg) (l : BitVec 4) (srcD sc : Bool) (s : State) : State :=
  s.cochIssue i g l [] [] fun c _ _ => ask3 d a b srcD true (chkArith sc) c

/-- VAND, VOR, VXOR: one encoding among BIT and the integers (R269). -/
def keLogic (i : Instr) (d a b : KReg) (g : PReg) (l : BitVec 4) (s : State) : State :=
  s.cochIssue i g l [] [] fun c _ _ => ask3 d a b false false (fun c d a b =>
    c.checkHandles [d, a, b] (fun v => v.enc == .bit || v.enc.isInt)
      [(d, d.enc == a.enc && d.agree a), (b, b.enc == a.enc && b.agree a), (d, d.agree b)] []) c

/-- VCGT, VCGE, VCEQ: kd a BIT mask of ka's LEN (R269). -/
def keCmp (i : Instr) (d a b : KReg) (g : PReg) (l : BitVec 4) (s : State) : State :=
  s.cochIssue i g l [] [] fun c _ _ => ask3 d a b false false (fun c d a b =>
    c.checkHandles [d, a, b] (fun v => if v.pos = 0 then v.kind == 5 else v.numeric)
      [(d, d.len == a.len), (b, b.agree a)] [(b, b.sameE a)]) c

def execVadd (d a b : BitVec 4) (g : BitVec 3) (l : BitVec 4) (s : State) : Out := .next (keArith (.vadd d a b g l) d a b g l false true s)
def execVsub (d a b : BitVec 4) (g : BitVec 3) (l : BitVec 4) (s : State) : Out := .next (keArith (.vsub d a b g l) d a b g l false true s)
def execVmul (d a b : BitVec 4) (g : BitVec 3) (l : BitVec 4) (s : State) : Out := .next (keArith (.vmul d a b g l) d a b g l false false s)
def execVdiv (d a b : BitVec 4) (g : BitVec 3) (l : BitVec 4) (s : State) : Out := .next (keArith (.vdiv d a b g l) d a b g l false false s)
def execVmin (d a b : BitVec 4) (g : BitVec 3) (l : BitVec 4) (s : State) : Out := .next (keArith (.vmin d a b g l) d a b g l false true s)
def execVmax (d a b : BitVec 4) (g : BitVec 3) (l : BitVec 4) (s : State) : Out := .next (keArith (.vmax d a b g l) d a b g l false true s)
def execVfma (d a b : BitVec 4) (g : BitVec 3) (l : BitVec 4) (s : State) : Out := .next (keArith (.vfma d a b g l) d a b g l true false s)
def execVfms (d a b : BitVec 4) (g : BitVec 3) (l : BitVec 4) (s : State) : Out := .next (keArith (.vfms d a b g l) d a b g l true false s)
def execVand (d a b : BitVec 4) (g : BitVec 3) (l : BitVec 4) (s : State) : Out := .next (keLogic (.vand d a b g l) d a b g l s)
def execVor (d a b : BitVec 4) (g : BitVec 3) (l : BitVec 4) (s : State) : Out := .next (keLogic (.vor d a b g l) d a b g l s)
def execVxor (d a b : BitVec 4) (g : BitVec 3) (l : BitVec 4) (s : State) : Out := .next (keLogic (.vxor d a b g l) d a b g l s)
def execVcgt (d a b : BitVec 4) (g : BitVec 3) (l : BitVec 4) (s : State) : Out := .next (keCmp (.vcgt d a b g l) d a b g l s)
def execVcge (d a b : BitVec 4) (g : BitVec 3) (l : BitVec 4) (s : State) : Out := .next (keCmp (.vcge d a b g l) d a b g l s)
def execVceq (d a b : BitVec 4) (g : BitVec 3) (l : BitVec 4) (s : State) : Out := .next (keCmp (.vceq d a b g l) d a b g l s)

/-- R268, R269: VSEL. -/
def execVsel (d a b : BitVec 4) (g : BitVec 3) (l : BitVec 4) (s : State) : Out := .next <|
  s.cochIssue (.vsel d a b g l) g l [] [] fun c _ _ => ask3 d a b true true (fun c d a b =>
    c.checkHandles [d, a, b] (fun v => if v.pos = 1 then v.kind == 5 else v.numeric)
      [(d, d.len == a.len), (b, b.len == a.len), (d, d.agree b)] []) c

/-- KU (R271); `same` for VMOV, which needs one encoding and equal E. -/
def ku (i : Instr) (d a : KReg) (g : PReg) (l : BitVec 4) (same : Bool) (s : State) : State :=
  s.cochIssue i g l [] [] fun c _ _ => ask2 d a false (!same) (fun c d a =>
    c.checkHandles [d, a] HV.numeric [(d, d.agree a && (!same || d.enc == a.enc))] (if same then [(d, d.sameE a)] else [])) c

def execVmov (d a : BitVec 4) (g : BitVec 3) (l : BitVec 4) (s : State) : Out := .next (ku (.vmov d a g l) d a g l true s)
def execVsqrt (d a : BitVec 4) (g : BitVec 3) (l : BitVec 4) (s : State) : Out := .next (ku (.vsqrt d a g l) d a g l false s)
def execVrcp (d a : BitVec 4) (g : BitVec 3) (l : BitVec 4) (s : State) : Out := .next (ku (.vrcp d a g l) d a g l false s)
def execVrsq (d a : BitVec 4) (g : BitVec 3) (l : BitVec 4) (s : State) : Out := .next (ku (.vrsq d a g l) d a g l false s)
def execVexp2 (d a : BitVec 4) (g : BitVec 3) (l : BitVec 4) (s : State) : Out := .next (ku (.vexp2 d a g l) d a g l false s)
def execVlog2 (d a : BitVec 4) (g : BitVec 3) (l : BitVec 4) (s : State) : Out := .next (ku (.vlog2 d a g l) d a g l false s)
def execVcvt (d a : BitVec 4) (g : BitVec 3) (l : BitVec 4) (s : State) : Out := .next (ku (.vcvt d a g l) d a g l false s)

/-- VADDS to VMAXS (R272). -/
def ksArith (i : Instr) (d a : KReg) (r : SReg) (g : PReg) (l : BitVec 4) (srcD sc : Bool) (s : State) : State :=
  s.cochIssue i g l [r] [] fun c _ _ => ask2 d a srcD true (fun c d a =>
    c.checkHandles [d, a] HV.numeric [(d, d.agree a)] (if sc then [(d, d.sameE a)] else [])) c

def execVadds (d a : BitVec 4) (r : BitVec 5) (g : BitVec 3) (l : BitVec 4) (s : State) : Out := .next (ksArith (.vadds d a r g l) d a r g l false true s)
def execVsubs (d a : BitVec 4) (r : BitVec 5) (g : BitVec 3) (l : BitVec 4) (s : State) : Out := .next (ksArith (.vsubs d a r g l) d a r g l false true s)
def execVmuls (d a : BitVec 4) (r : BitVec 5) (g : BitVec 3) (l : BitVec 4) (s : State) : Out := .next (ksArith (.vmuls d a r g l) d a r g l false false s)
def execVfmas (d a : BitVec 4) (r : BitVec 5) (g : BitVec 3) (l : BitVec 4) (s : State) : Out := .next (ksArith (.vfmas d a r g l) d a r g l true false s)
def execVmins (d a : BitVec 4) (r : BitVec 5) (g : BitVec 3) (l : BitVec 4) (s : State) : Out := .next (ksArith (.vmins d a r g l) d a r g l false true s)
def execVmaxs (d a : BitVec 4) (r : BitVec 5) (g : BitVec 3) (l : BitVec 4) (s : State) : Out := .next (ksArith (.vmaxs d a r g l) d a r g l false true s)

/-- R272: VFILL. -/
def execVfill (d : BitVec 4) (r : BitVec 5) (g : BitVec 3) (l : BitVec 4) (s : State) : Out := .next <|
  s.cochIssue (.vfill d r g l) g l [r] [] fun c _ _ =>
    ask1 d (c.srFor (c.hv 0 d false)) (fun c d => c.checkHandles [d] HV.numeric [] []) c

/-- An index against LEN: check 0x09 (R273). -/
def idxFail (v : HV) (x : W64) : Option Trap := if v.len ≤ x.toNat then some (v.fail 9) else none

/-- R273: VGETE; the pair s, s + 1, of which the word carries the four high bits. -/
def execVgete (a : BitVec 4) (r : BitVec 4) (g : BitVec 3) (l : BitVec 4) (s : State) : Out := .next <|
  s.cochIssue (.vgete a r g l) g l [r ++ 0#1] [r ++ 1#1] fun c x _ =>
    askA a (fun c a => (c.checkHandles [a] (fun _ => true) [] []).or (idxFail a x)) (fun c a => psDraw c.vrm a) c

/-- R273: VPUTE. -/
def execVpute (d : BitVec 4) (r : BitVec 4) (g : BitVec 3) (l : BitVec 4) (s : State) : Out := .next <|
  s.cochIssue (.vpute d r g l) g l [r ++ 0#1, r ++ 1#1] [] fun c x _ =>
    ask1 d (c.srFor (c.hv 0 d false)) (fun c d => (c.checkHandles [d] HV.numeric [] []).or (idxFail d x)) c

/-- VRM is in SR mode. -/
def srMode (vrm : W64) : Bool := (vrm.setWidth 2 : RMode) == 3#2

/-- R274: VSUM. -/
def execVsum (a : BitVec 4) (r : BitVec 5) (g : BitVec 3) (l : BitVec 4) (s : State) : Out := .next <|
  s.cochIssue (.vsum a r g l) g l [] [r] fun c _ _ =>
    askA a (fun c a => c.checkHandles [a] (fun _ => true) [] []) (fun c a => srMode c.vrm && !intSum a) c

/-- R274: VDOT; kb stands in the kd field. -/
def execVdot (b a : BitVec 4) (r : BitVec 5) (g : BitVec 3) (l : BitVec 4) (s : State) : Out := .next <|
  s.cochIssue (.vdot b a r g l) g l [] [r] fun c _ _ =>
    let va := c.hv 1 a true
    let vb := c.hv 2 b true
    ⟨none, some a, some b, c.checkHandles [va, vb] HV.numeric [(vb, vb.agree va)] [], [],
      if srMode c.vrm && !(intSum va && intSum vb) then 1 else 0, fun _ => none⟩

/-- VMAXR and VMINR (R275). -/
def ksExtreme (i : Instr) (a r : BitVec 4) (g : PReg) (l : BitVec 4) (s : State) : State :=
  s.cochIssue i g l [] [r ++ 0#1, r ++ 1#1] fun c _ _ =>
    askA a (fun c a => c.checkHandles [a] HV.numeric [] []) (fun c a => psDraw c.vrm a) c

def execVmaxr (a r : BitVec 4) (g : BitVec 3) (l : BitVec 4) (s : State) : Out := .next (ksExtreme (.vmaxr a r g l) a r g l s)
def execVminr (a r : BitVec 4) (g : BitVec 3) (l : BitVec 4) (s : State) : Out := .next (ksExtreme (.vminr a r g l) a r g l s)

/-- R276: TOPK. -/
def execTopk (d a : BitVec 4) (r : BitVec 5) (g : BitVec 3) (l : BitVec 4) (s : State) : Out := .next <|
  s.cochIssue (.topk d a r g l) g l [r] [] fun c _ _ => ask2 d a false false (fun c d a =>
    c.checkHandles [d, a] (fun v => if v.pos = 0 then v.kind == 5 else v.numeric) [(d, d.len == a.len)] []) c

/-- Plain vectors of one encoding, `p` the position of the long one (R277, R278). -/
def chk48 (p : Nat) (c : Core) (d a : HV) : Option Trap :=
  let short := if p = 0 then a else d
  let long := if p = 0 then d else a
  c.checkHandles [d, a] (fun v => v.kind == 1 && (v.pos != p || (v.len % 8 == 0 && decide (8 ≤ v.len) && decide (v.len ≤ 64))))
    [(d, d.enc == a.enc && 2 * short.len == long.len)] []

/-- R277: CMPR48. -/
def execCmpr48 (d a : BitVec 4) (r : BitVec 5) (g : BitVec 3) (l : BitVec 4) (s : State) : Out := .next <|
  s.cochIssue (.cmpr48 d a r g l) g l [] [r] fun c _ _ => ask2 d a false false (chk48 1) c

/-- The first byte of a mask that has not four bits set, or lies above the groups (R278). -/
def maskFail (groups : Nat) (x : W64) : Option Trap :=
  let cnt (g : Nat) : Nat := (upTo 8).countP fun i => bit x (8 * g + i)
  ((upTo 8).find? fun g => cnt g != (if g < groups then 4 else 0)).map fun g => ⟨0x0D#8, w64 (bf x (8 * g) 8 + g * 256), 0⟩

/-- R278: VDEC48. -/
def execVdec48 (d a : BitVec 4) (r : BitVec 5) (g : BitVec 3) (l : BitVec 4) (s : State) : Out := .next <|
  s.cochIssue (.vdec48 d a r g l) g l [r] [] fun c x _ =>
    ask2 d a false false (fun c d a => (chk48 0 c d a).or (maskFail (d.len / 8) x)) c

/-- R279: VRAND; s[s] keys the draws of kinds 2 to 4 alone. -/
def execVrand (d : BitVec 4) (r : BitVec 5) (g : BitVec 3) (l : BitVec 4) (s : State) : Out := .next <|
  s.cochIssue (.vrand d r g l) g l (if (s.core.hv 0 d false).onPatch then [r] else []) [] fun c _ _ =>
    ask1 d true (fun c d => c.checkHandles [d] (fun v => v.enc != .ps2) [] []) c

/-! ### KH (R280) -/

/-- R280: KDEF. -/
def execKdef (d r : BitVec 4) (g : BitVec 3) (l : BitVec 4) (s : State) : Out := .next <|
  s.cochIssue (.kdef d r g l) g l [r ++ 0#1, r ++ 1#1] [] fun _ _ _ => ⟨none, none, none, none, [], 0, fun _ => none⟩

/-- R280: KST. -/
def execKst (a : BitVec 4) (r : BitVec 5) (g : BitVec 3) (l : BitVec 4) (s : State) : Out := .next <|
  s.cochIssue (.kst a r g l) g l [] [r] fun _ _ _ => ⟨none, some a, none, none, [], 0, fun _ => none⟩

/-- R280: KGET. -/
def execKget (a r : BitVec 4) (g : BitVec 3) (l : BitVec 4) (s : State) : Out := .next <|
  s.cochIssue (.kget a r g l) g l [] [r ++ 0#1, r ++ 1#1] fun _ _ _ => ⟨none, some a, none, none, [], 0, fun _ => none⟩

/-- R281: KSET. -/
def execKset (d a : BitVec 4) (r : BitVec 5) (g : BitVec 3) (l : BitVec 4) (s : State) : Out := .next <|
  s.cochIssue (.kset d a r g l) g l [r] [] fun c x _ =>
    ⟨none, some a, none, if 8 ≤ bf x 0 4 ∨ bf x 4 4 ≠ 0 then some ((c.hv 1 a true).fail 10) else none, [], 0, fun _ => none⟩

/-- R282: KVIEW makes checks 0x01 to 0x03, 0x08 and 0x09. -/
def execKview (d a : BitVec 4) (r : BitVec 5) (g : BitVec 3) (l : BitVec 4) (s : State) : Out := .next <|
  s.cochIssue (.kview d a r g l) g l [r] [] fun c x _ =>
    let v := c.hv 1 a true
    let off := bf x 0 16
    let bad := bf x 32 32 ≠ 0 ∨ v.len < off + bf x 16 16 ∨ (v.enc = .bit ∧ off % 8 ≠ 0)
    ⟨none, some a, none, (v.check01.or <| v.check02.or <| (v.check03 c.lmin).or v.check08).or (if bad then some (v.fail 9) else none), [], 0, fun _ => none⟩

end Sys2Proof.Machine
end

