-- ==== Sys2Proof/Machine/Calc.lean ====
section
/-!
DEFINITION. The exterior calculus instructions (R284 to R294, R300).
-/
namespace Sys2Proof.Machine

/-! ### Sums and records -/

/-- Exact sum of terms, some of which may be NaN (R153, R90). -/
def sumTerms (rd : Bool) (ts : List Val) : Val × Fl := (nanOf ts).getD (sumVals rd ts)

/-- A term with its sign; a NaN keeps its own. -/
def signV (neg : Bool) (v : Val) : Val := if neg && !v.isNan then negV v else v

/-- The record that an instruction took of the patch of v. -/
def CochEntry.recOf (e : CochEntry) (v : HV) : RecV := (e.rec? v).getD ⟨0, 0, 0, 0, [], [], [], [], []⟩

/-- Element i of a source as it was before any write (R285); one that lies past LEN is free (log entry 7). -/
def CochEntry.src (e : CochEntry) (v : HV) (c : Core) (i : Nat) : Val :=
  if i < v.len then v.val c i else v.valOf (bf (Config.freeBits e.free (2 ^ 21 + i)) 0 v.enc.bits)

/-- The flags of results that are not defined. -/
def CochEntry.freeFl (e : CochEntry) : Fl :=
  let x := Config.freeBits e.free (2 ^ 22)
  { ov := bit x 0, nv := bit x 1, nx := bit x 2, sat := bit x 0 }

/-- Write the elements of kd, each from its exact value (R285); an element that `bad` marks, since stores have made malformed what it comes from, is
free, and frees the flags (R40; log entry 7). -/
def CochEntry.kx (e : CochEntry) (c : Core) (bad : Nat → Bool) (mode : RMode) (f : Nat → Val × Fl) : KRes :=
  e.toD false [] ((upTo e.d.len).foldl (fun (p : Core × Fl) i =>
    let (b, fl) := if bad i then ((Config.freeBits e.free (2 ^ 20 + i)).toNat, e.freeFl) else e.one e.d mode (e.u c e.d i) (f i)
    (e.d.put p.1 i b, p.2.or fl)) (c, .none))

/-! ### Derivative, boundary, metric, product (R286 to R292) -/

/-- DEXT (R286). -/
def CochEntry.dext (e : CochEntry) (c : Core) : KRes :=
  let r := e.recOf e.a
  let k := e.a.deg
  e.kx c (r.isBad (k + 1)) e.mode fun j =>
    sumTerms e.rd ((upTo (k + 2)).map fun i => signV (i % 2 == 1) (e.src e.a c (r.facet (k + 1) j i)))

/-- DBND (R286). -/
def CochEntry.dbnd (e : CochEntry) (c : Core) : KRes :=
  let r := e.recOf e.a
  let k := e.a.deg
  e.kx c (r.isBad (k - 1)) e.mode fun j =>
    sumTerms e.rd ((upTo e.a.len).flatMap fun s =>
      ((upTo (k + 1)).filter fun i => r.facet k s i == j).map fun i => signV (i % 2 == 1) (e.a.val c s))

/-- HSTARI of one element: a ratio of ±0 gives an infinity with DZ for an infinity too (R291). -/
def unstarV (a m : Val) : Val × Fl :=
  let (v, f) := divV a m
  (v, match a with | .inf _ => if m.isZero then f.or { dz := true } else f | _ => f)

/-- HSTAR and HSTARI (R291): `inv` divides; `k` is the degree of the simplices. -/
def CochEntry.star (e : CochEntry) (c : Core) (inv : Bool) : KRes :=
  let r := e.recOf e.a
  let k := e.a.idxDeg r.n
  e.kx c (r.isBad k) e.mode fun i =>
    let A := (e.pre (e.a.val c i) (e.a.val c i)).1
    let m := fp32.read (r.metric k i)
    if inv then unstarV A m else mulV A m

/-- Insert n at every place of a list. -/
def insertAll (n : Nat) : List Nat → List (List Nat)
  | [] => [[n]]
  | x :: xs => (n :: x :: xs) :: (insertAll n xs).map (x :: ·)

/-- The permutations of 0 to n - 1. -/
def perms : Nat → List (List Nat)
  | 0 => [[]]
  | n + 1 => (perms n).flatMap (insertAll n)

/-- The permutation that sorts a list is odd. -/
def oddPerm : List Nat → Bool
  | [] => false
  | x :: xs => ((xs.filter (fun y => decide (y < x))).length % 2 == 1) != oddPerm xs

/-- Sort a list of numbers. -/
def sortNat (l : List Nat) : List Nat :=
  l.foldl (fun acc x => acc.filter (fun y => decide (y ≤ x)) ++ x :: acc.filter (fun y => decide (x < y))) []

/-- OVAL (R292) for positions `us` in the vertex list `vs` of an element. -/
def CochEntry.oval (e : CochEntry) (r : RecV) (v : HV) (c : Core) (f : Val → Val) (vs us : List Nat) : Val :=
  let el := r.findElem v.deg ((sortNat us).map fun i => vs.getD i 0)
  signV (oddPerm us) (f (match el with | some i => e.src v c i | none => e.src v c v.len))

/-- WEDGE (R292). -/
def CochEntry.wedge (e : CochEntry) (c : Core) : KRes :=
  let r := e.recOf e.a
  let j := e.a.deg
  let p := e.d.deg
  let fa (x : Val) : Val := (e.pre x x).1
  let fb (x : Val) : Val := (e.pre x x).2
  let ps := perms (p + 1)
  e.kx c (r.isBad p) e.mode fun t =>
    let vs := r.verts p t
    let ts := ps.map fun q =>
      let (x, f) := mulV (e.oval r e.a c fa vs (q.take (j + 1))) (e.oval r e.b c fb vs (q.drop j))
      (signV (oddPerm q) x, f)
    let (s, f) := sumTerms e.rd (ts.map (·.1))
    let (v, f2) := divV s (.int (Nat.factorial (p + 1)) 0)
    (v, ts.foldl (fun a t => a.or t.2) (f.or f2))

/-! ### Whitney interpolation (R293) -/

/-- Exact product and sum of finite values. -/
def xmul (a b : Val) : Val := (mulRaw a b).1
def xsum (l : List Val) : Val := if l = [] then .int 0 0 else sumFin false l

/-- Remove row i and column j. -/
def minor (m : List (List Val)) (i j : Nat) : List (List Val) := (m.eraseIdx i).map fun r => r.eraseIdx j

/-- Determinant of an n by n matrix. -/
def det : Nat → List (List Val) → Val
  | 0, _ => .int 1 0
  | n + 1, m => xsum ((upTo (n + 1)).map fun j => signV (j % 2 == 1) (xmul ((m.getD 0 []).getD j (.int 0 0)) (det n (minor m 0 j))))

/-- Gradients of the barycentric coordinates of an n-simplex with these vertices, times the determinant of its Gram matrix; and that determinant, zero for
a simplex of zero volume. DESIGN CHOICE on the sign of a zero component: log entry 104. -/
def gradients (n : Nat) (xs : List (List Val)) : List (List Val) × Val :=
  let at3 (l : List Val) (i : Nat) : Val := l.getD i (.int 0 0)
  let x0 := xs.getD 0 []
  let es := (xs.drop 1).map fun x => (upTo 3).map fun i => xsum [at3 x i, negV (at3 x0 i)]
  let dot (a b : List Val) : Val := xsum ((upTo 3).map fun i => xmul (at3 a i) (at3 b i))
  let g := es.map fun a => es.map fun b => dot a b
  let row (i : Nat) : List Val := (upTo 3).map fun x =>
    xsum ((upTo n).map fun j => xmul (signV ((i + j) % 2 == 1) (det (n - 1) (minor g j i))) (at3 (es.getD j []) x))
  let gs := (upTo n).map row
  let g0 := (upTo 3).map fun x => negV (xsum (gs.map fun r => at3 r x))
  (g0 :: gs, det n g)

/-- Sample i of INTERP (R293): the value for degree 0, or component x for degree 1. -/
def CochEntry.whitney (e : CochEntry) (r : RecV) (c : Core) (i x : Nat) : Val × Fl :=
  let n := r.n
  let vs := r.verts n i
  let lam (a : Nat) : Val := e.src e.b c ((n + 1) * i + a)
  let orFl (l : List (Val × Fl)) (f : Fl) : Fl := l.foldl (fun a t => a.or t.2) f
  let (g, d) := gradients n (vs.map fun v => (upTo 3).map fun k => fp32.read (r.crd v k))
  if d.isZero then invalid
  else if e.a.deg = 0 then
    let ts := (upTo (n + 1)).map fun a => mulV (lam a) (e.src e.a c (vs.getD a 0))
    let (v, f) := sumTerms e.rd (ts.map (·.1))
    (v, orFl ts f)
  else
    let gr (a : Nat) : Val := (g.getD a []).getD x (.int 0 0)
    let pairs := (upTo (n + 1)).flatMap fun b => (upTo b).map fun a => (a, b)
    let ts := pairs.map fun (a, b) =>
      let (p, f1) := mulV (lam a) (gr b)
      let (q, f2) := mulV (lam b) (gr a)
      let (w, f3) := subV e.rd p q
      let (y, f4) := mulV (e.oval r e.a c (fun v => v) vs [a, b]) w
      (y, ((f1.or f2).or f3).or f4)
    let (s, f) := sumTerms e.rd (ts.map (·.1))
    let (v, f2) := divV s d
    (v, orFl ts (f.or f2))

/-- INTERP (R293); a coordinate that stores have made infinite or NaN frees its samples (log entry 7). -/
def CochEntry.interp (e : CochEntry) (c : Core) : KRes :=
  let r := e.recOf e.a
  let bad (t : Nat) : Bool := r.isBad r.n t || (r.verts r.n t).any fun v => !r.crdOk v
  e.kx c (fun i => bad (if e.a.deg = 0 then i else i / 3)) e.mode fun i => if e.a.deg = 0 then e.whitney r c i 0 else e.whitney r c (i / 3) (i % 3)

/-! ### Moving by index (R294) -/

/-- idx(i). -/
def CochEntry.idx (e : CochEntry) (c : Core) (i : Nat) : Int := sext (e.b.bits c i) e.b.enc.bits

/-- GATHI. -/
def CochEntry.gathi (e : CochEntry) (c : Core) : KRes :=
  e.kx c (fun _ => false) e.mode fun i =>
    let k := e.idx c i
    if 0 ≤ k ∧ k < e.a.len then cvtV (e.a.val c k.toNat) else (.int 0 0, { nv := true })

/-- SCATI. -/
def CochEntry.scati (e : CochEntry) (c : Core) : KRes :=
  let hits (j : Nat) : List Nat := (upTo e.b.len).filter fun i => e.idx c i == (j : Int)
  let lost := (upTo e.b.len).any fun i => decide (e.idx c i < 0) || decide ((e.d.len : Int) ≤ e.idx c i)
  let r := (upTo e.d.len).foldl (fun (p : Core × Fl) j =>
    match hits j with
    | [] => p
    | is =>
      let x := is.foldl (fun (x : ExSum) i => x.add (e.a.val c i) (origin e.home i)) (ExSum.empty.add (e.d.val c j) (origin e.home 0))
      let (b, fl) := e.one e.d e.mode (e.u c e.d j) (x.value e.rd)
      (e.d.put p.1 j b, p.2.or fl)) (c, { nv := lost })
  e.toD false [] r

/-! ### PROLONG (R300) -/

/-- Half of a value. -/
def half (v : Val) : Val := v.scale (-1)

/-- ROUND(v, ENC(kd), RD) as a value, with its flags. -/
def CochEntry.flo (e : CochEntry) (v : Val × Fl) : Val × Fl := let (b, f) := e.d.round 2#2 0 false v.1; (e.d.valOf b, v.2.or f)

/-- The coarse triangle t split at its edge m, whose two ends are a < b and whose third vertex is c: the positions of a, b and c among the
vertices of t, and those vertices. -/
def splitOf (r : RecV) (t m : Nat) : Nat × Nat × Nat × List Nat :=
  let vs := r.verts 2 t
  let es := r.verts 1 m
  let pos (v : Nat) : Nat := vs.idxOf v
  let a := pos (es.getD 0 0)
  let b := pos (es.getD 1 0)
  (a, b, 3 - a - b, vs)

/-- W(x → y) for positions in the triangle: ka's value on the edge, negative against the order of ids. -/
def CochEntry.along (e : CochEntry) (r : RecV) (c : Core) (vs : List Nat) (x y : Nat) : Val := e.oval r e.a c (fun v => v) vs [x, y]

/-- The parent edge of the midpoint among the vertices of fine element j of degree k. -/
def midEdge (fine : RecV) (k j : Nat) : Nat :=
  match (fine.verts k j).find? fun v => rmKind (fine.rmap 0 v) == 1 with
  | some v => rmPar (fine.rmap 0 v)
  | none => 0

/-- The exact value of fine element j before its rounding by RD. -/
def CochEntry.fine (e : CochEntry) (coarse fine : RecV) (c : Core) (j : Nat) : Val × Fl :=
  let k := e.d.deg
  let m := fine.rmap k j
  let p := rmPar m
  match rmKind m with
  | 0 => cvtV (e.src e.a c p)
  | 1 =>
    let (s, f) := sumTerms true ((coarse.verts 1 p).map (e.src e.a c))
    (half s, f)
  | 2 => let z := e.src e.a c p; cvtV (half (if rmHalf m then signV true z else z))
  | _ =>
    let (a, b, q, vs) := splitOf coarse p (midEdge fine k j)
    if k = 1 then
      let z := e.along coarse c vs a b
      let x := e.along coarse c vs q a
      let y := e.along coarse c vs q b
      let (om, f) := sumTerms true [z, signV true y, x]
      let (hz, f1) := e.flo (cvtV (half z))
      let (ho, f2) := e.flo (half om, f)
      let (v, f3) := sumTerms true [x, hz, signV true ho]
      (v, (f1.or f2).or f3)
    else
      let om := signV (oddPerm [q, a, b]) (e.src e.a c p)
      let (ho, f) := e.flo (cvtV (half om))
      let hasA := (fine.verts 2 j).any fun v => rmKind (fine.rmap 0 v) == 0 && rmPar (fine.rmap 0 v) == vs.getD a 0
      if hasA then (signV (!decide (q < a)) ho, f)
      else
        let (r, f2) := sumTerms true [om, signV true ho]
        (signV (!decide (b < q)) r, f.or f2)

/-- Fine element j of degree k, or the coarse element that it comes from, is malformed (R40), or its map entry names no coarse element (log entry 7). -/
def badFine (coarse fine : RecV) (k j : Nat) : Bool :=
  let p := rmPar (fine.rmap k j)
  let d := rmDeg (fine.rmap k j)
  fine.isBad k j || coarse.isBad d p || !fine.mapOk k j || decide (coarse.tot d ≤ p)
    || (rmKind (fine.rmap k j) == 3 && (fine.verts k j).any fun v => !fine.mapOk 0 v)

/-- PROLONG: always by RD, without a draw. -/
def CochEntry.prolong (e : CochEntry) (c : Core) : KRes :=
  let coarse := e.recOf e.a
  let fine := e.recOf e.d
  e.kx c (badFine coarse fine e.d.deg) 2#2 fun j => e.fine coarse fine c j

/-! ### Checks and issue (R284, R45) -/

/-- A KX operand is in no BIT or PS2 bay, and meets `own` (R284). -/
def kxOwn (own : HV → Bool) (v : HV) : Bool := v.enc != .bit && v.enc != .ps2 && own v

/-- n of the patch of v, and TOTAL of the degree that indexes it. -/
def Core.dimOf (c : Core) (v : HV) : Nat := match c.slotOf v.cplx v.patch with | some x => x.n | none => 0
def Core.totOf (c : Core) (v : HV) (k : Nat) : Nat := match c.slotOf v.cplx v.patch with | some x => x.total k | none => 0

def samePatch (a b : HV) : Bool := a.cplx == b.cplx && a.patch == b.patch

/-- Incidence entries of elements lo to hi - 1 of degree k. -/
def incNeed (k lo hi : Nat) (r : RecV) : List (Nat × Nat) := [(r.incAt k lo, 8 * (hi - lo))]

/-- The whole incidence table up to degree k. -/
def incAll (k : Nat) (r : RecV) : List (Nat × Nat) := if k = 0 then [] else [(r.incOff, 8 * degSum r.tot 1 (k + 1))]

/-- A KX instruction on kd and ka: its requirements, and what it reads of the patch of ka. -/
def kx2 (d a : KReg) (own : Core → HV → Bool) (rel : Core → HV → HV → Bool) (f : Core → HV → HV → RecV → List (Nat × Nat)) (c : Core) : KAsk :=
  let vd := c.hv 0 d false
  let va := c.hv 1 a true
  let sr := c.srFor vd
  ⟨some d, some a, none, c.checkHandles [vd, va] (kxOwn (own c)) [(vd, rel c vd va)] [],
    c.need va (f c vd va) ++ c.drawNeed sr vd vd.len, drawAdv sr vd vd.len, fun _ => none⟩

/-- R286: DEXT. The degree of kd is a relation to ka, checked after ka's own requirements (log entry 86). -/
def execDext (d a : BitVec 4) (g : BitVec 3) (l : BitVec 4) (s : State) : Out := .next <|
  s.cochIssue (.dext d a g l) g l [] [] fun c _ _ =>
    kx2 d a (fun c v => v.kind == 2 && (v.pos == 0 || (decide (v.deg < c.dimOf v) && v.len == c.totOf v v.deg)))
      (fun _ d a => samePatch d a && d.deg == a.deg + 1) (fun _ d a => incNeed (a.deg + 1) 0 d.len) c

/-- R286: DBND. The degree of kd is a relation to ka, checked after ka's own requirements (log entry 86). -/
def execDbnd (d a : BitVec 4) (g : BitVec 3) (l : BitVec 4) (s : State) : Out := .next <|
  s.cochIssue (.dbnd d a g l) g l [] [] fun c _ _ =>
    kx2 d a (fun c v => v.kind == 4 && (v.pos == 0 || (decide (1 ≤ v.deg) && v.len == c.totOf v v.deg)))
      (fun _ d a => samePatch d a && d.deg + 1 == a.deg) (fun _ _ a => incNeed a.deg 0 a.len) c

/-- HSTAR and HSTARI (R291, R45). -/
def kxStar (i : Instr) (d a : KReg) (g : PReg) (l : BitVec 4) (kd ka : Nat) (s : State) : State :=
  s.cochIssue i g l [] [] fun c _ _ =>
    kx2 d a (fun _ v => v.kind == (if v.pos = 0 then kd else ka))
      (fun c d a => samePatch d a && d.deg + a.deg == c.dimOf a && d.len == a.len)
      (fun c _ a r => [(r.metAt (a.idxDeg (c.dimOf a)) 0, 4 * a.len)]) c

def execHstar (d a : BitVec 4) (g : BitVec 3) (l : BitVec 4) (s : State) : Out := .next (kxStar (.hstar d a g l) d a g l 3 2 s)
def execHstari (d a : BitVec 4) (g : BitVec 3) (l : BitVec 4) (s : State) : Out := .next (kxStar (.hstari d a g l) d a g l 2 3 s)

/-- A KX instruction on kd, ka and kb. -/
def kx3 (d a b : KReg) (srcD : Bool) (own : Core → HV → Bool) (rels : Core → HV → HV → HV → List (HV × Bool))
    (needs : Core → HV → HV → Needs) (c : Core) : KAsk :=
  let vd := c.hv 0 d srcD
  let va := c.hv 1 a true
  let vb := c.hv 2 b true
  let sr := c.srFor vd
  ⟨some d, some a, some b, c.checkHandles [vd, va, vb] (kxOwn (own c)) (rels c vd va vb) [],
    needs c vd va ++ c.drawNeed sr vd vd.len, drawAdv sr vd vd.len, fun _ => none⟩

/-- R292: WEDGE. -/
def execWedge (d a b : BitVec 4) (g : BitVec 3) (l : BitVec 4) (s : State) : Out := .next <|
  s.cochIssue (.wedge d a b g l) g l [] [] fun c _ _ =>
    kx3 d a b false (fun c v => v.kind == 2 && (v.pos == 0 || v.len == c.totOf v v.deg))
      (fun c d a b => [(d, samePatch d a), (b, samePatch b a && decide (a.deg + b.deg ≤ c.dimOf a)), (d, d.deg == a.deg + b.deg)])
      (fun c d a => c.need a (incAll d.deg)) c

/-- R293: INTERP. -/
def execInterp (d a b : BitVec 4) (g : BitVec 3) (l : BitVec 4) (s : State) : Out := .next <|
  s.cochIssue (.interp d a b g l) g l [] [] fun c _ _ =>
    kx3 d a b false
      (fun c v => match v.pos with
        | 0 => v.kind == 1
        | 1 => v.kind == 2 && decide (v.deg ≤ 1) && decide (v.deg ≤ c.dimOf v)
        | _ => v.kind == 1 && v.enc.fp?.isSome)
      (fun c d a b =>
        let n := c.dimOf a
        let w := if a.deg = 0 then 1 else 3
        [(d, d.len % w == 0 && decide (d.len / w ≤ c.totOf a n)), (b, b.len % (n + 1) == 0 && decide (b.len / (n + 1) ≤ c.totOf a n)),
          (d, d.len / w == b.len / (n + 1))])
      (fun c _ a => c.need a fun r => incAll r.n r ++ [(r.crdOff, 12 * r.tot 0)]) c

/-- R294: GATHI. -/
def execGathi (d a b : BitVec 4) (g : BitVec 3) (l : BitVec 4) (s : State) : Out := .next <|
  s.cochIssue (.gathi d a b g l) g l [] [] fun c _ _ =>
    kx3 d a b false (fun _ v => v.pos != 2 || (v.kind == 1 && (v.enc == .int16 || v.enc == .int32)))
      (fun _ d _ b => [(d, d.len == b.len)]) (fun _ _ _ => []) c

/-- R294: SCATI. -/
def execScati (d a b : BitVec 4) (g : BitVec 3) (l : BitVec 4) (s : State) : Out := .next <|
  s.cochIssue (.scati d a b g l) g l [] [] fun c _ _ =>
    kx3 d a b true (fun _ v => v.pos != 2 || (v.kind == 1 && (v.enc == .int16 || v.enc == .int32)))
      (fun _ _ a b => [(b, b.len == a.len)]) (fun _ _ _ => []) c

/-- A parent index of the refinement map that is not below ka.LEN (R300, check 0x09; log entry 66). -/
def parentFail (d a : HV) (recs : List RecV) : Option Trap :=
  match recs.find? fun r => r.cplx == d.cplx && r.patch == d.patch with
  | none => none
  | some r => if (upTo d.len).any fun j => decide (a.len ≤ rmPar (r.rmap d.deg j)) then some (a.fail 9) else none

/-- R300: PROLONG. -/
def execProlong (d a : BitVec 4) (g : BitVec 3) (l : BitVec 4) (s : State) : Out := .next <|
  s.cochIssue (.prolong d a g l) g l [] [] fun c _ _ =>
    let vd := c.hv 0 d false
    let va := c.hv 1 a true
    let rmap (v : HV) : Bool := match c.slotOf v.cplx v.patch with | some x => bit (x.hdr.getD 0 0) 40 | none => false
    let own (v : HV) : Bool := v.kind == 2 && (if v.pos = 0 then rmap v else decide (v.deg ≤ 2) && v.len == c.totOf v v.deg)
    ⟨some d, some a, none,
      c.checkHandles [vd, va] (kxOwn own) [(vd, vd.deg == va.deg && vd.patch == va.patch)] [(vd, vd.sameE va)],
      c.need vd (fun r => incAll vd.deg r ++ [(r.rmAt 0 0, 8 * r.tot 0), (r.rmAt vd.deg 0, 8 * vd.len)]) ++
        c.need va (fun r => incAll r.n r), 0, parentFail vd va⟩

end Sys2Proof.Machine
end

