-- ==== Sys2Proof/Machine/Demand.lean ====
section
/-!
DEFINITION. Demand and the modules of a launch (R355 to R357): which module holds a logical core, the closing of demand, and the records that
go to the two arbiters.
-/
namespace Sys2Proof.Machine

/-- Every core of the module, the current one first. -/
def State.allCores (s : State) : List Core := s.core :: s.peers

/-- Change every core of the module. -/
def State.mapCores (s : State) (f : Core → Core) : State := { s with core := f s.core, peers := s.peers.map f }

/-- Change logical core l of queue q, wherever it is. -/
def State.asIfCore (s : State) (q l : Nat) (f : Core → Core) : State := s.asCore q l fun s => s.setCore f

/-- The package of a core remap entry (R71, R72). -/
def remapPkg (e : W64) : Nat := bf e 12 12 / 64 * 64 + bf e 0 12 / 64

/-- The physical core of logical core l of a launch (R73). -/
def Launch.pcidOf (a : Launch) (l : Nat) : Option Nat :=
  match a.remap[l / 4]? with
  | some e => if bit e 40 then some (remapPkg e * 2 ^ 14 + bf e 0 12 % 64 * 2 ^ 8 + bf e 12 12 % 64 * 4 + l % 4) else none
  | none => none

/-- The module that holds logical core l of queue q's launch (R72). -/
def State.moduleOf (s : State) (q l : Nat) : Nat :=
  match (s.queue q).launch with
  | some a => match a.pcidOf l with | some pc => pcPkg pc | none => Config.pkgX
  | none => Config.pkgX

/-- The modules of a launch, ascending: the first is the primary of its Clearing House and the second the standby (R357). -/
def Launch.packages (a : Launch) : List Nat :=
  ((a.remap.filter (bit · 40)).map remapPkg).dedup.insertionSort (· ≤ ·)

/-- The cores of queue q's launch on this module, by ascending LCN. -/
def State.members (s : State) (q : Nat) : List Core :=
  (s.allCores.filter fun c => c.present && c.queue == q).insertionSort fun a b => a.lcn.toNat ≤ b.lcn.toNat

/-- A saturating sum of bytes (R355). -/
def satBytes (n : Nat) : Nat := Min.min n (2 ^ 48 - 1)

/-- Bytes that a core declared for module b in closed demand k (R356). -/
def Core.closedFor (c : Core) (k b : Nat) : Nat := tget 0 b (c.xch.closed.getD k [])

/-- Slots of this module for module b in exchange k: over the entries of its dies (R355, R356). -/
def State.slotsFor (s : State) (q k b : Nat) : Nat :=
  let ms := s.members q
  let die (d : Nat) : Nat := satBytes ((ms.filter fun c => pcDie c.pcid == d).foldl (fun a c => a + c.closedFor k b) 0)
  Min.min (cdiv ((upTo 8).foldl (fun a d => a + die d) 0) 262144) 65535

/-- Send exchange control (KIND 11) to a module, in as many flits as it takes; to this one it needs none. -/
def State.sendControl (s : State) (pkg : Nat) (ws : List W64) : State :=
  if pkg = Config.pkgX then s else
  (payloads ws).foldl (fun s p => s.emit (.flit (dataFlit (64 * (pkg % 64)) (64 * (pkg / 64)) (s.module pkg).1 11 0 p))) s

/-- Send the same to both arbiters of queue q's launch; a launch on one module has none (R356). -/
def State.toArbiters (s : State) (q : Nat) (ws : List W64) : State :=
  match (s.queue q).launch with
  | some a => if a.packages.length ≤ 1 then s else (a.packages.take 2).foldl (fun s p => s.sendControl p ws) s
  | none => s

/-- The current core's open demand closes (R356); when that closes the module for exchange k, its demand record goes to both arbiters: k, the
closing CYC, and a module and its slots for each other module. -/
def State.closeDemand (s : State) : State :=
  let q := s.core.queue
  let k := s.core.xch.closed.length
  let s := s.setCore fun c => { c with xch := { c.xch with closed := c.xch.closed ++ [c.xch.demand], demand := [] } }
  if (s.members q).all (fun c => decide (k < c.xch.closed.length)) then
    match (s.queue q).launch with
    | some a =>
      s.toArbiters q (w64 k :: s.cyc :: (a.packages.filter (· != Config.pkgX)).flatMap fun b => [w64 b, w64 (s.slotsFor q k b)])
    | none => s
  else s

end Sys2Proof.Machine
end

