-- ==== Sys2Proof/Machine/CopyRec.lean ====
section
/-!
DEFINITION. Requests of the copy FIFO (R246, R369, R371): their fields, units of work, and when they are complete (R251).
-/
namespace Sys2Proof.Machine

def CopyReq.w (r : CopyReq) (j : Nat) : W64 := r.dws.getD j 0

/-- CPY requests (R246). -/
def CopyReq.src (r : CopyReq) : W64 := r.w 0
def CopyReq.dst (r : CopyReq) : W64 := r.w 1
def CopyReq.mmask (r : CopyReq) : Nat := bf (r.w 2) 48 16
def CopyReq.denc (r : CopyReq) : Nat := bf (r.w 2) 32 4
def CopyReq.senc (r : CopyReq) : Nat := bf (r.w 2) 28 4
def CopyReq.sat (r : CopyReq) : Bool := bit (r.w 2) 26
def CopyReq.rm (r : CopyReq) : BitVec 2 := BitVec.ofNat 2 (bf (r.w 2) 24 2)
def CopyReq.nelem (r : CopyReq) : Nat := bf (r.w 2) 0 24
def CopyReq.cbase (r : CopyReq) : Nat := bf (r.w 3) 0 40

/-- GATHER and SCATTER requests (R369). -/
def CopyReq.list (r : CopyReq) : Nat := bf (r.w 0) 0 18
def CopyReq.data (r : CopyReq) : Nat := bf (r.w 1) 0 18
def CopyReq.sop (r : CopyReq) : Nat := bf (r.w 2) 26 2
def CopyReq.size (r : CopyReq) : Nat := 2 ^ bf (r.w 2) 24 2
def CopyReq.count (r : CopyReq) : Nat := bf (r.w 2) 0 15

/-- DISPATCH and COMBINE requests (R371). -/
def CopyReq.rows (r : CopyReq) : Nat := bf (r.w 0) 0 18
def CopyReq.aux (r : CopyReq) : Nat := bf (r.w 1) 0 18
def CopyReq.choices (r : CopyReq) : Nat := bf (r.w 2) 24 4
def CopyReq.rlen (r : CopyReq) : Nat := bf (r.w 2) 12 12
def CopyReq.ntok (r : CopyReq) : Nat := bf (r.w 2) 0 12 + 1
def CopyReq.cap (r : CopyReq) : Nat := bf (r.w 3) 18 18
def CopyReq.buf (r : CopyReq) : Nat := bf (r.w 3) 0 18

/-- FLAG and FLAGW × 8 (R246, R369, R371). -/
def CopyReq.flag (r : CopyReq) : Bool := if r.kind = 0 then bit (r.w 2) 27 else bit (r.w 2) 28
def CopyReq.flagOff (r : CopyReq) : Nat := 8 * (if r.kind = 0 then bf (r.w 3) 40 15 else bf (r.w 2) 40 15)

/-- The formats of the source and destination, laid out as BAYFMT (R192, R247). -/
def CopyReq.sf (r : CopyReq) : W64 := r.fmts.getD 0 0
def CopyReq.df (r : CopyReq) : W64 := r.fmts.getD 1 0

/-- Bytes move unchanged (R97, R191, R247). -/
def rawMove (sf df : W64) : Bool := !(Enc.ofCode (bf sf 0 4)).valued || !(Enc.ofCode (bf df 0 4)).valued
def CopyReq.raw (r : CopyReq) : Bool := rawMove r.sf r.df

/-- Bytes of n elements of a format. -/
def fmtBytes (raw : Bool) (f : W64) (n : Nat) : Nat := if raw then n else n * (Enc.ofCode (bf f 0 4)).bits / 8

/-- Bytes of a CPY's destination (R251). -/
def CopyReq.dstBytes (r : CopyReq) : Nat := fmtBytes r.raw r.df r.nelem

/-- 8-byte words of a range. -/
def wordsIn (a n : Nat) : Nat := if n = 0 then 0 else (a + n - 1) / 8 - a / 8 + 1

/-- Units of work of one destination: destination words of a CPY, list entries, pairs of DISPATCH, rows of COMBINE. -/
def CopyReq.units (r : CopyReq) : Nat :=
  match r.kind with
  | 0 => wordsIn r.dst.toNat r.dstBytes
  | 1 => r.count
  | 2 => r.count
  | 3 => r.ntok * r.choices
  | _ => r.pos.getD 0

/-- The list entries of a group, in list order (R370). -/
def CopyReq.group (r : CopyReq) (d : Dest) : List Nat := (r.owners.zipIdx.filter (·.1 == d.idx)).map (·.2)

/-- Units of work of a destination: those of its group for GATHER and SCATTER. -/
def CopyReq.unitsOf (r : CopyReq) (d : Dest) : Nat := if r.kind = 1 ∨ r.kind = 2 then (r.group d).length else r.units

/-- All its units are written. -/
def CopyReq.done (r : CopyReq) (d : Dest) : Bool := decide (r.unitsOf d ≤ d.next)

/-- Every word is written, and performed where another module holds it (R251). -/
def CopyReq.complete (r : CopyReq) : Bool := r.started && r.owed == 0 && r.dests.all r.done

/-- Requests that are not complete, oldest first. -/
def Cf.pending (f : Cf) : List CopyReq := f.reqs.filter fun r => !r.complete

end Sys2Proof.Machine
end

