-- ==== Sys2Proof/Machine/Fence.lean ====
section
/-!
DEFINITION. FENCE and CFENCE (R239, R240, R243), and the waits that other instructions make like a FENCE.
-/
namespace Sys2Proof.Machine

/-- What a wait for earlier work gives: a trap, more waiting with the work done so far, or the state in which everything is settled. -/
inductive Settled where
  | trap (t : Trap) (s : State)
  | wait (s : State)
  | ok (s : State)

/-- The engines of the core have nothing left of what they were handed (R239 ALL = 1). -/
def Core.enginesIdle (c : Core) : Bool := c.cq.isEmpty && c.mx.queue.isEmpty && c.mx.left.isEmpty && c.cf.pending.isEmpty

/-- The place belongs to the locations of a scope (R235). -/
def State.inScope (s : State) (scope : BitVec 2) (p : Place) : Bool :=
  if scope == 0#2 then s.dieScope p else if scope == 1#2 then (match p with | .own _ | .peer _ _ | .saved _ _ _ _ | .mem _ _ => true | _ => false) else true

/-- Wait as a FENCE of the scope waits (R239): the core's stores, a load in whose shadow it lies, the elements pushed to its bound write ports, and with
`all` its engines. -/
def State.fenceWait (s : State) (scope : BitVec 2) (all : Bool) : Settled :=
  let s := s.drainAll.strDrainPorts
  match s.core.strFault with
  | some t => .trap t s
  | none =>
    if s.buffered.any (fun e => s.inScope scope e.place) || s.core.retrying || s.core.strBusy || (all && !s.core.enginesIdle) then .wait s else .ok s

/-- The pending engine faults that a release raises first: the copy FIFO's, then the matrix unit's (R257, R321). -/
def Core.engineTrap (c : Core) : Option Trap :=
  match c.cfTrap with
  | some t => some t
  | none => c.mxTrap

/-- Write results to registers or ports and complete. -/
def State.finishAll (s : State) (ws : List (SReg × W64)) : State := (s.setCore fun c => ws.foldl (fun c w => c.out w.1 w.2) c).retire

/-- R239: FENCE. With d = 0 FSTAT stays. -/
def execFence (d : BitVec 5) (sc : BitVec 2) (w : BitVec 1) (s : State) : Out := .next <|
  let all := w == 1#1
  s.operands false [] (if d = 0#5 then [] else [d]) fun _ s0 s =>
    match (if all then s.core.engineTrap else none) with
    | some t => s0.trapT t
    | none =>
      match s.fenceWait sc all with
      | .trap t s => s.trapT t
      | .wait s => s.wait
      | .ok s =>
        let s := if sc = 0#2 then s else if sc = 1#2 then s.acquireHere else s.acquire
        if d = 0#5 then s.retire else (s.setCore fun c => { c with fstat := 0 }).finish d s.core.fstat

/-- Drop from the stable's complex cache every line of the records in this core's slots (R243). -/
def State.dropRecordLines (s : State) : State :=
  let n := s.ctxOf s.core
  let mine (k : Nat × Nat × Nat) : Bool := k.1 == n && s.core.slots.any fun o => match o with | some x => x.base == k.2.1 | none => false
  s.setStable (pcStable s.core.pcid) fun t => { t with lines := t.lines.filter fun l => !mine l.1 }

/-- R243. -/
def execCfence (s : State) : Out := .next <|
  let s := s.drainAll
  if !s.core.posted.isEmpty || !s.core.cq.isEmpty then s.wait else s.dropRecordLines.retire

end Sys2Proof.Machine
end

