-- ==== Sys2Proof/Machine/Matrix.lean ====
section
/-!
DEFINITION. The matrix unit: ACCRD, ACCWR, MXWAIT and MXSEQ (R316 to R319), and its own steps (R308 to R314, R321 to R323, R185).
-/
namespace Sys2Proof.Machine

/-! ### Tiles (R307) -/

def Core.tileAt (c : Core) (t r k : Nat) : W32 := tget 0 (1024 * t + 32 * r + k) c.tiles
def Core.setTile (c : Core) (t r k : Nat) (v : W32) : Core := { c with tiles := tset (1024 * t + 32 * r + k) v c.tiles }

/-! ### Formats of local operands (R192, R309) -/

/-- BAYFMT of bay b of logical core l of the current core's launch, as a unit reads it now; that of a core on another module is free (log
entry 11). -/
def State.bayOf (s : State) (l b : Nat) : Option W64 :=
  if l = s.core.lcn.toNat then s.core.bayfmt[b]? else
  match s.find s.core.queue l with
  | some i => (match s.peers[i]? with | some c => c.bayfmt[b]? | none => none)
  | none => if s.moduleOf s.core.queue l = Config.pkgX then none else some (w64 (bf (Config.freeBits s.tick (8 * l + b)) 0 19))

/-- Default scale of a bay (R190). -/
def fmtScale (f : W64) : Int := sext (bf f 11 8) 8

/-- The formats that a command reads when it starts, and whether every one is that of its operand (R308 check 0x08, R192). -/
def State.mxFormats (s : State) (m : MxCmd) : List (Nat × W64) × Bool :=
  m.operands.foldl (fun acc o =>
    (s.core.baysOf o.1).foldl (fun (fs, ok) k =>
      match s.bayOf (k / 8) (k % 8) with
      | some f => (tset k f fs, ok && bf f 0 4 == o.2)
      | none => (fs, ok)) acc) ([], true)

/-- Default scale for an element at va: that of its bay, or 0 where it is paged (R309). -/
def Core.mxScale (c : Core) (va : W64) : Int :=
  match c.localOf va.toNat with
  | some (l, o) => fmtScale (tget 0 (8 * l + o / 32768) c.mx.fmts)
  | none => 0

/-! ### Reading operands (R309, R321, R390) -/

/-- An element access of a group or row: address, width, operand number of MXFLT. -/
structure MxItem where
  va : W64
  w : Nat
  op : Nat
deriving DecidableEq, Repr

/-- A fault that stops a command: CAUSE, TVAL, operand number. -/
structure MxStop where
  cause : Byte
  tval : W64
  op : Nat
deriving DecidableEq, Repr

/-- CAUSE of an operand fault (R321, R401); the mark of `askMark` stays one. -/
def mxCause (c : Byte) : Byte := if c = 0x06#8 ∨ c = 0x1F#8 ∨ c = 0x00#8 then c else 0x0C#8

/-- Keep the fault at the lower address (R390). -/
def lowest (a : Option (W64 × MxStop)) (va : W64) (t : MxStop) : Option (W64 × MxStop) :=
  match a with
  | some (v, u) => if va.toNat < v.toNat then some (va, t) else some (v, u)
  | none => some (va, t)

/-- A doubleword of the running command: one that a group before this one has read and kept (R320), or as it is now. -/
def State.mxWord (s : State) (va : W64) (w : Nat) : Except (Byte × W64) (List Byte × State) :=
  match s.core.eread 2 va.toNat with
  | some ⟨_, _, _, some bs, _⟩ => .ok ((bs.drop (va.toNat % 8)).take w, s)
  | _ =>
    match s.engRead 2 va w with
    | .error e => .error e
    | .ok (bs, s) =>
      let v := va.toNat / 8 * 8
      match s.engineRead (w64 v) 8 with
      | .ok (some ws, _, _) => .ok (bs, s.setCore fun c => { c with erd := c.erd ++ [⟨2, v, 0, some ws, none⟩] })
      | _ => .ok (bs, s)

/-- Read every element of a group or row: their bits, or the fault at the lowest address. -/
def State.mxRead (s : State) (items : List MxItem) : List Nat × Option (W64 × MxStop) × State :=
  items.foldl (fun (vs, bad, s) x =>
    match s.mxWord x.va x.w with
    | .error (c, t) => (vs ++ [0], lowest bad x.va ⟨mxCause c, t, x.op⟩, s)
    | .ok (bs, s) => (vs ++ [ofBytes bs], bad, s)) ([], none, s)

/-- A step of a command: done, or stopped at its start. -/
inductive MxOut where
  | ok (s : State)
  | stop (t : MxStop) (s : State)

/-- Flags into MXFL: a CQ or PS2 saturation is recorded as OF (R315). -/
def Core.mxRaise (c : Core) (f : Fl) : Core :=
  { c with mx := { c.mx with mxfl := c.mx.mxfl ||| ({ f with ovf := f.ovf || f.ov } : Fl).fflags } }

/-! ### Multiply commands (R110, R310 to R312, R323) -/

/-- Positions of the kept elements in a metadata byte. -/
def marks (b : Nat) : List Nat := (upTo 8).filter fun i => b / 2 ^ i % 2 == 1

/-- Metadata word w of row r (R311). -/
def MxCmd.metaItem (m : MxCmd) (r w : Nat) : MxItem := ⟨m.xaddr + w64 (8 * (r * cdiv m.K 64 + w)), 8, 3⟩

/-- The k that a row uses in group g, with the metadata words of R311, and the lowest of those words that cannot be read (its row names no k); or the fault
of R323. -/
def State.mxRows (s : State) (m : MxCmd) (g : Nat) : Except MxStop (List (List Nat) × Option (W64 × MxStop) × State) :=
  if m.op ≠ 3 then
    let ks := (upTo (Min.min 8 (m.K - 8 * g))).map (8 * g + ·)
    .ok (List.replicate m.M ks, none, s)
  else
    let w := g / 8
    let (ws, bad, s) := s.mxRead ((upTo m.M).map fun r => m.metaItem r w)
    let kept := ws.map fun x => (marks (x / 2 ^ (8 * (g % 8)) % 256)).map (8 * g + ·)
    match bad with
    | some f => .ok (kept, some f, s)
    | none =>
      let wrong (r x : Nat) : Option MxStop :=
        ((upTo 8).filterMap fun j =>
          let b := x / 2 ^ (8 * j) % 256
          if (marks b).length = (if 8 * w + j < m.K / 8 then 4 else 0) then none
          else some (⟨0x0D#8, w64 (b + j * 2 ^ 8 + r * 2 ^ 11 + w * 2 ^ 16), 3⟩ : MxStop)).head?
      match ((upTo m.M).filterMap fun r => wrong r (ws.getD r 0)).head? with
      | some t => .error t
      | none => .ok (kept, none, s)

/-- The new bits of an FP32 tile element (R110): `keep` says that it takes part with its old value. -/
def mmaFp (keep : Bool) (g : Nat) (old : W32) (prods : List (Val × Fl)) : W32 × Fl :=
  let fl := prods.foldl (fun f p => f.or p.2) Fl.none
  let o := fp32.read old.toNat
  if keep && o.isNan then (old ||| 0x00400000#32, fl.or { nv := o.isSnan }) else
  let terms := prods.map (·.1)
  let acc : Val := if keep then o else .fin false (.dy 0 0)
  let (v, f1) := (nanOf terms).getD (sumVals false (acc :: terms))
  if v.isNan then (BitVec.ofNat 32 (0x7FC00000 + g % 2 ^ 22), fl.or f1) else
  let (b, f2) := fp32.round 0#2 0 false v
  (BitVec.ofNat 32 b, (fl.or f1).or f2)

/-- The new bits of an INT32 tile element (R110, R310 SAT32). -/
def mmaInt (keep : Bool) (old : W32) (sum : Int) : W32 × Fl :=
  let v := (if keep then old.toInt else 0) + sum
  let r := clampI (-2 ^ 31) (2 ^ 31 - 1) v
  (BitVec.ofInt 32 r, { ovf := r != v })

/-- The integer of a value of scale 0. -/
def valInt (v : Val) : Int := termAt 0 v

/-- k-group g of MMA, MMAS or MMAP. -/
def State.mxGroup (s : State) (m : MxCmd) (g : Nat) : MxOut :=
  match s.mxRows m g with
  | .error t => .stop t s
  | .ok (rows, bad0, s) =>
    let wa := encBytes m.aenc
    let wb := encBytes m.benc
    let aItems (r : Nat) : List MxItem :=
      (if m.op = 3 then (upTo 4).map (4 * g + ·) else rows.getD r []).map fun k => ⟨m.aaddr + w64 (r * m.astr + k * wa), wa, 1⟩
    let ks := (upTo 8).map (8 * g + ·) |>.filter fun k => rows.any (·.contains k)
    let bItems (k : Nat) : List MxItem :=
      (upTo m.N).map fun c => ⟨m.baddr + w64 (if m.trb then c * m.bstr + k * wb else k * m.bstr + c * wb), wb, 2⟩
    let aIt := (upTo m.M).flatMap aItems
    let bIt := ks.flatMap bItems
    let (av, bad1, s) := s.mxRead aIt
    let (bv, bad2, s) := s.mxRead bIt
    let low (a b : Option (W64 × MxStop)) : Option (W64 × MxStop) := match b with | some (va, t) => lowest a va t | none => a
    let bad := low (low bad0 bad1) bad2
    match bad with
    | some (_, t) => .stop t s
    | none =>
      let c := s.core
      let vA (x : MxItem) (b : Nat) : Val :=
        if m.op = 4 then ps2Read 6 b else ((Enc.ofCode m.aenc).val (c.mxScale x.va) (c.mxScale x.va) b).scale m.asc
      let vB (x : MxItem) (b : Nat) : Val := ((Enc.ofCode m.benc).val (c.mxScale x.va) (c.mxScale x.va) b).scale m.bsc
      let A := List.zipWith vA aIt av
      let B := List.zipWith vB bIt bv
      let aOff (r : Nat) : Nat := ((rows.take r).map List.length).sum
      let pairs (r j : Nat) : List (Val × Val) :=
        (rows.getD r []).mapIdx fun n k => (A.getD (aOff r + n) Val.dnan, B.getD ((ks.idxOf k) * m.N + j) Val.dnan)
      let keep := m.acc || decide (0 < g)
      let elem (r j : Nat) (old : W32) : W32 × Fl :=
        if m.renc = 8 then mmaInt keep old (((pairs r j).map fun p => valInt p.1 * valInt p.2).sum)
        else mmaFp keep g old ((pairs r j).map fun p => mulV p.1 p.2)
      .ok ((upTo (m.M * m.N)).foldl (fun s i =>
        let (b, f) := elem (i / m.N) (i % m.N) (s.core.tileAt m.tile (i / m.N) (i % m.N))
        s.setCore fun c => (c.setTile m.tile (i / m.N) (i % m.N) b).mxRaise f) s)

/-! ### Tile transfers (R313) -/

/-- The draw of element (r, c) in SR mode (R105, R313). -/
def MxCmd.draw (m : MxCmd) (r c : Nat) : Nat := if m.rnd = 3#2 then Machine.draw m.key (m.ctr + w64 (r * 32 + c)) else 0

/-- Row r of MLDACC. -/
def State.mxLoadRow (s : State) (m : MxCmd) (r : Nat) : MxOut :=
  let w := encBytes m.aenc
  let items : List MxItem := (upTo m.N).map fun c => ⟨m.xElem w r c, w, 4⟩
  let (vs, bad, s) := s.mxRead items
  match bad with
  | some (_, t) => .stop t s
  | none =>
    let e := if m.renc = 8 then Enc.int32 else Enc.fp32
    .ok ((upTo m.N).foldl (fun s j =>
      let sc := s.core.mxScale (m.xElem w r j)
      let v := ((Enc.ofCode m.aenc).val sc sc (vs.getD j 0)).quiet
      let sn : Fl := { nv := ((Enc.ofCode m.aenc).val sc sc (vs.getD j 0)).isSnan }
      let (b, f) := e.round 0 0 m.rnd (m.draw r j) false (v.scale m.asc)
      s.setCore fun c => (c.setTile m.tile r j (BitVec.ofNat 32 b)).mxRaise (f.or sn)) s)

/-- Row r of MSTACC: every destination is translated before the row writes an element. -/
def State.mxStoreRow (s : State) (m : MxCmd) (r : Nat) : MxOut :=
  let w := encBytes m.renc
  let bad := (upTo m.N).foldl (fun b j =>
    let va := m.xElem w r j
    match s.engine .store va w with
    | .error (c, t) => lowest b va ⟨mxCause c, t, 5⟩
    | .ok (p, _) =>
      if !p.here && s.nacks p.peerKey.1 p.peerKey.2 then lowest b va ⟨mxCause 0x05#8, (xFault .store va 7).2, 5⟩ else b) none
  match bad with
  | some (_, t) => .stop t s
  | none =>
    let one (acc : MxOut) (j : Nat) : MxOut :=
      match acc with
      | .stop t s => .stop t s
      | .ok s =>
        let old := s.core.tileAt m.tile r j
        let sc := s.core.mxScale (m.xElem w r j)
        let x : Val := if m.tint then .int old.toInt 0 else fp32.read old.toNat
        let (b, f) := (Enc.ofCode m.renc).round sc sc m.rnd (m.draw r j) false (x.quiet.scale m.rsc)
        let s := s.setCore (·.mxRaise (f.or { nv := x.isSnan }))
        match s.unitSend (.mx m.seq r (m.xElem w r j)) (m.xElem w r j) (toBytes w b) m.setf with
        | .error (c, t) => .stop ⟨mxCause c, t, 5⟩ s
        | .ok s => .ok s
    (upTo m.N).foldl one (.ok s)

/-- MZERO. -/
def State.mxZero (s : State) (m : MxCmd) : State :=
  (upTo (m.M * m.N)).foldl (fun s i => s.setCore (·.setTile m.tile (i / m.N) (i % m.N) 0)) s

/-! ### Steps of the unit -/

/-- Groups or rows of a command. -/
def MxCmd.units (m : MxCmd) : Nat := if m.isMma then cdiv m.K 8 else if m.op = 1 then 1 else m.M

/-- k-steps of a group or row (R314). -/
def MxCmd.per (m : MxCmd) : Nat :=
  if m.op = 2 then (if m.aenc = 2 ∨ m.aenc = 3 then 16 else 8) else if m.op = 3 ∨ m.op = 4 then 4 else 1

/-- The tile elements whose old value group or row g reads: those that it accumulates into (R310), or the row that MSTACC stores. -/
def MxCmd.readsTile (m : MxCmd) (g i : Nat) : Bool :=
  let r := i / 32 % 32
  i / 1024 == m.tile && decide (i % 32 < m.N) && (if m.op = 6 then r == g else m.isMma && decide (r < m.M) && (m.acc || decide (0 < g)))

/-- An erroneous doubleword of the accumulator store of core c that holds one of the tile elements that `f` selects (R398). -/
def tileErr (c : Core) (f : Nat → Bool) (e : ErrLoc) : Bool :=
  match e with
  | .tile k w => k == c.pcid && (f (w / 2 * 2) || f (w / 2 * 2 + 1))
  | _ => false

/-- The machine check of tile elements that cannot be corrected. -/
def State.tileBad (s : State) (f : Nat → Bool) : Option (Byte × W64) := (s.bad.find? (tileErr s.core f)).map (errFault · s.core.pcid)

/-- Group or row g, with the tile elements that it reads corrected (R399); FOPND of a machine check of the tile is 0 (log entry 94). -/
def State.mxUnit (s : State) (m : MxCmd) (g : Nat) : MxOut :=
  match s.tileBad (m.readsTile g) with
  | some (c, t) => .stop ⟨c, t, 0⟩ s
  | none =>
  let s := s.correct (tileErr s.core (m.readsTile g))
  match m.op with
  | 1 => .ok (s.mxZero m)
  | 5 => s.mxLoadRow m g
  | 6 => s.mxStoreRow m g
  | _ => s.mxGroup m g

/-- ROWPROG of a command in execution or stopped at group or row g (R315). -/
def rowprogOf (m : MxCmd) (g : Nat) : W64 := w64 (m.seq * 2 ^ 48 + g % 65536 * 2 ^ 32 + 1)

/-- A fault of the running command is pending (R321). -/
def Core.mxStopped (c : Core) (m : MxCmd) (t : MxStop) : Core :=
  { c with mx := { c.mx with started := false, fault := some (t.cause, t.tval),
                             mxflt := w64 (m.seq * 2 ^ 48 + t.cause.toNat * 2 ^ 40 + t.op * 2 ^ 36) } }

/-- The unit starts its next command (R305, R308), or restarts one that had started, with the formats that it has read (R192, R322). -/
def State.mxStart (s : State) : State :=
  match s.core.mx.queue with
  | [] => s
  | m :: _ =>
    if s.core.mx.started || s.core.mx.fault.isSome then s else
    let old := s.core.mx.rowprog
    let again := bit old 0 && bf old 48 16 == m.seq
    let g := if again then bf old 32 16 else 0
    let (fs, ok) := if again && s.core.mx.fmts != [] then (s.core.mx.fmts, true) else s.mxFormats m
    let fs := if ok then fs else []
    let s := s.setCore fun c => { c.edrop 2 with mx := { c.mx with started := true, fmts := fs, steps := g * m.per, rowprog := rowprogOf m g } }
    if ok then s else s.setCore (·.mxStopped m ⟨0x0B#8, w64 (8 + m.op * 256 + m.seq * 65536), 6⟩)

/-- The ramp counts of the current core's unit in this and the last window (R185). -/
def State.ramp (s : State) : Nat × Nat := tget (0, 0) s.core.pcid s.ramps

/-- Upper and lower bound of this window's count (R185, R410); the ceiling also bounds the dummy steps (log entry 75). -/
def State.rampHi (s : State) : Nat := Min.min (Min.min 800 (s.ramp.2 + s.rampNow.2)) s.rampNow.1
def State.rampLo (s : State) : Nat := Min.min (s.ramp.2 - s.rampNow.2) s.rampNow.1

/-- Add empty and dummy steps to RAMPTEL (R186, R409). -/
def rampCount (t : W64) (empty dummy : Nat) : W64 :=
  w64 (Min.min (bf t 32 32 + empty) (2 ^ 32 - 1) * 2 ^ 32 + Min.min (bf t 0 32 + dummy) (2 ^ 32 - 1))

/-- One more step of the current core's unit in this window. -/
def State.rampAdd (s : State) : State := { s with ramps := tmod (0, 0) s.core.pcid (fun u => (u.1 + 1, u.2)) s.ramps }

/-- The empty steps of the units at their upper bound, up to CYC `now` (R186). -/
def State.rampIdle (s : State) (now : Nat) : State :=
  { s with ramptel := rampCount s.ramptel ((s.capped.map fun u => now - u.2).sum) 0, capped := s.capped.map fun u => (u.1, Max.max u.2 now) }

/-- The current core's unit stands at its upper bound while commands wait, from CYC `now` on. -/
def State.rampFull (s : State) (now : Nat) : State :=
  if s.capped.any (·.1 == s.core.pcid) then s else { s with capped := s.capped ++ [(s.core.pcid, now)] }

/-- A window ends: each unit's count, made up to its lower bound by dummy steps, becomes the previous one, and the bounds are taken afresh (R185, R410). It
does so whatever the core of the unit does (R186). -/
def State.rampOnce (s : State) : State :=
  let low (u : Nat × Nat) : Nat := Max.max u.1 (Min.min (u.2 - s.rampNow.2) s.rampNow.1)
  let dummy := (s.ramps.map fun e => low e.2 - e.2.1).sum
  { s with
    ramps := (s.ramps.map fun e => (e.1, (0, low e.2))).filter fun e => e.2.2 != 0, ramptel := rampCount s.ramptel 0 dummy, capNow := s.pwrcap,
    rampNow := (bf s.rampcfg 16 10, Min.min 800 (Max.max 1 (bf s.rampcfg 0 10))) }

/-- n windows end. -/
def State.rampTimes (s : State) : Nat → State
  | 0 => s
  | n + 1 => State.rampTimes s.rampOnce n

/-- The windows that have ended since the limiter last counted: they begin at multiples of 800 in CYC (R185). After 801 of them every count is 0. -/
def State.rampWindow (s : State) : State :=
  let w := s.cyc.toNat / 800
  if w = s.rampAt then s else
  let s := s.rampIdle ((s.rampAt + 1) * 800)
  { s.rampTimes (if s.rampAt < w then Min.min (w - s.rampAt) 801 else 1) with rampAt := w, capped := [] }

/-- The limiter's counts up to the present cycle: before anything reads RAMPTEL, or changes what the next window takes (R410). -/
def State.rampSettle (s : State) : State := let s := s.rampWindow; s.rampIdle s.cyc.toNat

/-- One array cycle of the unit (R185, R314): a real step, an empty one under the limiter, or a dummy one. -/
def State.mxStep (s : State) : State :=
  let s := s.rampWindow
  match s.core.mx.queue with
  | [] => if s.ramp.1 < s.rampLo then { s.rampAdd with ramptel := rampCount s.ramptel 0 1 } else s
  | m :: _ =>
    let x := s.core.mx
    if !x.started || decide (m.units * m.per ≤ x.steps) then s
    else if s.rampHi ≤ s.ramp.1 then s.rampFull s.cyc.toNat
    else
      let n := x.steps + 1
      let u := s.rampAdd.setCore fun c => { c with mx := { c.mx with steps := n } }
      let u := if u.rampHi ≤ u.ramp.1 && (decide (n < m.units * m.per) || decide (1 < x.queue.length)) then u.rampFull (s.cyc.toNat + 1) else u
      if n % m.per ≠ 0 then u else
      let g := n / m.per - 1
      match u.mxUnit m g with
      | .ok t => t.setCore fun c => { c with mx := { c.mx with rowprog := rowprogOf m (g + 1), owed := c.mx.owed + (t.reqs.length - u.reqs.length) } }
      | .stop t v =>
        if t.cause = 0x00#8 then ({ v with ramps := s.ramps, capped := s.capped }.setCore fun c => { c with mx := x }).engAsk 2 t.tval
        else v.setCore fun c => { c with mx := { c.mx with owed := c.mx.owed + (v.reqs.length - u.reqs.length) } }.mxStopped m t

/-- The running command leaves the queue (R305, R314). -/
def Core.mxPop (c : Core) : Core :=
  { c.edrop 2 with mx := { c.mx with queue := c.mx.queue.drop 1, started := false, fmts := [], steps := 0, rowprog := clrBit c.mx.rowprog 0, owed := 0 } }

/-- SKIP ends the stopped command (R322); its writes that have been sent are still awaited (R232). -/
def Core.mxSkip (c : Core) : Core :=
  let seq := match c.mx.queue with | m :: _ => m.seq | [] => 0
  ({ c with mx := { c.mx with fault := none, left := c.mx.left ++ List.replicate c.mx.owed seq } } : Core).mxPop

/-- The running command completes after its last step, once its writes are performed (R318). -/
def State.mxDone (s : State) : State :=
  match s.core.mx.queue with
  | m :: _ => if s.core.mx.started && s.core.mx.owed == 0 && decide (m.units * m.per ≤ s.core.mx.steps) then s.setCore Core.mxPop else s
  | [] => s

/-- A write of command `seq` to another module is performed. -/
def Core.mxAck (c : Core) (seq : Nat) : Core :=
  match c.mx.queue.head?.filter (·.seq == seq) with
  | some _ => { c with mx := { c.mx with owed := c.mx.owed - 1 } }
  | none => { c with mx := { c.mx with left := c.mx.left.erase seq } }

/-- It has failed (R321, R427): the command stops at that row. Of several failures the lowest row counts, and in it the lowest address (R390). -/
def Core.mxNack (c : Core) (seq row : Nat) (va : W64) (code : Nat) : Core :=
  match c.mx.queue.head?.filter (·.seq == seq) with
  | none => c.mxAck seq
  | some m =>
    let c := c.mxAck seq
    let at' := bf c.mx.rowprog 32 16
    let first := match c.mx.fault with
      | some (_, t) => decide (row < at') || (row == at' && decide (bf va 0 56 < bf t 0 56))
      | none => true
    if !first then c else
    let c := c.mxStopped m ⟨mxCause 0x05#8, (xFault .store va code).2, 5⟩
    { c with mx := { c.mx with rowprog := rowprogOf m (Min.min row at') } }

/-! ### The MXC instructions -/

/-- Row length of ACCRD and ACCWR (R317). -/
def accLen (y : W64) : Nat := if bf y 0 32 = 0 then 128 else bf y 0 32

/-- The checks of R317, in order: the trap, or the offset of the tile in own local memory. -/
def Core.accCheck (c : Core) (t : Nat) (x y : W64) : Except (Byte × W64) Nat :=
  let L := accLen y
  match c.mx.queue.find? (·.tile == t) with
  | some m => .error (0x0A#8, w64 (t + m.seq * 2 ^ 16))
  | none =>
    if x.toNat % 8 ≠ 0 ∨ L % 8 ≠ 0 then .error (0x02#8, x) else
    match (if c.isOwn x.toNat then c.localOf x.toNat else none) with
    | none => .error (xFault .load x 6)
    | some (_, o) =>
      if L < 128 then .error (xFault .load x 6) else
      match (upTo 32).find? fun r => decide (c.lmin < o + r * L + 128) with
      | some r => .error (xFault .load (x + w64 (r * L + (c.lmin - (o + r * L)))) 6)
      | none => .ok o

/-- R317: ACCRD. -/
def execAccrd (t : BitVec 4) (a b : BitVec 5) (l : BitVec 4) (s : State) : Out := .next <|
  match s.core.mxTrap with
  | some f => s.trapLT l f
  | none =>
    s.operandsL l false [a, b] [] fun vs s0 s =>
      match s.core.accCheck t.toNat (vs.getD 0 0) (vs.getD 1 0) with
      | .error f => s0.trapL l f.1 f.2
      | .ok o =>
        let mine (i : Nat) : Bool := i / 1024 == t.toNat
        match s.tileBad mine with
        | some f => s0.trapL l f.1 f.2
        | none =>
        let s := (if s.core.ownPosted then s.drainAll else s).correct (tileErr s.core mine)
        if s.core.ownPosted then s0.drainAll.waitL l else
        let L := accLen (vs.getD 1 0)
        let row (c : Core) (r : Nat) : Core :=
          c.locWrite (o + r * L) ((upTo 32).flatMap fun k => toBytes 4 (c.tileAt t.toNat r k).toNat)
        (s.setCore fun c => (upTo 32).foldl row c).landL l []

/-- R317: ACCWR. -/
def execAccwr (t : BitVec 4) (a b : BitVec 5) (l : BitVec 4) (s : State) : Out := .next <|
  match s.core.mxTrap with
  | some f => s.trapLT l f
  | none =>
    s.operandsL l false [a, b] [] fun vs s0 s =>
      match s.core.accCheck t.toNat (vs.getD 0 0) (vs.getD 1 0) with
      | .error f => s0.trapL l f.1 f.2
      | .ok o =>
        let L := accLen (vs.getD 1 0)
        let s := if s.core.ownPosted then s.drainAll else s
        if s.core.ownPosted then s0.drainAll.waitL l else
        match ((upTo 32).filterMap fun r => s.badAt (.own (o + r * L)) 128).head? with
        | some f => s0.trapL l f.1 f.2
        | none =>
        let s := (upTo 32).foldl (fun s r => s.fixAt (.own (o + r * L)) 128) s
        let word (c : Core) (i : Nat) : Core :=
          c.setTile t.toNat (i / 32) (i % 32) (BitVec.ofNat 32 (ofBytes (c.locRead (o + i / 32 * L + 4 * (i % 32)) 4)))
        let types (c : Core) : W64 := if bit (vs.getD 1 0) 32 then c.types ||| at64 1 t.toNat else clrBit c.types t.toNat
        (s.setCore fun c => { (upTo 1024).foldl word c with types := types c }).landL l []

/-- R318: MXWAIT. -/
def execMxwait (d a : BitVec 5) (l : BitVec 4) (s : State) : Out := .next <|
  match s.core.mxTrap with
  | some f => s.trapLT l f
  | none =>
    s.operandsL l false [a] (if d = 0#5 then [] else [d]) fun vs s0 s =>
      let due (q : Nat) : Bool := decide ((bf (vs.getD 0 0) 0 16 + 65536 - q) % 65536 < 32768)
      if (s.core.mx.queue.any fun m => due m.seq) || s.core.mx.left.any due then s0.waitL l
      else if d = 0#5 then s.landL l []
      else (s.setCore fun c => { c with mx := { c.mx with mxfl := 0 } }).landL l [.s d s.core.mx.mxfl]

/-- R319: MXSEQ. -/
def execMxseq (d : BitVec 5) (l : BitVec 4) (s : State) : Out := .next <|
  match s.core.mxTrap with
  | some f => s.trapLT l f
  | none => s.operandsL l false [] [d] fun _ _ s => s.landL l [.s d (w64 ((s.core.mx.next + 65535) % 65536))]

/-! ### The unit's steps as events -/

/-- A saved core's unit does nothing (R324). -/
def State.unlessSaved (s : State) (f : State → State) : State := if s.core.st = .saved then s else f s

def execMatrixCommandStart (q l : Nat) (s : State) : Out := .next (s.asCore q l (·.unlessSaved State.mxStart))
def execMatrixKStep (q l : Nat) (s : State) : Out := .next (s.asCore q l (·.unlessSaved State.mxStep))
def execMatrixCommandComplete (q l : Nat) (s : State) : Out := .next (s.asCore q l (·.unlessSaved State.mxDone))
def execRampWindowBoundary (s : State) : Out := .next s.rampWindow

end Sys2Proof.Machine
end

