-- ==== Sys2Proof/Machine/Sync.lean ====
section
/-!
DEFINITION. Barriers, votes and phases (R338 to R344), events (R345 to R347), and WAITT (R258, R259).
-/
namespace Sys2Proof.Machine

/-! ### Episodes -/

/-- Domain id of a core at a level (R8, R9). -/
def Core.domAt (c : Core) (level : Nat) : Nat :=
  match level with
  | 1 => c.dom[0].toNat
  | 2 => c.dom[1].toNat
  | 3 => c.dom[2].toNat
  | 4 => c.dom[3].toNat
  | 5 => c.dom[4].toNat
  | _ => c.lcn.toNat

/-- Domain id at a level of the core at logical router (lx, ly) of an LX-wide torus (R8). -/
def domIdAt (LX level lx ly lcn : Nat) : Nat :=
  match level with
  | 1 => ly * LX + lx
  | 2 => ly / 4 * cdiv LX 4 + lx / 4
  | 3 => ly / 16 * cdiv LX 32 + lx / 32
  | 4 => ly / 64 * cdiv LX 64 + lx / 64
  | 5 => 0
  | _ => lcn

/-- The routers that one domain of a level spans: so many in X and in Y (R8). -/
def domExtent (level : Nat) : Nat × Nat :=
  match level with
  | 2 => (4, 4)
  | 3 => (32, 16)
  | 4 => (64, 64)
  | _ => (1, 1)

/-- Number of members of a domain (R10). -/
def domSize (LX LY level id : Nat) : Nat :=
  if level = 0 then 1 else if level = 5 then LX * LY * 4 else
  let (ex, ey) := domExtent level
  let w := cdiv LX ex
  let x := id % w * ex
  let y := id / w * ey
  4 * (Min.min ex (LX - x) * Min.min ey (LY - y))

/-- A core of queue q in the domain. -/
def Core.inDom (c : Core) (q level id : Nat) : Bool := c.present && c.queue == q && c.domAt level == id

/-- What a member contributed: kind, operation, operand, DOMPH.KIND and STEP. -/
def Core.contribution (c : Core) : Option RemoteArrival :=
  c.arrival.map fun a => ⟨a.kind, a.op, a.operand, bit c.domph 32, c.domph.setWidth 32⟩

/-- The value of a VOTE (R343). -/
def voteValue (op : Nat) (xs : List W64) : W64 :=
  match op with
  | 0 => xs.foldl (· ||| ·) 0
  | 1 => xs.foldl (· &&& ·) (BitVec.allOnes 64)
  | 2 => xs.foldl (fun a x => if a.ult x then x else a) 0
  | _ => w64 (xs.filter (· != 0#64)).length

/-- The outcome of a complete episode (R339, R343). -/
def episodeResult (as : List RemoteArrival) : Nat × W64 :=
  match as with
  | [] => (0, 0)
  | a :: _ =>
    if !as.all (fun b => b.kind == a.kind && (a.kind != 1 || b.op == a.op)) then (3, 0)
    else if a.kind = 2 && !as.all (fun b => b.phKind == a.phKind && b.phStep == a.phStep) then (4, 0)
    else (0, if a.kind = 1 then voteValue a.op (as.map (·.operand)) else 0)

/-- Logical core l of an LX-wide torus lies in the domain (R8, R9). -/
def lcnInDom (LX level id l : Nat) : Bool := domIdAt LX level (l / 4 % LX) (l / 4 / LX) l == id

/-- The task was pushed by a member of the domain or stolen from the deque of one (R20). -/
def Task.ofDom (t : Task) (LX level id : Nat) : Bool := (t.home :: t.via).any (lcnInDom LX level id)

/-- A deque of a member still holds an entry, or a task taken from one has not reached TKDONE with its write set returned (R20). -/
def State.taskOpen (s : State) (q level id : Nat) : Bool :=
  let LX := match (s.queue q).launch with | some l => l.lx | none => 1
  let of (t : Task) : Bool := t.ofDom LX level id
  s.allCores.any fun c => c.present && c.queue == q
    && ((c.inDom q level id && c.deque != []) || c.deque.any of || c.lent.any of || (match c.task with | some t => of t | none => false))

/-- The logical routers of a domain, with where the remap table puts them (R8, R71). -/
def Launch.domRouters (a : Launch) (level id : Nat) : List W64 :=
  (a.remap.zipIdx.filter fun e => bit e.1 40 && lcnInDom a.lx level id (4 * e.2)).map (·.1)

/-- A flit of an episode (KIND 7, TAG[11:8] = 0xF, R339) to the router of a remap entry; log entry 92 on the tree and on TAG[7:0]. -/
def State.sendEpisode (s : State) (level : Nat) (release : Bool) (e : W64) : State :=
  s.emit (.flit (flitTo s.core.pcid s.inc (bf e 0 12) (bf e 12 12) (s.module (remapPkg e)).1.toNat 7 (0xF00 + (if release then 0x80 else 0) + level)))

/-- The combined arrival of this module's members leaves for the root of the domain's tree when that lies on another module (R339). -/
def State.arriveUp (s : State) (q level id : Nat) : State :=
  match (s.queue q).launch.bind fun a => (a.domRouters level id).head? with
  | none => s
  | some e =>
    let ms := s.allCores.filter (·.inDom q level id)
    if remapPkg e ≠ Config.pkgX ∧ ms.all (fun c => match c.arrival with | some a => a.level == level | none => false) then s.sendEpisode level false e else s

/-- The release floods from the root of the domain's tree to the other modules that hold members (R339). -/
def State.releaseDown (s : State) (q level id : Nat) : State :=
  match (s.queue q).launch with
  | none => s
  | some a =>
    let es := a.domRouters level id
    if (es.map remapPkg).head? ≠ some Config.pkgX then s else
    ((es.map remapPkg).dedup.filter (· != Config.pkgX)).foldl (fun s p =>
      match es.find? (remapPkg · == p) with | some e => s.sendEpisode level true e | none => s) s

/-- The last member has arrived (R338 to R340): every member on this module, and the members elsewhere that `far` lists, get the outcome. -/
def State.completeEpisode (s : State) (q level id : Nat) (far : List RemoteArrival) : State :=
  let ms := s.allCores.filter (·.inDom q level id)
  let arr := ms.filterMap fun c => match c.arrival with | some a => if a.level = level ∧ a.result = none then some a.num else none | none => none
  let (lx, ly) := match (s.queue q).launch with | some l => (l.lx, l.ly) | none => (0, 0)
  if arr.length = ms.length ∧ ms.length ≠ 0 ∧ arr.all (· == arr.headD 0) ∧ ms.length + far.length = domSize lx ly level id
    ∧ !s.taskOpen q level id then
    let r := episodeResult (ms.filterMap Core.contribution ++ far)
    (s.releaseDown q level id).mapCores fun c =>
      if c.inDom q level id then { c with arrival := c.arrival.map fun a => { a with result := some r } } else c
  else s

/-- DOMPH after a PHASE at level L (R344). -/
def phaseNext (x : W64) (level : Nat) : W64 :=
  let kind := 1 - bf x 32 1
  let step := if kind = 0 then (bf x 0 32 + 1) % 2 ^ 32 else bf x 0 32
  w64 (level * 2 ^ 33 + kind * 2 ^ 32 + step)

/-- The phase violation of an episode whose members did not arrive alike (R339): the instruction that arrived has completed without effect, and the trap
is owed at the next. -/
def State.owe (s : State) (why : W64) : State :=
  let s := s.retire
  let s := s.setCore fun c => { c with owed := some (c.pc, why) }
  match s.core.owedHere with
  | some v => if s.core.owedNow then s.takeOwed v else s
  | none => s

/-- SYNCOP (R340, R341): kind 0 BAR, 1 VOTE, 2 PHASE. A PHASE in a compute phase closes the core's demand at its arrival (R356). -/
def syncOp (kind op level : Nat) (d a : SReg) (s : State) : State :=
  let c := s.core
  if c.deque ≠ [] ∨ c.task.isSome then s.trap 0x13#8 (if c.task.isSome then 2 else 1) else
  let rs := if kind = 1 then [a] else []
  let leave (s : State) : State := s.acquire.setCore fun c => { c with arrival := none }
  let done (r : W64) (s : State) : State :=
    let s := leave s
    if kind = 1 then s.finish d r
    else if kind = 2 then (s.setCore fun c => { c with domph := phaseNext c.domph level }).retire
    else s.retire
  match c.arrival with
  | some x =>
    match x.result with
    | none => s.wait
    | some (0, r) => s.operands false rs (if kind = 1 then [d] else []) fun _ _ s => done r s
    | some (why, _) => s.operands false rs [] fun _ _ s => (leave s).owe (w64 why)
  | none =>
    match c.engineTrap with
    | some t => s.trapT t
    | none =>
      s.operands false rs (if kind = 1 then [d] else []) fun vs s0 _ =>
        match s0.fenceWait 2#2 true with
        | .trap t s => s.trapT t
        | .wait s => s.wait
        | .ok s1 =>
          let k := s1.core.episodes.getD level 0
          let x := vs.getD 0 0
          let s2 := s1.setCore fun c => { c with
            episodes := c.episodes.set level (k + 1), arrival := some ⟨level, k, kind, op, x, none⟩ }
          let s2 := if kind = 2 ∧ !bit s1.core.domph 32 then s2.closeDemand else s2
          if level = 0 ∧ !s2.taskOpen c.queue 0 c.lcn.toNat then
            let r := episodeResult [⟨kind, op, x, false, 0⟩]
            s2.operands false rs [] fun _ _ s => done r.2 s
          else (s2.arriveUp c.queue level (c.domAt level)).wait

/-- R342: BAR, VOTE and PHASE. -/
def execBar (l : BitVec 3) (s : State) : Out := .next (syncOp 0 0 l.toNat 0#5 0#5 s)
def execVote (d a : BitVec 5) (o : BitVec 2) (l : BitVec 3) (s : State) : Out := .next (syncOp 1 o.toNat l.toNat d a s)
def execPhase (l : BitVec 3) (s : State) : Out := .next (syncOp 2 0 l.toNat 0#5 0#5 s)

/-! ### Events -/

/-- TVAL of a message error (R349). -/
def msgTval (reason target : Nat) : W64 := w64 (reason + target % 2 ^ 26 * 2 ^ 32)

/-- Write a control register's doubleword of a saved core's record (R384, R385). -/
def State.savedPut (s : State) (c : Core) (off : Nat) (ws : List W64) : State :=
  match s.hubPutDws (s.ctxOf c) (s.recBase c + off) ws with
  | .ok s => s
  | .error _ => s

/-- Set a bit of a core's event latch (R346, R385). -/
def State.signal (s : State) (q l ev : Nat) : State :=
  let upd (c : Core) : Core := { c with evlatch := c.evlatch ||| at64 1 (ev % 16) }
  if s.isCur q l then
    let s := s.setCore upd
    if s.core.st = .saved then s.savedPut s.core (0x300 + 8 * 0x1E) [s.core.evlatch] else s
  else
  match s.find q l with
  | some i =>
    let s := s.setPeer i upd
    match s.peers[i]? with
    | some c => if c.st = .saved then s.savedPut c (0x300 + 8 * 0x1E) [c.evlatch] else s
    | none => s
  | none => s

/-- R346: WFE. -/
def execWfe (d a : BitVec 5) (s : State) : Out := .next <|
  s.operands false [a] [d] fun vs s0 s =>
    let x := bf (vs.getD 0 0) 0 16
    let m := w64 (if x = 0 then 65535 else x)
    let v := s.core.evlatch &&& m
    if v = 0#64 then s0.wait
    else (s.acquire.setCore fun c => { c with evlatch := c.evlatch &&& ~~~v }).finish d v

/-- R346: SEV. -/
def execSev (a b : BitVec 5) (s : State) : Out := .next <|
  s.operands false [a, b] [] fun vs s0 s =>
    let x := vs.getD 0 0
    let y := vs.getD 1 0
    let t := bf x 0 26
    let c := s.core
    if bf x 26 38 ≠ 0 ∨ bf y 4 60 ≠ 0 ∨ c.ncores.toNat ≤ t then s0.trap 0x14#8 (msgTval 1 t) else
    match s0.core.answer (w64 t) with
    | .waiting => s0.wait
    | .nack _ => s0.trap 0x14#8 (msgTval 2 t)
    | .reply _ _ => s.retire
    | .none =>
      match s0.fenceWait 2#2 false with
      | .trap e s => s.trapT e
      | .wait s => s.wait
      | .ok s1 =>
        match s1.window .store t 0 with
        | .error _ => s1.trap 0x14#8 (msgTval 2 t)
        | .ok (.farLoc pc k o, _) => (s1.askFor .sev (.farLoc pc k o) 8 (w64 t) false [] fun tag => .event tag pc (bf y 0 4)).wait
        | .ok _ => s1.operands false [a, b] [] fun _ _ s => (s.signal c.queue t (bf y 0 4)).retire

/-! ### WAITT -/

/-- R258, R259: WAITT. -/
def execWaitt (d a : BitVec 5) (s : State) : Out := .next <|
  match s.core.cfTrap with
  | some t => s.trapT t
  | none =>
    s.operands false [a] [d] fun vs s0 s =>
      let x := vs.getD 0 0
      if s.cyc.ult x then s0.wait else
      let due (r : CopyReq) : Bool := !x.ult r.promise
      match s.core.cf.pending.filter due with
      | [] => s.acquire.finish d s.cyc
      | r :: rs =>
        match (r :: rs).filter (!·.excused) with
        | [] => s0.wait
        | l :: _ =>
          let mark (q : CopyReq) : CopyReq := if due q then { q with excused := true } else q
          (s0.setCore fun c => { c with cf := { c.cf with reqs := c.cf.reqs.map mark } }).trap 0x0E#8 (w64 l.seq)

end Sys2Proof.Machine
end

