-- ==== Sys2Proof/Machine/Copy.lean ====
section
/-!
DEFINITION. The copy FIFO and the copy engine: CPY, CPYNB, CPYQ (R245 to R260), GATHER, SCATTER, DISPATCH, COMBINE (R368 to R372).
-/
namespace Sys2Proof.Machine

/-! ### Endpoints and checks (R247, R249) -/

/-- The format of an endpoint, laid out as BAYFMT (R192, R247): that of the bay of its first element, or the request's code where it is paged.
The format of a core on another module is free (log entry 11). -/
def State.endFmt (s : State) (va code : Nat) : W64 :=
  match s.core.localOf va with
  | none => w64 code
  | some (l, o) =>
    match s.bayOf l (o / 32768) with
    | some f => f
    | none => w64 (bf (Config.freeBits s.tick va) 0 19)

/-- LX and LY of the core's launch. -/
def State.torus (s : State) : Nat × Nat :=
  match s.launchOf s.core with
  | some l => (l.lx, l.ly)
  | none => (1, 1)

/-- The logical cores that a multicast names: core c of each stable j of the yard (R255); none where a stable does not exist. -/
def multiDests (LX LY l mask : Nat) : List (Option Nat) :=
  let x0 := l / 4 % LX / 4 * 4
  let y0 := l / 4 / LX / 4 * 4
  ((upTo 16).filter fun j => mask / 2 ^ j % 2 == 1).map fun j =>
    let x := x0 + j % 4
    let y := y0 + j / 4
    if x < LX ∧ y < LY then some ((y * LX + x) * 4 + l % 4) else none

/-- The first check of R249 that fails. -/
def State.cpyCheck (s : State) (r : CopyReq) : Option Nat :=
  let c := s.core
  let ls := (c.localOf r.src.toNat).isSome
  let ld := c.localOf r.dst.toNat
  let rsv (code : Nat) : Bool := decide (13 ≤ code)
  let al (va : Nat) (f : W64) : Bool :=
    let e := Enc.ofCode (bf f 0 4)
    if e = .bit then r.nelem % 8 == 0 else va % (e.bits / 8) == 0
  let (LX, LY) := s.torus
  if r.nelem = 0 ∨ bf (r.w 2) 36 12 ≠ 0 ∨ bf (r.w 3) 55 9 ≠ 0 then some 1
  else if (if ls then r.senc != 0 else rsv r.senc) || (if ld.isSome then r.denc != 0 else rsv r.denc) then some 2
  else if !r.raw && (!al r.src.toNat r.sf || !al r.dst.toNat r.df) then some 3
  else if r.mmask ≠ 0 && !(match ld with
      | some (l, _) => decide (r.dst.toNat < localBase) && domIdAt LX 2 (l / 4 % LX) (l / 4 / LX) l == domIdAt LX 2 (c.lcn.toNat / 4 % LX) (c.lcn.toNat / 4 / LX) c.lcn.toNat
          && (multiDests LX LY l r.mmask).all Option.isSome
      | none => false) then some 4
  else if c.lmin ≤ r.flagOff then some 5
  else none

/-! ### The promise (R251) -/

/-- H of a place. -/
def State.placeH (s : State) (p : Place) : Nat :=
  let me := s.core.pcid
  match p with
  | .own _ => 1
  | .peer i _ | .saved i _ _ _ =>
    match s.peers[i]? with
    | some c => if pcYard c.pcid = pcYard me then 1 else if pcDie c.pcid = pcDie me then 2 else 4
    | none => 8
  | .mem a _ => if paDie a = pcDie me then 2 else 4
  | _ => 8

/-- H of one address of the core's launch, 8 where it does not translate. -/
def State.addrH (s : State) (a : Acc) (va : W64) : Nat :=
  match s.engine a va 1 with
  | .ok (p, _) => s.placeH p
  | .error _ => 8

/-- H of a range: of every 4 KiB of it where it is paged, of its first byte where it is local (R188). -/
def State.rangeH (s : State) (a : Acc) (va : W64) (n : Nat) : Nat :=
  if (s.core.localOf va.toNat).isSome then s.addrH a va else
  (upTo ((va.toNat + n - 1) / 4096 - va.toNat / 4096)).foldl (fun h i => Max.max h (s.addrH a (w64 ((va.toNat / 4096 + i + 1) * 4096)))) (s.addrH a va)

/-- A doubleword of own local memory. -/
def Core.dwAt (c : Core) (o : Nat) : W64 := w64 (ofBytes (c.locRead o 8))

/-- Rows that COMBINE returns (R372). -/
def Core.combineRows (c : Core) (r : CopyReq) : Nat := Min.min (c.dwAt r.buf).toNat r.cap

/-- Bytes of a row with its tag in an expert (R371). -/
def CopyReq.rowBytes (r : CopyReq) : Nat := 16 + 8 * r.rlen

/-- The expert of pair u, from the route table (R372). -/
def Core.route (c : Core) (r : CopyReq) (u : Nat) : Option Nat :=
  let x := c.dwAt (r.aux + 8 * u)
  if bf x 26 38 = 0 ∧ x.toNat < c.ncores.toNat then some x.toNat else none

/-- How GATHER and SCATTER access the addresses of their list (R370). -/
def CopyReq.acc (r : CopyReq) : Acc := if r.kind = 1 then .load else if r.sop = 0 then .store else .atomic

/-- Destination bytes and H of a request (R251, R368). -/
def State.bytesH (s : State) (r : CopyReq) : Nat × Nat :=
  let c := s.core
  let worst (l : List Nat) : Nat := l.foldl Max.max 1
  match r.kind with
  | 0 =>
    let hd :=
      if r.mmask = 0 then s.rangeH .store r.dst r.dstBytes
      else
        let (LX, LY) := s.torus
        match c.localOf r.dst.toNat with
        | some (l, o) => worst ((multiDests LX LY l r.mmask).map fun t => match t with | some t => s.addrH .store (winAddr t o) | none => 8)
        | none => 8
    (r.dstBytes, Max.max (s.rangeH .load r.src (fmtBytes r.raw r.sf r.nelem)) hd)
  | 1 | 2 => (r.count * r.size, worst ((upTo r.count).map fun i => s.addrH r.acc (c.dwAt (r.list + 8 * i))))
  | 3 =>
    let es := (upTo r.units).filterMap (c.route r)
    (es.length * r.rowBytes, worst (es.map fun e => s.addrH .store (winAddr e r.buf)))
  | _ =>
    (r.cap * 8 * r.rlen, worst ((upTo (c.combineRows r)).map fun p => s.addrH .store (winAddr (bf (c.dwAt (r.buf + 64 + p * r.rowBytes)) 0 26) 0)))

/-- Set bits of a mask. -/
def popMask (m : Nat) : Nat := ((upTo 16).filter fun j => m / 2 ^ j % 2 == 1).length

/-- Accept a request (R248): its sequence number, MINTKEY and promise. -/
def State.cfAccept (s : State) (r : CopyReq) : W64 × State :=
  let f := s.core.cf
  let (b, h) := s.bytesH r
  let d := if r.kind = 0 ∧ r.mmask ≠ 0 then popMask r.mmask else 1
  let p := w64 (Max.max s.cyc.toNat f.last.toNat + 24 + d * cdiv b 32 * h)
  let r := { r with seq := f.next, key := s.core.mintkey, promise := p }
  (p, s.setCore fun c => { c with cf := { f with reqs := f.reqs ++ [r], next := (f.next + 1) % 65536, last := p } })

/-- A fresh request of a kind. -/
def newReq (kind : Nat) (dws : List W64) (fmts : List W64) : CopyReq := ⟨kind, dws, 0, 0, 0, fmts, false, [], 0, none, false, 0, [], []⟩

/-- The state as a request that is being checked reads its own local memory: with the core's own stores to it that are still posted (R231, R368). -/
def State.ownView (s : State) : State :=
  s.core.posted.foldl (fun s e => match e.place with | .own o => s.setCore fun c => { c with lmem := Memory.write c.lmem o e.bytes } | _ => s) s

/-- Hand over a request after its checks: CPYNB writes 0 when the FIFO is full, the others wait (R248, R368). A request that waits has made its checks, and
keeps the formats that they read (R192). -/
def copyOp (kind : Nat) (nb : Bool) (d : SReg) (a : BitVec 3) (la : BitVec 4) (check : State → CopyReq → Option (Byte × W64)) (s : State) : State :=
  match s.core.cfTrap with
  | some t => s.trapLT la t
  | none =>
    let r0 : SReg := a ++ 0#2
    s.operandsL la false [r0, r0 + 1#5, r0 + 2#5, r0 + 3#5] [d] fun vs s0 s =>
      let q := newReq kind vs []
      let held := s.core.again.bind (·.fmts)
      let fs := held.getD (if kind = 0 then [s.endFmt q.src.toNat q.senc, s.endFmt q.dst.toNat q.denc] else [])
      let q := { q with fmts := fs }
      match (if held.isSome then none else check (if s.core.ownPosted then s.ownView else s) q) with
      | some f => s0.trapL la f.1 f.2
      | none =>
        if 8 ≤ s.core.cf.pending.length then (if nb then s.landL la [.s d 0] else s0.waitWith la (some fs)) else
        let s := if s.core.ownPosted then s.drainAll else s
        if s.core.ownPosted then s0.drainAll.waitWith la (some fs) else
        let (p, s) := s.cfAccept q
        s.landL la [.s d p]

/-- R249 as a trap. -/
def State.cpyTrap (s : State) (r : CopyReq) : Option (Byte × W64) := (s.cpyCheck r).map fun k => (0x06#8, w64 (9 * 2 ^ 56 + k))

def execCpy (d : BitVec 5) (a : BitVec 3) (l : BitVec 4) (s : State) : Out := .next (copyOp 0 false d a l State.cpyTrap s)
def execCpynb (d : BitVec 5) (a : BitVec 3) (l : BitVec 4) (s : State) : Out := .next (copyOp 0 true d a l State.cpyTrap s)

/-- The engine converts for the request at the head of the FIFO. -/
def Cf.busy (f : Cf) : Bool := match f.pending.head? with | some r => r.started && !r.raw && r.kind == 0 | none => false

/-- R250: CPYQ. A conversion may complete in its cycle, whose flags are then lost (erratum B0-2; whether one does is a free value, log entry 48). -/
def execCpyq (d : BitVec 5) (l : BitVec 4) (s : State) : Out := .next <|
  s.operandsL l false [] [d] fun _ _ s =>
    let f := s.core.cf
    let old := match f.pending.head? with | some r => r.seq | none => f.next
    let v := w64 (f.next * 2 ^ 48 + old * 2 ^ 32 + (8 - f.pending.length) * 2 ^ 16 + f.fault.isSome.toNat * 2 ^ 8) ||| f.fl
    let miss := f.busy && bit (Config.freeBits s.tick f.next) 0
    (s.setCore fun c => { c with cf := { c.cf with fl := 0, miss := miss } }).landL l [.s d v]

/-! ### GATHER, SCATTER, DISPATCH, COMBINE: checks (R369, R371, R354) -/

/-- The first request word that breaks R369. -/
def Core.listCheck (c : Core) (r : CopyReq) : Option Nat :=
  if bf (r.w 0) 18 46 ≠ 0 ∨ r.list % 8 ≠ 0 ∨ c.lmin < r.list + 8 * r.count then some 0
  else if bf (r.w 1) 18 46 ≠ 0 ∨ r.data % 8 ≠ 0 ∨ c.lmin < r.data + r.size * r.count then some 1
  else if bf (r.w 2) 55 9 ≠ 0 ∨ bf (r.w 2) 29 11 ≠ 0 ∨ bf (r.w 2) 15 9 ≠ 0 ∨ c.lmin ≤ r.flagOff ∨ (if r.kind = 1 then 0 else 1) < r.sop
    ∨ (r.sop = 1 ∧ r.size ≠ 8) ∨ r.count = 0 ∨ 16384 < r.count then some 2
  else if r.w 3 ≠ 0#64 then some 3
  else none

/-- The first request word that breaks R371 or R372. -/
def Core.rowCheck (c : Core) (r : CopyReq) : Option Nat :=
  let n := if r.kind = 3 then r.ntok else r.cap
  let badRoute (u : Nat) : Bool := (c.route r u).isNone && c.dwAt (r.aux + 8 * u) != BitVec.allOnes 64
  if bf (r.w 0) 18 46 ≠ 0 ∨ r.rows % 8 ≠ 0 ∨ c.lmin < r.rows + 8 * r.rlen * n then some 0
  else if bf (r.w 1) 18 46 ≠ 0 ∨ r.aux % 8 ≠ 0 ∨ (r.kind = 3 ∧ c.lmin < r.aux + 8 * r.ntok * r.choices) then some 1
  else if bf (r.w 2) 55 9 ≠ 0 ∨ bf (r.w 2) 29 11 ≠ 0 ∨ c.lmin ≤ r.flagOff ∨ r.choices = 0 ∨ 8 < r.choices ∨ r.rlen = 0
    ∨ (r.kind = 4 ∧ bf (r.w 2) 0 12 ≠ 0) then some 2
  else if bf (r.w 3) 36 28 ≠ 0 ∨ r.cap = 0 ∨ r.buf % 8 ≠ 0 ∨ c.lmin < r.buf + 64 + r.cap * r.rowBytes then some 3
  else if r.kind = 3 ∧ (upTo r.units).any badRoute then some 1
  else none

/-- An exchange violation (R354). -/
def xchTval (reason idx : Nat) : W64 := w64 (reason + idx % 65536 * 256)

def State.reqTrap (s : State) (r : CopyReq) : Option (Byte × W64) :=
  (if r.kind ≤ 2 then s.core.listCheck r else s.core.rowCheck r).map fun k => (0x12#8, xchTval 5 k)

def execGather (d : BitVec 5) (a : BitVec 3) (l : BitVec 4) (s : State) : Out := .next (copyOp 1 false d a l State.reqTrap s)
def execScatter (d : BitVec 5) (a : BitVec 3) (l : BitVec 4) (s : State) : Out := .next (copyOp 2 false d a l State.reqTrap s)
def execDispatch (d : BitVec 5) (a : BitVec 3) (l : BitVec 4) (s : State) : Out := .next (copyOp 3 false d a l State.reqTrap s)
def execCombine (d : BitVec 5) (a : BitVec 3) (l : BitVec 4) (s : State) : Out := .next (copyOp 4 false d a l State.reqTrap s)

/-! ### The engine's work -/

/-- A unit of work done, or the fault that stops its destination; a unit that has to ask another module first gives the mark of `askMark` for a
fault, or, where the request has left, a wait. -/
inductive CopyOut where
  | ok (r : CopyReq) (s : State)
  | fault (f : Byte × W64) (r : CopyReq) (s : State)
  | wait (r : CopyReq) (s : State)

/-- The use of a write of unit k of destination j of a request. -/
def CopyReq.use (r : CopyReq) (j k : Nat) (va : W64) : ReqUse := .copy r.seq j k (if r.kind = 3 then r.pos else none) va

/-- COPYPERM of logical core l, as a request of the current core meets it (R254), and whether the issuer shares its domain at LVL: none where nothing
is refused. The value of a core on another module is free, one for each request and core (`key`; log entry 11). -/
def State.permOf (s : State) (key l : Nat) : Option (W64 × Bool) :=
  let c := s.core
  let (LX, _) := s.torus
  let judge (cp : W64) : W64 × Bool :=
    let v := bf cp 8 3
    (cp, 1 ≤ v && v ≤ 5 && domIdAt LX v (l / 4 % LX) (l / 4 / LX) l == c.domAt v)
  if l = c.lcn.toNat then none else
  match s.find c.queue l with
  | none => if s.moduleOf c.queue l = Config.pkgX then none else some (judge (w64 (bf (Config.freeBits key l) 0 11)))
  | some i => (s.peers[i]?).map fun p => judge p.copyperm

/-- The bytes lie in bays that the value admits. -/
def permBays (cp : W64) (off n : Nat) : Bool :=
  (upTo ((off + n - 1) / 32768 + 1)).all fun b => decide (b < off / 32768) || (decide (b < 8) && bit cp b)

/-- A range of n bytes from offset off of core l's window, which may run on into the windows of the cores after it, is admitted by each of them. -/
def State.permRange (s : State) (key l off n : Nat) : Bool :=
  (upTo ((off + n - 1) / 2 ^ 18 + 1)).all fun i =>
    let o := if i = 0 then off else 0
    match s.permOf key (l + i) with
    | some (cp, ok) => ok && permBays cp o (Min.min (off + n - i * 2 ^ 18 - o) (2 ^ 18 - o))
    | none => true

/-- The value that the request has read of core l's COPYPERM is read once, before its first word there (R254); 2^11 marks that the issuer shares the
domain, and 2^12 that nothing is refused. -/
def State.permRead (s : State) (r : CopyReq) (l : Nat) : CopyReq :=
  if r.perms.any (·.1 == l) then r else
  { r with perms := r.perms ++ [(l, match s.permOf r.promise.toNat l with
      | none => 4096
      | some (cp, ok) => cp.toNat % 2048 + (if ok then 2048 else 0))] }

/-- A write of n bytes at va is admitted by the core whose local memory it reaches (R254). -/
def State.permReq (s : State) (r : CopyReq) (va : W64) (n : Nat) : Bool × CopyReq :=
  match s.core.localOf va.toNat with
  | none => (true, r)
  | some (l, off) =>
    let r := s.permRead r l
    let v := tget 0 l r.perms
    (v == 4096 || (v / 2048 % 2 == 1 && permBays (w64 v) off n), r)

/-- A write by unit k of destination j of a request of kinds 1 to 4 (R368). -/
def State.reqPut (s : State) (r : CopyReq) (j k : Nat) (va : W64) (bs : List Byte) : CopyOut :=
  let (ok, r) := s.permReq r va bs.length
  if !ok then .fault (0x05#8, (xFault .store va 6).2) r s else
    match s.unitSend (r.use j k va) va bs true with
    | .error f => .fault f r s
    | .ok s => .ok r s

/-- Bytes one by one: a range that need not be aligned. -/
def State.unitBytes (s : State) (va : W64) : Nat → Except (Byte × W64) (List Byte × State)
  | 0 => .ok ([], s)
  | n + 1 =>
    match s.engRead 1 va 1 with
    | .error e => .error e
    | .ok (bs, s) =>
      match State.unitBytes s (va + 1#64) n with
      | .error e => .error e
      | .ok (rest, s) => .ok (bs ++ rest, s)

/-- Element i of the source as bits. -/
def State.srcElem (s : State) (r : CopyReq) (i : Nat) : Except (Byte × W64) (Nat × State) :=
  let e := Enc.ofCode (bf r.sf 0 4)
  if e = .bit then
    match s.engRead 1 (r.src + w64 (i / 8)) 1 with
    | .error f => .error f
    | .ok (bs, s) => .ok (ofBytes bs / 2 ^ (i % 8) % 2, s)
  else
    match s.engRead 1 (r.src + w64 (i * (e.bits / 8))) (e.bits / 8) with
    | .error f => .error f
    | .ok (bs, s) => .ok (ofBytes bs, s)

/-- Element i converted (R253): its bits and flags. -/
def CopyReq.convert (r : CopyReq) (i b : Nat) : Nat × Fl :=
  let x := (Enc.ofCode (bf r.sf 0 4)).val (fmtScale r.sf) (fmtScale r.sf) b
  let u := if r.rm = 3#2 then draw r.key (w64 (r.cbase + i)) else 0
  let (y, f) := (Enc.ofCode (bf r.df 0 4)).round (fmtScale r.df) (fmtScale r.df) r.rm u r.sat x.quiet
  (y, f.or { nv := x.isSnan })

/-- Elements lo to lo + n - 1, converted. -/
def State.elems (s : State) (r : CopyReq) (lo : Nat) : Nat → Except (Byte × W64) (List Nat × Fl × State)
  | 0 => .ok ([], .none, s)
  | n + 1 =>
    match s.srcElem r lo with
    | .error e => .error e
    | .ok (b, s) =>
      let (y, f) := r.convert lo b
      match State.elems s r (lo + 1) n with
      | .error e => .error e
      | .ok (ys, g, s) => .ok (y :: ys, f.or g, s)

/-- Pack bits, eight to a byte. -/
def packBits : List Nat → List Byte
  | a :: b :: c :: d :: e :: f :: g :: h :: t =>
    BitVec.ofNat 8 (a + 2 * b + 4 * c + 8 * d + 16 * e + 32 * f + 64 * g + 128 * h) :: packBits t
  | _ => []

/-- Where destination word k of a range that starts at va begins. -/
def wordStart (va : W64) (k : Nat) : Nat := Max.max va.toNat (8 * (va.toNat / 8 + k))

/-- Destination word k of a CPY, of destination j, which starts at va (R252, R253). -/
def State.copyWord (s : State) (r : CopyReq) (j : Nat) (va : W64) (k : Nat) : Except (Byte × W64) (Fl × State) :=
  let base := va.toNat
  let lo := wordStart va k
  let hi := Min.min (base + r.dstBytes) (8 * (base / 8 + k) + 8)
  let o := lo - base
  let n := hi - lo
  let got : Except (Byte × W64) (List Byte × Fl × State) :=
    if r.raw then
      match s.unitBytes (r.src + w64 o) n with
      | .error e => .error e
      | .ok (bs, s) => .ok (bs, .none, s)
    else
      let e := Enc.ofCode (bf r.df 0 4)
      if e = .bit then
        match s.elems r (8 * o) (8 * n) with
        | .error e => .error e
        | .ok (ys, f, s) => .ok (packBits ys, f, s)
      else
        let w := e.bits / 8
        match s.elems r (o / w) (n / w) with
        | .error e => .error e
        | .ok (ys, f, s) => .ok (ys.flatMap fun y => toBytes w y, f, s)
  match got with
  | .error e => .error e
  | .ok (bs, f, s) =>
    match s.unitSend (r.use j k (w64 lo)) (w64 lo) bs true with
    | .error e => .error e
    | .ok s => .ok (f, s)

/-- Address of a CPY's destination (R255). -/
def CopyReq.destAddr (r : CopyReq) (c : Core) (d : Dest) : W64 :=
  if r.mmask = 0 then r.dst else
  match c.localOf r.dst.toNat with
  | some (_, o) => winAddr d.idx o
  | none => r.dst

/-- One word of destination d, number j, of a CPY, where COPYPERM admits it (R254). -/
def State.cpyUnit (s : State) (r : CopyReq) (j : Nat) (d : Dest) : CopyOut :=
  let va := r.destAddr s.core d
  let at' := w64 (wordStart va d.next)
  let (ok, r) := s.permReq r at' 1
  if !ok then .fault (0x05#8, (xFault .store at' 6).2) r s else
  match s.copyWord r j va d.next with
  | .error f => .fault f r s
  | .ok (f, s) =>
    let fl := if s.core.cf.miss then 0 else ({ f with ovf := f.ovf || f.ov } : Fl).fflags
    .ok { r with fl := r.fl ||| fl } (s.setCore fun c => { c with cf := { c.cf with miss := false } })

/-- AMOADD by the engine, for SCATTER and DISPATCH (R370, R372): the old word, whose full/empty bit is set (R368); another module is asked, and its answer
awaited. -/
def State.engineAdd (s : State) (va x : W64) : Except (Byte × W64) (W64 × State) :=
  match s.engine .atomic va 8 with
  | .error f => .error f
  | .ok (p, s) =>
    match s.badAt p 8 with
    | some f => .error f
    | none =>
      match p with
      | .host a _ _ => .ok (w64 (Memory.num s.hostMem a 8), { s with hostMem := Memory.write s.hostMem a (toBytes 8 (w64 (Memory.num s.hostMem a 8) + x).toNat) })
      | _ =>
        match s.homeOf p with
        | some h =>
          (match s.tellerNow 3 ⟨0, h, x, 0, 0, 0, 0, 0, true⟩ with
           | some (v, _, _, s) => .ok (v, s.setFull p)
           | none => .error (askMark va))
        | none =>
          let p := s.hubInc p
          match s.core.eread 1 va.toNat with
          | some ⟨_, _, _, some bs, _⟩ => .ok (w64 (ofBytes bs), s)
          | some ⟨_, _, _, none, some k⟩ => .error (xFault .atomic va k)
          | some ⟨_, _, _, none, none⟩ => .error (askMark va)
          | none => if s.nacks p.peerKey.1 p.peerKey.2 then .error (xFault .atomic va 7) else .error (askMark va)

/-- Send the engine's AMOADD to another module, once. -/
def State.engAdd (s : State) (va x : W64) : State :=
  if (s.core.eread 1 va.toNat).isSome then s else
  match s.engine .atomic va 8 with
  | .ok (p, s) =>
    if p.here then s else
    let p := s.hubInc p
    let (t, s) := (s.counted p va).newTag
    { (s.emit (.atomic t p 0 x 0)).setCore fun c => { c with erd := c.erd ++ [⟨1, va.toNat / 8 * 8, t, none, none⟩] } with
      reqs := s.reqs ++ [⟨t, s.core.queue, s.core.lcn.toNat, .engine 1 va, p, 8⟩] }
  | .error _ => s

/-- Unit k of group d, number j, of GATHER or SCATTER (R370). -/
def State.listUnit (s : State) (r : CopyReq) (j : Nat) (d : Dest) : CopyOut :=
  let c := s.core
  let i := (r.group d).getD d.next 0
  let va := c.dwAt (r.list + 8 * i)
  let off := r.data + r.size * i
  if va.toNat % r.size ≠ 0 then .fault (0x02#8, va) r s else
  if r.kind = 1 then
    match s.engRead 1 va r.size with
    | .error f => .fault f r s
    | .ok (bs, s) => .ok r (s.setCore fun c => (c.locWrite off bs).setFe off true)
  else
    let bs := c.locRead off r.size
    if r.sop = 0 then s.reqPut r j d.next va bs else
    let (ok, r) := s.permReq r va 8
    if !ok then .fault (0x05#8, (xFault .store va 6).2) r s else
    match s.engineAdd va (w64 (ofBytes bs)) with
    | .error f => if isAsk f then .wait r (s.engAdd va (w64 (ofBytes bs))) else .fault f r s
    | .ok (_, s) => .ok r s

/-- Write doublewords from va up, for unit k of a request of kinds 1 to 4. -/
def State.reqPutDws (s : State) (r : CopyReq) (k : Nat) (va : W64) : List W64 → CopyOut
  | [] => .ok r s
  | w :: ws =>
    match s.reqPut r 0 k va (toBytes 8 w.toNat) with
    | .ok r s => State.reqPutDws s r k (va + 8#64) ws
    | o => o

/-- Pair u of DISPATCH (R372): the AMOADD is made once, and its position is kept while the row is written. -/
def State.dispatchUnit (s : State) (r : CopyReq) (u : Nat) : CopyOut :=
  let c := s.core
  match c.route r u with
  | none => .ok r s
  | some e =>
    let got : Except (Byte × W64) (Nat × CopyReq × State) :=
      match r.pos with
      | some p => .ok (p, r, s)
      | none =>
        let (ok, r) := s.permReq r (winAddr e r.buf) 8
        if !ok then .error (0x05#8, (xFault .store (winAddr e r.buf) 6).2) else
        match s.engineAdd (winAddr e r.buf) 1 with
        | .error f => .error f
        | .ok (p, s) => .ok (p.toNat, { r with pos := some p.toNat }, s)
    match got with
    | .error f => if isAsk f then .wait r (s.engAdd (winAddr e r.buf) 1) else .fault f r s
    | .ok (p, r, s) =>
      if r.cap ≤ p then .ok { r with pos := none } s else
      let t := u / r.choices
      let tag := w64 (c.lcn.toNat + t * 2 ^ 26 + u % r.choices * 2 ^ 38)
      let row := (upTo r.rlen).map fun i => c.dwAt (r.rows + 8 * (t * r.rlen + i))
      match s.reqPutDws r u (winAddr e (r.buf + 64 + p * r.rowBytes)) (tag :: 0 :: row) with
      | .ok r s => .ok { r with pos := none } s
      | o => o

/-- Row p of COMBINE (R372); words past the window of its origin are refused. -/
def State.combineUnit (s : State) (r : CopyReq) (p : Nat) : CopyOut :=
  let c := s.core
  let tag := c.dwAt (r.buf + 64 + p * r.rowBytes)
  let row := (upTo r.rlen).map fun i => c.dwAt (r.rows + 8 * (p * r.rlen + i))
  let off := r.aux + (bf tag 26 12 * r.choices + bf tag 38 3) * 8 * r.rlen
  let l := bf tag 0 26
  if c.ncores.toNat ≤ l then .fault (xFault .store (winAddr l off) 1) r s else
  let fit := (2 ^ 18 - off) / 8
  match s.reqPutDws r p (winAddr l off) (row.take fit) with
  | .ok r s => if row.length ≤ fit then .ok r s else .fault (xFault .store (w64 ((winAddr l off).toNat + 8 * fit)) 6) r s
  | o => o

/-- The next unit of destination d, number j. -/
def State.copyUnit (s : State) (r : CopyReq) (j : Nat) (d : Dest) : CopyOut :=
  match r.kind with
  | 0 => s.cpyUnit r j d
  | 1 => s.listUnit r j d
  | 2 => s.listUnit r j d
  | 3 => s.dispatchUnit r d.next
  | _ => s.combineUnit r d.next

/-- The request that the FIFO works at: the oldest that is not complete. -/
def Cf.head (f : Cf) : Option CopyReq := f.pending.head?

/-- Replace a request; a complete one without a flag to post leaves, and its flags reach FL (R250). -/
def Core.putReq (c : Core) (r : CopyReq) : Core :=
  let f := c.cf
  let fl := if r.complete then f.fl ||| r.fl else f.fl
  let rs := (f.reqs.map fun q => if q.seq == r.seq then r else q).filter fun q => !(q.complete && (!q.flag || q.dests.all (·.flagged)))
  { c with cf := { f with reqs := rs, fl := fl } }

/-- The owner of a list entry (R370): a package, or 4,096 for the host; the own module where the address does not translate (log entry 93). -/
def State.ownerOf (s : State) (a : Acc) (va : W64) : Nat :=
  match s.engine a va 1 with
  | .ok (.host _ _ _, _) => 4096
  | .ok (.far k _ _ h _, _) => if h then 4096 else k
  | .ok (.farLoc pc _ _, _) => pcPkg pc
  | _ => Config.pkgX

/-- Start the FIFO's next request (R245): its destinations, in ascending package id and with the host last for GATHER and SCATTER (R370), and the rows of
COMBINE. -/
def State.cfStart (s : State) : State :=
  match s.core.cf.head with
  | none => s
  | some r =>
    if r.started || s.core.cf.fault.isSome then s else
    let (LX, LY) := s.torus
    let own := if r.kind = 1 ∨ r.kind = 2 then (upTo r.count).map fun i => s.ownerOf r.acc (s.core.dwAt (r.list + 8 * i)) else []
    let ds : List Dest :=
      if r.kind = 0 ∧ r.mmask ≠ 0 then
        match s.core.localOf r.dst.toNat with
        | some (l, _) => (multiDests LX LY l r.mmask).filterMap fun t => t.map fun t => ⟨t, 0, false, false⟩
        | none => []
      else if r.kind = 1 ∨ r.kind = 2 then (own.dedup.insertionSort (· ≤ ·)).map fun k => ⟨k, 0, false, false⟩
      else [⟨0, 0, false, false⟩]
    let r := { r with started := true, dests := ds, owners := own, pos := if r.kind = 4 then some (s.core.combineRows r) else none }
    s.setCore fun c => let c := c.putReq r; { c with cf := { c.cf with miss := false } }

/-- Change destination number j of a request. -/
def CopyReq.setDest (r : CopyReq) (j : Nat) (f : Dest → Dest) : CopyReq := { r with dests := r.dests.modify j f }

/-- The destination that a beat serves: the first that is neither done nor stopped. Requests of kinds 1 to 4 go on once their writes to other
modules are acknowledged, so that a NACK finds the unit it belongs to. -/
def CopyReq.nextDest (r : CopyReq) : Option Nat :=
  if r.kind ≠ 0 ∧ r.owed ≠ 0 then none else r.dests.findIdx? fun d => !d.stopped && !r.done d

/-- Record a fault of the FIFO, the first one alone (R257). -/
def Core.cfFault (c : Core) (seq : Nat) (f : Byte × W64) : Core :=
  { c with cf := { c.cf with fault := match c.cf.fault with | some x => some x | none => some (seq, f.1, f.2) } }

/-- Up to n units of one destination. -/
def State.cfUnits (s : State) (r : CopyReq) (j : Nat) : Nat → State
  | 0 => s.setCore (·.putReq r)
  | n + 1 =>
    match r.dests[j]? with
    | none => s.setCore (·.putReq r)
    | some d =>
      if r.done d then s.setCore (·.putReq r) else
      match s.copyUnit r j d with
      | .ok r t =>
        State.cfUnits (t.setCore (·.edrop 1))
          ({ r with owed := r.owed + (t.reqs.length - s.reqs.length) }.setDest j fun d => { d with next := d.next + 1 }) j n
      | .wait r s => s.setCore (·.putReq r)
      | .fault f r s =>
        if isAsk f then (s.engAsk 1 f.2).setCore (·.putReq r) else
        (s.setCore fun c => (c.edrop 1).putReq (r.setDest j fun d => { d with stopped := true })).setCore (·.cfFault r.seq f)

/-- A write of a request to another module has been performed. -/
def Core.copyAck (c : Core) (seq : Nat) : Core :=
  match c.cf.reqs.find? (·.seq == seq) with
  | some r => c.putReq { r with owed := r.owed - 1 }
  | none => c

/-- It has failed: its destination stops at that unit, and the fault is deferred (R257, R427); of a request that SKIP has dropped nothing is left to stop. -/
def Core.copyNack (c : Core) (seq j k : Nat) (pos : Option Nat) (va : W64) (code : Nat) : Core :=
  match c.cf.reqs.find? (·.seq == seq) with
  | some r =>
    if r.dests = [] then c.putReq { r with owed := r.owed - 1 } else
    let r := { r with owed := r.owed - 1, pos := if r.kind = 3 then pos else r.pos }
    (c.putReq (r.setDest j fun d => { d with stopped := true, next := Min.min d.next k })).cfFault seq (xFault .store va code)
  | none => c

/-- One beat for the current core: 32 bytes of a CPY's destination, or one unit of another request. -/
def State.cfBeat (s : State) : State :=
  match s.core.cf.head with
  | none => s
  | some r =>
    if !r.started then s else
    match r.nextDest with
    | none => s
    | some j => s.cfUnits r j (if r.kind = 0 then 4 else 1)

/-- The FIFO of the core has a beat to move. -/
def Core.cfReady (c : Core) : Bool :=
  match c.cf.head with
  | some r => r.started && r.nextDest.isSome
  | none => false

/-- The FIFO of the core has a request to start. -/
def Core.cfIdle (c : Core) : Bool :=
  match c.cf.head with
  | some r => !r.started && c.cf.fault.isNone
  | none => false

/-- Number of a core in its yard: ascending with the physical core id (R71, R428). -/
def yardIndex (pcid : Nat) : Nat := (pcRx pcid % 4 * 4 + pcRy pcid % 4) * 4 + pcid % 4

/-- The core whose FIFO the engine serves next: the first after the last one served, in ascending order (R245). -/
def State.cfTurn (s : State) (y : Nat) : Option Core :=
  let rot := (s.yard y).rot
  let ready := s.allCores.filter fun c => c.st != .idle && c.st != .saved && pcYard c.pcid == y && c.cfReady
  let key (c : Core) : Nat := (yardIndex c.pcid + 63 - rot) % 64
  ready.foldl (fun b c => match b with | some d => if key c < key d then some c else b | none => some c) none

/-- One beat of the copy engine of yard y. -/
def State.cfYard (s : State) (y : Nat) : State :=
  match s.cfTurn y with
  | none => s
  | some c => (s.asCore c.queue c.lcn.toNat State.cfBeat).setYard y fun t => { t with rot := yardIndex c.pcid }

/-! ### Flags (R256, R242) -/

/-- Write a flag word of logical core l of the current core's launch, with its full/empty bit; one on another module leaves as a flit. -/
def State.putFlag (s : State) (l off : Nat) (w : W64) : State :=
  match s.window .store l off with
  | .ok (.farLoc pc _ o, s) => s.emit (.flag pc o w)
  | .ok (p, s) => (s.putAt p (toBytes 8 w.toNat)).setFull p
  | .error _ => s

/-- The core that a finished destination flags: itself where DST is paged, and for kinds 1 to 4. -/
def CopyReq.flagCore (r : CopyReq) (c : Core) (d : Dest) : Nat :=
  if r.kind ≠ 0 then c.lcn.toNat else
  match c.localOf (r.destAddr c d).toNat with
  | some (l, _) => l
  | none => c.lcn.toNat

/-- Destination j of a request is performed and waits for its flag. -/
def CopyReq.toFlag (r : CopyReq) : Option Nat :=
  if !r.flag || !r.started || r.owed != 0 then none else
  if r.kind ≠ 0 ∧ !r.dests.all r.done then none else r.dests.findIdx? fun d => !d.flagged && r.done d

/-- A request whose destinations are all done and flagged leaves. -/
def Core.sweep (c : Core) : Core :=
  { c with cf := { c.cf with reqs := c.cf.reqs.filter fun r => !(r.complete && r.dests.all (·.flagged)) } }

/-- Post one flag of the current core's requests. -/
def State.cfFlag (s : State) : State :=
  match s.core.cf.reqs.find? fun r => r.toFlag.isSome with
  | none => s
  | some r =>
    match r.toFlag with
    | none => s
    | some j =>
      match r.dests[j]? with
      | none => s
      | some d =>
        let s := s.putFlag (r.flagCore s.core d) r.flagOff (w64 (r.seq + s.core.lcn.toNat * 2 ^ 16))
        let mark (i : Nat) (d : Dest) : Dest := if i = j ∨ r.kind ≠ 0 then { d with flagged := true } else d
        let r' := { r with dests := r.dests.zipIdx.map fun x => mark x.2 x.1 }
        s.setCore fun c => ({ c with cf := { c.cf with reqs := c.cf.reqs.map fun q => if q.seq == r.seq then r' else q } } : Core).sweep

/-! ### Answers to a deferred fault (R257) -/

/-- RESUME: every stopped destination is tried again. -/
def Core.cfResume (c : Core) : Core :=
  { c with cf := { c.cf with fault := none, reqs := c.cf.reqs.map fun r => { r with dests := r.dests.map fun d => { d with stopped := false } } } }

/-- SKIP: the rest of the request is dropped, with what the engine has read for it; a destination that was done has its flag posted. Its writes that have
been sent are still awaited (R232). -/
def State.cfSkip (s : State) : State :=
  match s.core.cf.fault with
  | none => s
  | some (seq, _, _) =>
    let s := match s.core.cf.reqs.find? (·.seq == seq) with
      | some r => if r.flag && r.kind == 0 then r.dests.foldl (fun (s : State) (d : Dest) =>
          if !d.flagged && r.done d then s.putFlag (r.flagCore s.core d) r.flagOff (w64 (r.seq + s.core.lcn.toNat * 2 ^ 16)) else s) s else s
      | none => s
    let rest (r : CopyReq) : List CopyReq :=
      if r.seq ≠ seq then [r] else if r.owed = 0 then [] else [{ r with dests := [], fl := 0 }]
    s.setCore fun c => { c with cf := { c.cf with fault := none, reqs := c.cf.reqs.flatMap rest } }.edrop 1

/-! ### Events -/

def execCopyRequestStart (q l : Nat) (s : State) : Out := .next (s.asCore q l (·.unlessSaved State.cfStart))
def execCopyBeat (yard : Nat) (s : State) : Out := .next (s.cfYard yard)
def execCopyFlagPost (q l : Nat) (s : State) : Out := .next (s.asCore q l State.cfFlag)

end Sys2Proof.Machine
end

