-- ==== Sys2Proof/Machine/RaceArr.lean ====
section
/-!
DEFINITION. The temporal race array of a yard (R325 to R336).
-/
namespace Sys2Proof.Machine

/-- A value that never rises (R325). -/
def never : Nat := 0xFFF

/-! ### A run (R328) -/

def riseOf (rise : List (Nat × Nat)) (n : Nat) : Option Nat := (rise.find? (·.1 == n)).map (·.2)

/-- The input has risen and its delay is over at tick t. -/
def arrived (rise : List (Nat × Nat)) (t : Nat) (i : Nat × Nat) : Bool :=
  match riseOf rise i.1 with
  | some r => decide (r + i.2 ≤ t)
  | none => false

/-- The node rises at tick t. -/
def Race.rises (r : Race) (rise : List (Nat × Nat)) (t : Nat) (n : Nat) (d : Node) : Bool :=
  let seed := tget never n r.seeds
  decide (seed ≤ t) || (d.kind == 1 && d.ins.any (arrived rise t)) || (d.kind == 2 && d.ins != [] && d.ins.all (arrived rise t))

/-- One pass over the nodes at tick t. -/
def Race.pass (r : Race) (t : Nat) (rise : List (Nat × Nat)) : List (Nat × Nat) :=
  r.nodes.foldl (fun rise nd =>
    if (riseOf rise nd.1).isNone && nd.2.kind != 0 && r.rises rise t nd.1 nd.2 then (nd.1, t) :: rise else rise) rise

/-- Passes until nothing changes. -/
def Race.settle (r : Race) (t : Nat) : Nat → List (Nat × Nat) → List (Nat × Nat)
  | 0, rise => rise
  | f + 1, rise =>
    let rise' := r.pass t rise
    if rise'.length = rise.length then rise else Race.settle r t f rise'

/-- Ticks t, t + 1, …, w of them. -/
def Race.ticks (r : Race) (t : Nat) : Nat → List (Nat × Nat) → List (Nat × Nat)
  | 0, rise => rise
  | w + 1, rise => Race.ticks r (t + 1) w (r.settle t (r.nodes.length + 1) rise)

/-- RUN(W): the captures. -/
def Race.run (r : Race) (w : Nat) : List (Nat × Nat) := r.ticks 0 w []

/-! ### Access -/

def State.raceYard (s : State) : Nat := pcYard s.core.pcid
def State.race (s : State) : Race := (s.yard s.raceYard).race
def State.setRace (s : State) (f : Race → Race) : State := s.setYard s.raceYard fun y => { y with race := f y.race }

/-- The current core owns the array of its yard. -/
def State.ownsRace (s : State) : Bool :=
  match s.race.owner with
  | some (q, l, _) => q == s.core.queue && l == s.core.lcn.toNat
  | none => false

/-- Misuse (R336). -/
def raceTrap (reason node : Nat) : Trap := ⟨0x0F#8, w64 (reason + node * 256), 0⟩

/-- A TRA instruction other than TRACQ: the array was lost (R330), or is not owned. The check is made at issue (R334). -/
def State.withRace (s : State) (la : BitVec 4) (k : State → State) : State :=
  if s.core.raceLost then (s.setCore fun c => { c with raceLost := false }).trapAtIssue la (raceTrap 6 0)
  else if !s.ownsRace then s.trapAtIssue la (raceTrap 1 0) else k s

/-- R329, R331: TRACQ. -/
def execTracq (d : BitVec 5) (l : BitVec 4) (s : State) : Out := .next <|
  s.operandsL l false [] [d] fun _ _ s =>
    let c := s.core
    match s.race.owner with
    | none =>
      let n := s.ctxOf c
      let own := some (c.queue, c.lcn.toNat, c.pcid)
      (s.setRace fun r => if r.prev = some n then { r with owner := own } else ⟨own, some n, [], [], []⟩).landL l [.s d 0]
    | some (q, o, _) =>
      if q = c.queue ∧ o = c.lcn.toNat then s.landL l [.s d 0]
      else s.landL l [.s d (w64 (2 ^ 63 + if q = c.queue then o else 0x3FFFFFF))]

/-- R331: TRREL. -/
def execTrrel (l : BitVec 4) (s : State) : Out := .next <|
  s.withRace l fun s => (s.setRace fun r => { r with owner := none }).landL l []

/-- R331: TRSET. -/
def execTrset (a b : BitVec 5) (l : BitVec 4) (s : State) : Out := .next <|
  s.withRace l fun s =>
    s.operandsL l false [a, b] [] fun vs s0 s =>
      let x := vs.getD 0 0
      let y := vs.getD 1 0
      if 4096 ≤ x.toNat ∨ 4096 ≤ y.toNat then s0.trapAtIssue l (raceTrap 3 0)
      else (s.setRace fun r => { r with seeds := (r.seeds.filter (·.1 != x.toNat)) ++ if y.toNat = never then [] else [(x.toNat, y.toNat)] }).landL l []

/-- R331: TRRST. -/
def execTrrst (l : BitVec 4) (s : State) : Out := .next <|
  s.withRace l fun s => (s.setRace fun r => { r with seeds := [], capts := [] }).landL l []

/-- R328, R331: TRGO. -/
def execTrgo (d : BitVec 5) (l : BitVec 4) (s : State) : Out := .next <|
  s.withRace l fun s =>
    s.operandsL l false [] [d] fun _ s0 s =>
      let w := bf s.core.twin 0 12
      if w = 0 then s0.trapAtIssue l (raceTrap 5 0) else
      let rise := s.race.run w
      (s.setRace fun r => { r with capts := rise }).landL l [.s d (w64 rise.length)]

/-- First node and count in the layout of R332; reason 0x03 when they are out of range. -/
def raceRange (y : W64) : Option (Nat × Nat) :=
  let f := bf y 0 12
  let c := bf y 16 13
  if bf y 12 4 ≠ 0 ∨ bf y 29 35 ≠ 0 ∨ c = 0 ∨ 4096 < c ∨ 4096 < f + c then none else some (f, c)

/-- The node of a record (R327), or none where it breaks R327. -/
def nodeOf (ws : List W64) : Option Node :=
  let d := ws.getD 0 0
  let nin := bf d 2 4
  let inp (j : Nat) : Nat := bf (ws.getD (1 + j / 2) 0) (32 * (j % 2)) 32
  if bf d 6 58 ≠ 0 ∨ bf d 0 2 = 3 ∨ 8 < nin then none
  else if (upTo 8).any fun j => if j < nin then fld (inp j) 20 12 != 0 else inp j != 0 then none
  else some ⟨bf d 0 2, (upTo nin).map fun j => (fld (inp j) 0 12, fld (inp j) 12 8)⟩

/-- Read and check c records from va for nodes f, f + 1, …. -/
def State.raceRead (s : State) (va : W64) (f : Nat) : Nat → Except Trap (List (Nat × Node) × State)
  | 0 => .ok ([], s)
  | c + 1 =>
    match s.unitDws va 5 with
    | .error (k, t) => .error ⟨k, t, 0⟩
    | .ok (ws, s) =>
      match nodeOf ws with
      | none => .error (raceTrap 2 f)
      | some d =>
        match State.raceRead s (va + 40#64) (f + 1) c with
        | .error t => .error t
        | .ok (ds, s) => .ok ((f, d) :: ds, s)

/-- Inputs of vertex v from the edges of a patch and their delays (R332). -/
def RecV.edgeInputs (r : RecV) (delays : List Byte) (v : Nat) : List (Nat × Nat) :=
  (upTo (r.tot 1)).filterMap fun e =>
    let a := r.facet 1 e 0
    let b := r.facet 1 e 1
    let dly := (delays.getD e 0).toNat
    if a = v then some (b, dly) else if b = v then some (a, dly) else none

/-- The nodes that patch mode makes; the inputs of a malformed vertex are free (R40; log entry 7). -/
def RecV.raceNodes (r : RecV) (delays : List Byte) (t : Nat) : List (Nat × Node) :=
  (upTo (r.tot 0)).map fun v =>
    if r.isBad 0 v then
      let x (j : Nat) : W64 := Config.freeBits t (16 * v + j)
      (v, ⟨1, (upTo (bf (x 8) 0 4 % 9)).map fun j => (bf (x j) 0 12, bf (x j) 12 8)⟩)
    else (v, ⟨1, r.edgeInputs delays v⟩)

/-- The delay bytes of patch mode, one after another; those that another module holds are free (log entry 11). -/
def State.raceBytes (s : State) (va : W64) : Nat → Except (Byte × W64) (List Byte × State)
  | 0 => .ok ([], s)
  | n + 1 =>
    match s.unitRead va 1 with
    | .error e => .error e
    | .ok (bs, s) =>
      match State.raceBytes s (va + 1#64) n with
      | .error e => .error e
      | .ok (rest, s) => .ok (bs ++ rest, s)

/-- TRLOAD and TRGET read and write own local memory behind the core's own stores to it (R335). -/
def State.behindStores (s0 s : State) (la : BitVec 4) (k : State → State) : State :=
  let s := if s.core.ownPosted then s.drainAll else s
  if s.core.ownPosted then s0.drainAll.waitL la else k s

/-- R332: TRLOAD. -/
def execTrload (a b : BitVec 5) (l : BitVec 4) (s : State) : Out := .next <|
  s.withRace l fun s =>
    s.operandsL l false [a, b] [] fun vs s0 s =>
    s0.behindStores s l fun s =>
      let va := vs.getD 0 0
      let y := vs.getD 1 0
      if !bit y 63 then
        match raceRange y with
        | none => s0.trapLT l (raceTrap 3 0)
        | some (f, c) =>
          if va.toNat % 8 ≠ 0 then s0.trapL l 0x02#8 va else
          match s.raceRead va f c with
          | .error t => s0.trapLT l t
          | .ok (ds, s) =>
            (s.setRace fun r =>
              { r with nodes := (r.nodes.filter fun n => decide (n.1 < f) || decide (f + c ≤ n.1)) ++ ds.filter fun n => n.2 != ⟨0, []⟩ }).landL l []
      else if bf y 32 31 ≠ 0 then s0.trapLT l (raceTrap 3 0)
      else
        match s.core.slotOf (bf y 0 16) (bf y 16 16) with
        | none => s0.trapLT l (cplxTrap (bf y 0 16) (bf y 16 16) 1)
        | some x =>
          match s.useRec x (incAll 1) with
          | .error t => s0.trapLT l t
          | .ok (r, s) =>
            match s.raceBytes va (r.tot 1) with
            | .error f => s0.trapL l f.1 f.2
            | .ok (delays, s) =>
              let ds := r.raceNodes delays s.tick
              match ds.find? fun n => decide (8 < n.2.ins.length) with
              | some n => s0.trapLT l (raceTrap 4 n.1)
              | none => (s.setRace fun r => { r with nodes := ds }).landL l []

/-- Write captures f, f + 1, … four to a word, and set the words full (R333). -/
def State.racePut (s : State) (r : Race) (va : W64) (f : Nat) : Nat → Except (Byte × W64) State
  | 0 => .ok s
  | n + 1 =>
    let w := (upTo 4).foldl (fun a i => a + tget never (f + i) r.capts * 2 ^ (16 * i)) 0
    match s.unitWrite va (toBytes 8 w) true with
    | .error e => .error e
    | .ok s => State.racePut s r (va + 8#64) (f + 4) n

/-- May TRGET write n bytes there (R333, R254)? The fault otherwise. -/
def State.raceDest (s : State) (va : W64) (n : Nat) : Option (Byte × W64) :=
  if va.toNat < winBase then some (xFault .store va 6) else
  match s.engine .store va n with
  | .error e => some e
  | .ok (p, _) =>
    match p with
    | .own _ => none
    | .peer i o | .saved i o _ _ =>
      match s.peers[i]? with
      | none => some (xFault .store va 6)
      | some c =>
        if c.domAt 2 != s.core.domAt 2 then some (xFault .store va 6)
        else
          if s.permRange s.tick c.lcn.toNat o n then none else some (0x05#8, (xFault .store va 6).2)
    | _ => some (xFault .store va 6)

/-- R333: TRGET. -/
def execTrget (a b : BitVec 5) (l : BitVec 4) (s : State) : Out := .next <|
  s.withRace l fun s =>
    s.operandsL l false [a, b] [] fun vs s0 s =>
    s0.behindStores s l fun s =>
      let va := vs.getD 0 0
      match raceRange (vs.getD 1 0) with
      | none => s0.trapLT l (raceTrap 3 0)
      | some (f, c) =>
        if c % 4 ≠ 0 then s0.trapLT l (raceTrap 3 0)
        else if va.toNat % 8 ≠ 0 then s0.trapL l 0x02#8 va
        else
          match s.raceDest va (2 * c) with
          | some e => s0.trapL l e.1 e.2
          | none =>
            match s.racePut s.race va f (c / 4) with
            | .error e => s0.trapL l e.1 e.2
            | .ok s => s.landL l []

end Sys2Proof.Machine
end

