-- ==== Sys2Proof/Machine/CochRun.lean ====
section
/-!
DEFINITION. The cochain unit (R262, R265, R183): the result of each instruction in the queue, its completion, its cost, and the arbiter of
the lane groups.
-/
namespace Sys2Proof.Machine

/-- What the instruction of an entry gives when it completes. -/
def cochRun (e : CochEntry) (c : Core) : KRes :=
  match e.instr with
  | .vadd _ _ _ _ _ => e.arith c fun rd a b _ => addV rd a b
  | .vsub _ _ _ _ _ => e.arith c fun rd a b _ => subV rd a b
  | .vmul _ _ _ _ _ => e.arith c fun _ a b _ => mulV a b
  | .vdiv _ _ _ _ _ => e.arith c fun _ a b _ => divV a b
  | .vmin _ _ _ _ _ => e.arith c fun _ a b _ => minV a b
  | .vmax _ _ _ _ _ => e.arith c fun _ a b _ => maxV a b
  | .vfma _ _ _ _ _ => e.arith c fun rd a b x => fmaV rd false a b x
  | .vfms _ _ _ _ _ => e.arith c fun rd a b x => fmaV rd true a b x
  | .vand _ _ _ _ _ => e.logic c (· &&& ·)
  | .vor _ _ _ _ _ => e.logic c (· ||| ·)
  | .vxor _ _ _ _ _ => e.logic c (· ^^^ ·)
  | .vcgt _ _ _ _ _ => e.compare c vcgtV
  | .vcge _ _ _ _ _ => e.compare c vcgeV
  | .vceq _ _ _ _ _ => e.compare c vceqV
  | .vsel _ _ _ _ _ => e.select c
  | .vmov _ _ _ _ => e.move c
  | .vsqrt _ _ _ _ => e.unary c sqrtV
  | .vrcp _ _ _ _ => e.unary c rcpV
  | .vrsq _ _ _ _ => e.unary c rsqV
  | .vexp2 _ _ _ _ => e.unary c exp2V
  | .vlog2 _ _ _ _ => e.unary c log2V
  | .vcvt _ _ _ _ => e.unary c cvtV
  | .vadds _ _ _ _ _ => e.arithS c false fun rd a b _ => addV rd a b
  | .vsubs _ _ _ _ _ => e.arithS c false fun rd a b _ => subV rd a b
  | .vmuls _ _ _ _ _ => e.arithS c true fun _ a b _ => mulV a b
  | .vfmas _ _ _ _ _ => e.arithS c true fun rd a b x => fmaV rd false a b x
  | .vmins _ _ _ _ _ => e.arithS c false fun _ a b _ => minV a b
  | .vmaxs _ _ _ _ _ => e.arithS c false fun _ a b _ => maxV a b
  | .vfill _ _ _ _ => e.fill c
  | .vgete _ r _ _ => e.gete c (r ++ 1#1)
  | .vpute _ _ _ _ => e.pute c
  | .vsum _ r _ _ => e.sum c r
  | .vdot _ _ r _ _ => e.dot c r
  | .vmaxr _ r _ _ => e.extreme c r true
  | .vminr _ r _ _ => e.extreme c r false
  | .topk _ _ _ _ _ => e.topk c
  | .cmpr48 _ _ r _ _ => e.cmpr c r
  | .vdec48 _ _ _ _ _ => e.vdec c
  | .vrand _ _ _ _ => e.rand c
  | .kdef d _ _ _ => ⟨c, .none, [.k d (kdefH e.x e.y)], false⟩
  | .kst a r _ _ => ⟨c, .none, [.s r (w64 (hf e.ka 42 4)), .k a (setHf e.ka 43 3 0)], false⟩
  | .kget _ r _ _ => ⟨c, .none, [.s (r ++ 0#1) (w64 (hf e.ka 64 64)), .s (r ++ 1#1) (w64 (hf e.ka 0 64))], false⟩
  | .kset d _ _ _ _ => ⟨c, .none, [.k d (ksetH e.ka e.x)], false⟩
  | .kview d _ _ _ _ => ⟨c, .none, [.k d (kviewH e.a e.x)], false⟩
  | .dext _ _ _ _ => e.dext c
  | .dbnd _ _ _ _ => e.dbnd c
  | .hstar _ _ _ _ => e.star c false
  | .hstari _ _ _ _ => e.star c true
  | .wedge _ _ _ _ _ => e.wedge c
  | .interp _ _ _ _ _ => e.interp c
  | .prolong _ _ _ _ => e.prolong c
  | .gathi _ _ _ _ _ => e.gathi c
  | .scati _ _ _ _ _ => e.scati c
  | _ => ⟨c, .none, [], false⟩

/-- TVAL of the overflow trap (R104): the destination handle, or ka with bit 4 where there is none. -/
def CochEntry.ovtTval (e : CochEntry) : W64 :=
  match e.instr with
  | .vsum a _ _ _ | .vdot _ a _ _ _ => w64 (a.toNat + 16)
  | _ => w64 e.dreg.toNat

/-- The push that a write makes of an entry that named a bound port as its destination when it issued (R114). -/
def CochEntry.pushed (e : CochEntry) : Wr → Option (Fin 8 × W64)
  | .s r v => (e.push.find? fun n => r.toNat == 24 + n.val).map fun n => (n, v)
  | _ => none

/-- The head of the current core's queue completes (R118, R262): its pushes are made, its other writes land, or wait for the end of its shadow; SRBASE
advances (R267); then the overflow trap of R104 is taken at the next instruction, which is the first one after its shadow (erratum B0-1). A trap that waits in
its shadow is taken now (R122). -/
def State.cochComplete (s : State) : State :=
  match s.core.cq with
  | [] => s
  | e :: rest =>
    let r := cochRun e s.core
    let ovf := if r.ovt && bit e.vrm 2 then some e.ovtTval else none
    let ws := r.ws.filter fun w => (e.pushed w).isNone
    let c := (r.ws.filterMap e.pushed).foldl (fun c x => c.push x.1 x.2) { r.core with cq := rest, srbase := r.core.srbase + w64 e.adv }
    let now : State :=
      let s : State := { s with core := c.landAll ws }
      match ovf with
      | some v => s.trapAt s.core.ipc (clrBit s.core.shdone 31) s.core.rptstNow ⟨0x09#8, v, 0⟩
      | none => s
    match c.shadow with
    | none => now
    | some sh =>
      if sh.ticket ≠ some e.seq then now else
      let s : State := { s with core := { c with shadow := some { sh with writes := ws, ticket := none, ovf := ovf } } }
      if sh.trap.isSome then s.endShadow sh.len else s

/-! ### Cost (R265, R285) -/

/-- Ranges of two handles overlap in part (R264). -/
def partOverlap (d v : HV) : Bool :=
  decide (v.base < d.base + d.bytes) && decide (d.base < v.base + v.bytes) && !(v.base == d.base && v.w == d.w)

/-- COST and usable groups of an entry; the handle instructions bind without groups. -/
def CochEntry.cost (e : CochEntry) (fmts : List W64) : Nat × Nat :=
  let e := { e with fmts := fmts }
  let n := Max.max 1 (cdiv (Max.max e.d.len (Max.max e.a.len e.b.len)) 16)
  let g := Min.min n 4
  let elem (k : Nat) : Nat × Nat :=
    if partOverlap e.d e.a || partOverlap e.d e.b then (Max.max 1 e.d.len, 1) else (k * n, g)
  match e.instr with
  | .vdiv _ _ _ _ _ | .vsqrt _ _ _ _ | .vrcp _ _ _ _ | .vrsq _ _ _ _ => elem 4
  | .vrand _ _ _ _ => (4 * n, g)
  | .vexp2 _ _ _ _ | .vlog2 _ _ _ _ => elem 8
  | .vsum _ _ _ _ | .vdot _ _ _ _ _ | .vmaxr _ _ _ _ | .vminr _ _ _ _ => (n + 4, g)
  | .topk _ _ _ _ _ => (4 * n + 8, g)
  | .cmpr48 _ _ _ _ _ | .vdec48 _ _ _ _ _ => (4, 1)
  | .vgete _ _ _ _ | .vpute _ _ _ _ => (1, 1)
  | .kdef _ _ _ _ | .kst _ _ _ _ | .kget _ _ _ _ | .kset _ _ _ _ _ | .kview _ _ _ _ _ => (1, 0)
  | .dext _ _ _ _ | .dbnd _ _ _ _ | .prolong _ _ _ _ | .gathi _ _ _ _ _ | .scati _ _ _ _ _ => (2 * n, g)
  | .hstar _ _ _ _ | .hstari _ _ _ _ => (n, g)
  | .interp _ _ _ _ _ => (4 * n, g)
  | .wedge _ _ _ _ _ => (8 * n, g)
  | _ => elem 1

/-! ### The arbiter (R183) -/

/-- The core is on a physical core of stable n. -/
def Core.inStable (c : Core) (n : Nat) : Bool :=
  pcPkg c.pcid == Config.pkgX && pcStable c.pcid == n && c.st != .idle && c.st != .saved

/-- The core on physical core k of stable n. -/
def State.stableCore (s : State) (n k : Nat) : Option Core := (s.core :: s.peers).find? fun c => c.inStable n && c.pcid % 4 == k

/-- Change that core. -/
def State.setStableCore (s : State) (n k : Nat) (f : Core → Core) : State :=
  if s.core.inStable n && s.core.pcid % 4 == k then s.setCore f else
  match s.peers.findIdx? fun c => c.inStable n && c.pcid % 4 == k with
  | some i => s.setPeer i f
  | none => s

/-- The head of the queue, bound or not. -/
def Core.cqHead (c : Core) : Option CochEntry := c.cq.head?

/-- The unbound head, its cost and the groups it would bind. -/
def Core.unboundHead (c : Core) : Option (Nat × Nat) :=
  match c.cq with
  | e :: _ =>
    if e.bound.isSome then none else
    let (k, u) := e.cost c.bayfmt.toList
    some (k, Min.min (bf c.vshare 4 2 + 1) u)
  | [] => none

/-- Groups that a core's head holds. -/
def Core.heldGroups (c : Core) : Nat := match c.cq with | e :: _ => e.bound.getD 0 | [] => 0

/-- Bind the head: it reads the bay formats (R192). -/
def Core.bindHead (c : Core) (g : Nat) : Core :=
  match c.cq with
  | e :: r => { c with cq := { e with bound := some g, fmts := c.bayfmt.toList } :: r }
  | [] => c

/-- ARBITRATE (R183) for stable n, once: one cycle. `waited` counts, for each head that can pay its cost, the cycles in which it was not granted. -/
def State.arbitrate (s : State) (n : Nat) : State :=
  let core (k : Nat) : Option Core := s.stableCore n k
  let head (k : Nat) : Option (Nat × Nat) := (core k).bind Core.unboundHead
  let t := s.stable n
  let empty (k : Nat) : Bool := match core k with | some c => c.cq == [] | none => true
  let dfc := (upTo 4).map fun k => if empty k then 0 else t.dfc.getD k 0
  let free := 4 - ((upTo 4).foldl (fun a k => a + match core k with | some c => c.heldGroups | none => 0) 0)
  let order := (upTo 4).map fun i => (t.ptr + 1 + i) % 4
  let ready (k : Nat) : Bool :=
    match head k with
    | some (cost, g) => decide (cost ≤ dfc.getD k 0) && decide (g ≤ free) && (t.res == none || t.res == some k)
    | none => false
  let late (d : List Nat) (k : Nat) : Bool := match head k with | some (cost, _) => decide (cost ≤ d.getD k 0) | none => false
  let waits (d : List Nat) : List Nat := (upTo 4).map fun k => if late d k then t.waited.getD k 0 + 1 else 0
  match order.find? ready with
  | some k =>
    let (cost, g) := (head k).getD (0, 0)
    let s := s.setStableCore n k (·.bindHead g)
    s.setStable n fun t =>
      { t with dfc := dfc.set k (dfc.getD k 0 - cost), ptr := k, res := if t.res = some k then none else t.res, waited := (waits dfc).set k 0 }
  | none =>
    let w (k : Nat) : Nat := match core k with | some c => Max.max 1 (bf c.vshare 0 4) | none => 1
    let dfc2 := (upTo 4).map fun k => if (head k).isSome then dfc.getD k 0 + 16 * w k else dfc.getD k 0
    let waited := waits dfc2
    let res := if t.res = none then (upTo 4).find? fun k => late dfc2 k && decide (64 ≤ waited.getD k 0) else t.res
    s.setStable n fun t => { t with dfc := dfc2, waited := waited, res := res }

/-- The head of the current core's queue is bound, and so can complete. -/
def Core.cqReady (c : Core) : Bool :=
  match c.cq with
  | e :: _ => e.bound.isSome
  | [] => false

/-- DEF of a core whose queue is empty is 0 from the next cycle on (R183). -/
def State.dropDef (s : State) : State :=
  if s.core.cq == [] then s.setStable (pcStable s.core.pcid) fun t => { t with dfc := t.dfc.set (s.core.pcid % 4) 0 } else s

/-- The head completes if it is bound. -/
def State.cochDone (s : State) : State := if s.core.cqReady then s.cochComplete.dropDef else s

/-- Every core's queue of a stable moves on by one: a completion of the current core, else one of its stable, else an arbitration. -/
def State.cochWork (s : State) : Option State :=
  if s.core.cq = [] then none
  else if s.core.cqReady then some s.cochDone
  else
    let n := pcStable s.core.pcid
    match s.peers.findIdx? fun c => c.inStable n && c.cqReady with
    | some i => some ((s.swap i).cochDone.swap i)
    | none => some (s.arbitrate n)

/-- R183. -/
def execCochainArbitrate (n : Nat) (s : State) : Out := .next (s.arbitrate n)

/-- R265. -/
def execCochainComplete (q l : Nat) (s : State) : Out := .next (s.asCore q l State.cochDone)

/-- R118: the oldest long-latency work of the core that is not complete completes: the head of its cochain queue. What a completed instruction
has left to land lands after its shadow. -/
def execLongLatencyComplete (q l : Nat) (s : State) : Out := .next (s.asCore q l State.cochDone)

end Sys2Proof.Machine
end

