-- ==== Sys2Proof/Machine/Publish.lean ====
section
/-!
DEFINITION. Code objects: staging form, references, the checks and the sealing of the publisher (R51 to R58).
-/
namespace Sys2Proof.Machine

/-- The n instruction words in a list of doublewords. -/
def wordsOf : Nat → List W64 → List W32
  | 0, _ => []
  | _, [] => []
  | 1, x :: _ => [x.setWidth 32]
  | n + 2, x :: xs => x.setWidth 32 :: (x >>> 32).setWidth 32 :: wordsOf n xs

/-- Pairs of doublewords: the reference entries (R51). -/
def pairsOf : List W64 → List (W64 × W64)
  | x :: y :: t => (x, y) :: pairsOf t
  | _ => []

/-- Length of a staged object (R51). -/
def stagedLen (nwords nref : Nat) : Nat := 16 + 8 * cdiv nwords 2 + 16 * nref

/-- The four words at w have the shape of R52. -/
def refShape (ws : List W32) (w : Nat) : Bool :=
  match ws.drop w with
  | w0 :: w1 :: w2 :: w3 :: _ =>
    let d := fd w0
    d != 0#5 && w0 == encode (.addi d 0#5 0#16) && w1 == encode (.insh d d 0#16) && w2 == w1 && w3 == w1
  | _ => false

/-- Put a 16-bit immediate into word w. -/
def putImm (ws : List W32) (w : Nat) (imm : Nat) : List W32 := ws.modify w fun x => x ||| BitVec.ofNat 32 (imm % 65536)

/-- Apply one reference (R52): the target address into the four immediates. -/
def applyRef (ws : List W32) (w a : Nat) : List W32 :=
  putImm (putImm (putImm (putImm ws w (fld a 48 16)) (w + 1) (fld a 32 16)) (w + 2) (fld a 16 16)) (w + 3) (fld a 0 16)

/-- Two references share a word. -/
def refsShare : List Nat → Bool
  | [] => false
  | w :: t => t.any (fun v => decide (v < w + 4) && decide (w < v + 4)) || refsShare t

/-- A staged object as the publisher has read it: header, words, padding, references. -/
structure Staged where
  hdr : W64
  dw1 : W64
  words : List W32
  pad : Nat
  refs : List (W64 × W64)
deriving DecidableEq, Repr

def Ctx.sealed (x : Ctx) (id : Nat) : Option CodeObj := x.objs.find? (·.id == id)

/-- Bytes that an object takes of the heap (R54). -/
def objSize (nwords : Nat) : Nat := 64 * cdiv (4 * nwords) 64

/-- Checks 0x02 to 0x05 of R56, in order; 0 when every one passes. -/
def Ctx.pubCheck (x : Ctx) (o : Staged) : Nat :=
  let nw := bf o.hdr 32 32
  if bf o.hdr 0 8 ≠ 1 ∨ bf o.hdr 8 8 ≠ 0 ∨ o.dw1 ≠ 0#64 ∨ o.pad ≠ 0 ∨ nw = 0 ∨ 65536 < nw ∨ 4096 < bf o.hdr 16 16
    ∨ o.refs.any (fun r => bit r.2 63 || bf r.2 56 7 != 0) then 2
  else if o.refs.any (fun r => decide (nw ≤ bf r.1 0 32 + 3) || !refShape o.words (bf r.1 0 32)) || refsShare (o.refs.map fun r => bf r.1 0 32)
    then 3
  else if o.refs.any (fun r => match x.sealed (bf r.2 0 56) with | some t => decide (t.n ≤ bf r.1 32 32) | none => true) then 4
  else if x.heapsize.toNat < x.heapUsed + objSize nw then 5
  else 0

/-- Seal an object that has passed the checks (R54): the heap gives its lowest free address, and the padding words are `brk`. -/
def Ctx.seal (x : Ctx) (o : Staged) : W64 × Ctx :=
  let nw := bf o.hdr 32 32
  let ws := o.refs.foldl (fun ws r => applyRef ws (bf r.1 0 32) (bf r.2 0 56 + 4 * bf r.1 32 32)) o.words
  let id := x.heapbase.toNat + x.heapUsed
  let pad := List.replicate (objSize nw / 4 - nw) (encode (.brk 0#15))
  (w64 id, { x with objs := x.objs ++ [⟨id, nw, ws ++ pad⟩], heapUsed := x.heapUsed + objSize nw })

/-- Serve one request in context n: read the staged object with `rd`, check it, seal it; the value that s[d] takes, or the fault of a
staging word. -/
def State.publish (s : State) (n : Nat) (rd : State → W64 → Nat → Except (Byte × W64) (List W64 × State)) (a len : W64) :
    Except (Byte × W64) (W64 × State) :=
  if a.toNat % 64 ≠ 0 then .ok (1#64, s) else
  match rd s a 2 with
  | .error e => .error e
  | .ok (h, s) =>
    let hdr := h.getD 0 0
    let nw := bf hdr 32 32
    let nr := bf hdr 16 16
    if len.toNat ≠ stagedLen nw nr then .ok (1#64, s) else
    if 65536 < nw ∨ 4096 < nr then .ok (2#64, s) else
    match rd s (a + 16#64) (cdiv nw 2 + 2 * nr) with
    | .error e => .error e
    | .ok (ds, s) =>
      let body := ds.take (cdiv nw 2)
      let pad := if nw % 2 = 1 then bf (body.getLastD 0) 32 32 else 0
      let o : Staged := ⟨hdr, h.getD 1 0, wordsOf nw body, pad, pairsOf (ds.drop (cdiv nw 2))⟩
      let st := (s.ctx n).pubCheck o
      if st ≠ 0 then .ok (w64 st, s) else
      let (id, x) := (s.ctx n).seal o
      .ok (id, s.setCtx n fun _ => x)

end Sys2Proof.Machine
end

