-- ==== Sys2Proof/Machine/Sys.lean ====
section
/-!
DEFINITION. The SYS group (R387, R388): NOP, BRK, the control registers (R389), PUBLISH (R55).
-/
namespace Sys2Proof.Machine

/-! ### The control register map (R389) -/

/-- TKSIZE (R173): COUNT is computed from the deque. -/
def Core.tksizeNow (c : Core) : W64 := at64 (c.deque.length % 65536) 16 ||| c.tksize

/-- The value of control register n; zero for a number of no register. -/
def State.crRead (s : State) (n : Nat) : W64 :=
  let c := s.core
  match n with
  | 0x00 => c.lcn | 0x01 => c.ncores | 0x02 => c.ltorus
  | 0x03 => c.dom[0] | 0x04 => c.dom[1] | 0x05 => c.dom[2] | 0x06 => c.dom[3] | 0x07 => c.dom[4]
  | 0x08 => c.domph | 0x09 => c.jobseed | 0x0A => s.cyc | 0x0B => c.gangst
  | 0x10 => c.streamid | 0x11 => c.mintkey | 0x12 => c.srsite | 0x13 => c.srbase | 0x14 => c.fflags | 0x15 => c.frm | 0x16 => c.vrm
  | 0x18 => c.cause | 0x19 => c.tval | 0x1A => c.epc | 0x1B => c.shdone | 0x1C => c.rptst | 0x1D => c.fstat | 0x1E => c.evlatch
  | 0x20 => c.vshare | 0x21 => c.copyperm | 0x22 => c.penbase | 0x23 => c.pensize | 0x24 => c.tkbase | 0x25 => c.tksizeNow
  | 0x26 => c.steallvl | 0x27 => c.stealtry | 0x28 => c.twin | 0x29 => c.migthresh
  | 0x30 => c.bayfmt[0] | 0x31 => c.bayfmt[1] | 0x32 => c.bayfmt[2] | 0x33 => c.bayfmt[3]
  | 0x34 => c.bayfmt[4] | 0x35 => c.bayfmt[5] | 0x36 => c.bayfmt[6] | 0x37 => c.bayfmt[7]
  | _ => 0

/-- The bits of register n that a program may write; the others are reserved or read-only. -/
def crMask (n : Nat) : W64 :=
  match n with
  | 0x12 => 0xFFFF | 0x14 => 0x1F | 0x15 => 3 | 0x16 => 7
  | 0x1B => 0x800F7FFF | 0x1C => 0x8007FFFFFFFFFFFF | 0x1D => 0xFFFFFFFF00000000 | 0x1E => 0xFFFF
  | 0x20 => 0x3F | 0x21 => 0x7FF | 0x22 => 0x3FFC0 | 0x23 => 0x7FFC0 | 0x24 => 0x3FFF0 | 0x25 => 0x1FF
  | 0x26 => 7 | 0x27 => 0xFF | 0x28 => 0xFFF | 0x29 => 0xFFFF
  | 0x10 | 0x11 | 0x13 => BitVec.allOnes 64
  | _ => if 0x30 ≤ n ∧ n ≤ 0x37 then 0x7FFFF else 0

/-- Set control register n; nothing for a number that names none that can be written. -/
def Core.crPut (c : Core) (n : Nat) (v : W64) : Core :=
  match n with
  | 0x10 => { c with streamid := v } | 0x11 => { c with mintkey := v }
  | 0x12 => { c with srsite := v } | 0x13 => { c with srbase := v }
  | 0x14 => { c with fflags := v } | 0x15 => { c with frm := v } | 0x16 => { c with vrm := v }
  | 0x1B => { c with shdone := v } | 0x1C => { c with rptst := v } | 0x1D => { c with fstat := v } | 0x1E => { c with evlatch := v }
  | 0x20 => { c with vshare := v } | 0x21 => { c with copyperm := v }
  | 0x22 => { c with penbase := v } | 0x23 => { c with pensize := v }
  | 0x24 => { c with tkbase := v, deque := [] }
  | 0x25 => { c with tksize := if 256 < v.toNat then 256 else v, deque := [] }
  | 0x26 => { c with steallvl := v } | 0x27 => { c with stealtry := v } | 0x28 => { c with twin := v } | 0x29 => { c with migthresh := v }
  | _ => if h : 0x30 ≤ n ∧ n < 0x38 then { c with bayfmt := c.bayfmt.set (n - 0x30) v } else c

/-- A queued cochain instruction that will advance SRBASE (R267): CR instructions that name SRBASE wait for it. -/
def Core.srbasePending (c : Core) : Bool := c.cq.any fun e => e.adv != 0

/-- Work of the core that has still to read the format of bay b (R192): a queued cochain instruction with a handle in the bay that is not
bound, or a matrix command with an operand in the bay that has not started. -/
def Core.fmtPending (c : Core) (b : Nat) : Bool :=
  let inBay (h : Handle) : Bool := h.toNat / 2 ^ 77 % 8 == b && h.toNat / 2 ^ 124 != 0
  (c.cq.any fun e => e.bound.isNone && (inBay e.kd || inBay e.ka || inBay e.kb)) || c.mxReads b

/-- A CR instruction on register n has still to wait (R388, R136, R192). -/
def Core.crWaits (c : Core) (n : Nat) (rd : Bool) : Bool :=
  (n == 0x13 && c.srbasePending) || (!rd && decide (0x30 ≤ n) && decide (n ≤ 0x37) && c.fmtPending (n - 0x30))

/-- The trap of a write to PENBASE or PENSIZE that would leave the pen at (base, size) (R195): beyond the declared minimum, then messages
held in the pen. -/
def Core.penTrap (c : Core) (base size v : W64) : Option (Byte × W64) :=
  if size ≠ 0#64 ∧ c.lmin < base.toNat + size.toNat then some (0x06#8, v)
  else if c.rx.any (·.pen.isSome) then some (0x14#8, w64 (3 + c.lcn.toNat * 2 ^ 32))
  else none

/-- Write v to the writable bits of register n, with the traps and waits of its own rules (R388). -/
def State.crWrite (s0 s : State) (n : Nat) (v : W64) : State :=
  let c := s.core
  if c.crWaits n false then s0.wait else
  let t := if n = 0x22 then c.penTrap v c.pensize v else if n = 0x23 then c.penTrap c.penbase v v else none
  match t with
  | some (cause, tval) => s0.trap cause tval
  | none => (s.setCore (·.crPut n v)).retire

/-- An unknown register, or a write to one that is read-only as a whole (R388): illegal instruction, reason 0x07. -/
def State.crIllegal (s : State) (i : Instr) : State := s.trap 0x01#8 (w64 ((encode i).toNat + 7 * 2 ^ 32))

/-- R387: a position of a shadow, and nothing else. -/
def execNop (s : State) : Out := .next s.retire

/-- R387: CAUSE 0x15 with the code. -/
def execBrk (n : BitVec 15) (s : State) : Out := .next (s.trap 0x15#8 (n.setWidth 64))

/-- R388: CRR. -/
def execCrr (d h l : BitVec 5) (s : State) : Out := .next <|
  let n : BitVec 10 := h ++ l
  if !crKnown n then s.crIllegal (.crr d h l) else
  s.operands false [] [d] fun _ s0 s =>
    if s.core.crWaits n.toNat true then s0.wait else s.finish d (s.crRead n.toNat)

/-- R388: CRW. -/
def execCrw (h a l : BitVec 5) (s : State) : Out := .next <|
  let n : BitVec 10 := h ++ l
  if !crWritable n then s.crIllegal (.crw h a l) else
  s.operands false [a] [] fun vs s0 s => s0.crWrite s n.toNat (vs.getD 0 0 &&& crMask n.toNat)

/-- R388: CRS. -/
def execCrs (h a l : BitVec 5) (s : State) : Out := .next <|
  let n : BitVec 10 := h ++ l
  if !crWritable n then s.crIllegal (.crs h a l) else
  s.operands false [a] [] fun vs s0 s =>
    s0.crWrite s n.toNat ((s.crRead n.toNat ||| vs.getD 0 0) &&& crMask n.toNat)

/-- R388: CRC. -/
def execCrc (h a l : BitVec 5) (s : State) : Out := .next <|
  let n : BitVec 10 := h ++ l
  if !crWritable n then s.crIllegal (.crc h a l) else
  s.operands false [a] [] fun vs s0 s =>
    s0.crWrite s n.toNat ((s.crRead n.toNat &&& ~~~(vs.getD 0 0)) &&& crMask n.toNat)

/-- R55, R59: when requests wait at the publisher, or an earlier store of the core is not yet performed, the core's request joins them and the core waits
for its answer; otherwise it is served at once. The staged words are read after every earlier store of the core. -/
def execPublish (d a b : BitVec 5) (s : State) : Out := .next <|
  s.operands false [a, b] [d] fun vs s0 s =>
    let c := s.core
    let n := s.ctxOf c
    let me (q l : Nat) : Bool := q == c.queue && l == c.lcn.toNat
    let drop (s : State) : State := s.setCtx n fun x => { x with pubres := x.pubres.filter fun r => !me r.q r.l }
    match (s.ctx n).pubres.find? fun r => me r.q r.l with
    | some r =>
      match r.fault with
      | some (cause, tval) => (drop s0).trap cause tval
      | none => (drop s).finish d r.val
    | none =>
      if (s.ctx n).pubq.any fun r => r.core == some (c.queue, c.lcn.toNat) then s0.wait
      else if (s.ctx n).pubq ≠ [] ∨ s.drainAll.core.posted ≠ [] then
        (s0.drainAll.setCtx n fun x => { x with pubq := x.pubq ++ [⟨none, vs.getD 0 0, vs.getD 1 0, some (c.queue, c.lcn.toNat)⟩] }).wait
      else
        let s := s.drainAll
        match s.publish n State.unitDws (vs.getD 0 0) (vs.getD 1 0) with
        | .error (cause, tval) => s0.drainAll.trap cause tval
        | .ok (v, s) => s.finish d v

end Sys2Proof.Machine
end

