-- ==== Sys2Proof/Machine/Calendar.lean ====
section
/-!
DEFINITION. The Clearing House (R357 to R361): routes of circuits, the decomposition of demand into phases, the calendar and its times.
-/
namespace Sys2Proof.Machine

/-! ### Routes (R361) -/

/-- A router port that a circuit holds: router, direction of travel (0 +X, 1 −X, 2 +Y, 3 −Y), and whether it is an out-port. -/
structure HPort where
  x : Nat
  y : Nat
  dir : Nat
  out : Bool
deriving DecidableEq, Repr

/-- The way around a ring of n modules from a to b: edges crossed, and whether it is the negative way; a tie goes positive (R357). -/
def leg (n a b : Nat) : Nat × Bool :=
  let p := ringPos n a b
  let m := ringNeg n a b
  if m < p then (m, true) else (p, false)

/-- A coordinate h hops on. -/
def hop (n a h : Nat) (neg : Bool) : Nat := if neg then (a + n * (h / n + 1) - h) % n else (a + h) % n

/-- The ports on n hops from (x, y) in direction dir: the out-port of every router left, the in-port of every router entered. -/
def hopPorts (W H x y dir n : Nat) : List HPort :=
  let posAt (h : Nat) : Nat × Nat := if dir < 2 then (hop W x h (dir == 1), y) else (x, hop H y h (dir == 3))
  (upTo n).flatMap fun h => [⟨(posAt h).1, (posAt h).2, dir, true⟩, ⟨(posAt (h + 1)).1, (posAt (h + 1)).2, dir, false⟩]

/-- The ports of lane i of the circuit from module a to module b on ports px and py, in a torus of MX by MY modules. -/
def lanePorts (MX MY a b px py i : Nat) : List HPort :=
  let (kx, xn) := leg MX (a % 64) (b % 64)
  let (ky, yn) := leg MY (a / 64) (b / 64)
  let r := 4 * px + i
  let c := 4 * py + i
  let W := 64 * MX
  let H := 64 * MY
  let x0 := 64 * (a % 64) + if xn then 0 else 63
  let turn := if ky = 0 then 0 else if xn then 63 - c else c
  let nx := 64 * (kx - 1) + 1 + turn
  let xs := if kx = 0 then [] else hopPorts W H x0 (64 * (a / 64) + r) (if xn then 1 else 0) nx
  let ydir := if yn then 3 else 2
  let ys :=
    if ky = 0 then []
    else if kx = 0 then hopPorts W H (64 * (a % 64) + c) (64 * (a / 64) + if yn then 0 else 63) ydir (64 * (ky - 1) + 1)
    else hopPorts W H (64 * (b % 64) + c) (64 * (a / 64) + r) ydir ((if yn then r else 63 - r) + 64 * (ky - 1) + 1)
  xs ++ ys

/-- Every port of a circuit. -/
def circuitPorts (MX MY a b px py : Nat) : List HPort := (upTo 4).flatMap (lanePorts MX MY a b px py)

/-- H of a circuit (R358). -/
def circuitH (MX MY a b : Nat) : Nat := 64 * ((leg MX (a % 64) (b % 64)).1 + (leg MY (a / 64) (b / 64)).1)

/-! ### DECOMPOSE (R357) -/

/-- Demand of one pair still to be placed. -/
structure Pair where
  a : Nat
  b : Nat
  rem : Nat
deriving DecidableEq, Repr

/-- A circuit of a calendar. -/
structure Circuit where
  ph : Nat
  a : Nat
  b : Nat
  px : Nat
  py : Nat
deriving DecidableEq, Repr

/-- The order of L: rem descending, then A and B ascending. -/
def pairLe (p q : Pair) : Bool := decide (q.rem < p.rem) || (p.rem == q.rem && (decide (p.a < q.a) || (p.a == q.a && decide (p.b ≤ q.b))))

/-- The least (px, py) with which a pair fits. -/
def fitPair (MX MY : Nat) (held : List HPort) (p : Pair) : Option (Nat × Nat) :=
  let kx := (leg MX (p.a % 64) (p.b % 64)).1
  let ky := (leg MY (p.a / 64) (p.b / 64)).1
  let opts := (if kx = 0 then [0] else upTo 16).flatMap fun px => (if ky = 0 then [0] else upTo 16).map fun py => (px, py)
  opts.find? fun o => (circuitPorts MX MY p.a p.b o.1 o.2).all fun h => !held.contains h

/-- Fill phase ph: admit circuits until no pair fits. -/
def fillPhase (MX MY ph : Nat) : Nat → List HPort → List Pair → List Circuit → List Pair × List Circuit
  | 0, _, ps, cs => (ps, cs)
  | n + 1, held, ps, cs =>
    let l := (ps.filter fun p => decide (0 < p.rem)).insertionSort fun p q => pairLe p q
    match (l.filterMap fun p => (fitPair MX MY held p).map fun o => (p, o)).head? with
    | none => (ps, cs)
    | some (p, o) =>
      fillPhase MX MY ph n (circuitPorts MX MY p.a p.b o.1 o.2 ++ held)
        (ps.map fun q => if q.a = p.a ∧ q.b = p.b then { q with rem := q.rem - 1 } else q) (cs ++ [⟨ph, p.a, p.b, o.1, o.2⟩])

/-- The demand that is left. -/
def remTotal (ps : List Pair) : Nat := ps.foldl (fun a p => a + p.rem) 0

/-- Phases from ph on, at most n: the circuits, the number of phases, whether demand is left. -/
def decompose (MX MY : Nat) : Nat → Nat → List Pair → List Circuit → List Circuit × Nat × Bool
  | 0, ph, ps, cs => (cs, ph, decide (0 < remTotal ps))
  | n + 1, ph, ps, cs =>
    if remTotal ps = 0 then (cs, ph, false) else
    let (ps, cs) := fillPhase MX MY ph (remTotal ps) [] ps cs
    decompose MX MY n (ph + 1) ps cs

/-! ### The calendar (R358, R359) -/

def Circuit.entry (MX MY : Nat) (c : Circuit) : W64 :=
  let xn := (leg MX (c.a % 64) (c.b % 64)).2
  let yn := (leg MY (c.a / 64) (c.b / 64)).2
  w64 (c.a % 4096 * 2 ^ 52 + c.b % 4096 * 2 ^ 40 + c.px * 2 ^ 36 + c.py * 2 ^ 32 + xn.toNat * 2 ^ 31 + yn.toNat * 2 ^ 30 + c.ph % 4096)

/-- The calendar of exchange k with the last ready record at tr. -/
def calendarOf (MX MY k tr : Nat) (ps : List Pair) : List W64 :=
  let (cs, n, cut) := decompose MX MY 4096 0 ps []
  let hmax := cs.foldl (fun h c => Max.max h (circuitH MX MY c.a c.b)) 0
  [w64 (k % 2 ^ 32 * 2 ^ 32 + n), w64 (tr + 8192), w64 (cs.length * 2 ^ 32 + (2112 + hmax) * 2 ^ 16 + cut.toNat), 0, 0, 0, 0, 0]
    ++ cs.map (Circuit.entry MX MY)

def calNo (ws : List W64) : Nat := bf (ws.getD 0 0) 32 32
def calNph (ws : List W64) : Nat := bf (ws.getD 0 0) 0 13
def calStart (ws : List W64) : Nat := (ws.getD 1 0).toNat
def calPlen (ws : List W64) : Nat := bf (ws.getD 2 0) 16 16
def calCut (ws : List W64) : Bool := bit (ws.getD 2 0) 0
def calEntries (ws : List W64) : List W64 := (ws.drop 8).take (bf (ws.getD 2 0) 32 32)
/-- S_i (R358). -/
def calPhase (ws : List W64) (i : Nat) : Nat := calStart ws + i * calPlen ws

def entSrc (e : W64) : Nat := bf e 52 12
def entDst (e : W64) : Nat := bf e 40 12
def entPhase (e : W64) : Nat := bf e 0 12

/-- Circuits granted from module a to module b. -/
def granted (ws : List W64) (a b : Nat) : Nat := ((calEntries ws).filter fun e => entSrc e == a && entDst e == b).length

/-- The slots that module a sends in phase i: the destination and the slot's number in the order of R365. -/
def slotsOf (ws : List W64) (a i : Nat) : List (Nat × Nat) :=
  let es := (calEntries ws).filter fun e => entSrc e == a
  (upTo es.length).filterMap fun j =>
    match es[j]? with
    | some e => if entPhase e = i then some (entDst e, ((es.take j).filter fun f => entDst f == entDst e).length) else none
    | none => none

/-- The router ports that the circuits of phase i hold. -/
def phasePorts (MX MY : Nat) (ws : List W64) (i : Nat) : List HPort :=
  ((calEntries ws).filter fun e => entPhase e == i).flatMap fun e => circuitPorts MX MY (entSrc e) (entDst e) (bf e 36 4) (bf e 32 4)

end Sys2Proof.Machine
end

