-- ==== Sys2Proof/Machine/Msg.lean ====
section
/-!
DEFINITION. Messages (R348 to R350): the receive queue, the pen, SEND, RECV and RECVP.
-/
namespace Sys2Proof.Machine

/-- Records that the pen holds (R348). -/
def Core.penSlots (c : Core) : Nat := c.pensize.toNat / 32

/-- A message as a record of the pen (R348). -/
def Msg.dws (m : Msg) : List W64 := [m.x, m.y, w64 (m.sender % 2 ^ 26 + m.tag % 2 ^ 16 * 2 ^ 32), 0]

/-- Accept a message (R348): into the receive queue, into the pen when that is full; none when both are. -/
def Core.accept (c : Core) (m : Msg) : Option Core :=
  if 16 + c.penSlots ≤ c.rx.length then none
  else if (c.rx.filter (·.pen.isNone)).length < 16 then some { c with rx := c.rx ++ [{ m with pen := none }] }
  else
    let k := c.penAt % c.penSlots
    some { c with rx := c.rx ++ [{ m with pen := some k }], penAt := (k + 1) % c.penSlots,
                  lmem := Memory.write c.lmem (c.penbase.toNat + 32 * k) (bytesOf m.dws) }

/-- The receive queue of a saved core's record (R384, R385): its messages in the pen layout and the count held, and the pen's record in the
image of local memory. -/
def State.savedMsgs (s : State) (c : Core) : State :=
  let q := c.rx.filter (·.pen.isNone)
  let s := s.savedPut c 0x1000 ((q.flatMap Msg.dws) ++ List.replicate (4 * (16 - q.length)) 0 ++ [w64 c.rx.length])
  match c.rx.getLast? with
  | some m =>
    match m.pen with
    | some k => s.savedPut c (0x20000 + c.penbase.toNat + 32 * k) m.dws
    | none => s
  | none => s

/-- Deliver a message to logical core l of queue q on this module: whether it was accepted. A core that is not there refuses. -/
def State.deliver (s : State) (q l : Nat) (m : Msg) : Bool × State :=
  if s.isCur q l then
    match s.core.accept m with
    | some c => (true, let s : State := { s with core := c }; if c.st = .saved then s.savedMsgs c else s)
    | none => (false, s)
  else
    match s.find q l with
    | none => (false, s)
    | some i =>
      match s.peers[i]? with
      | none => (false, s)
      | some c =>
        match c.accept m with
        | none => (false, s)
        | some c =>
          let s := s.setPeer i fun _ => c
          (true, if c.st = .saved then s.savedMsgs c else s)

/-- R349: SEND; a is even, of which the word carries the four high bits. -/
def execSend (d : BitVec 5) (a : BitVec 4) (b : BitVec 5) (s : State) : Out := .next <|
  let e : SReg := a ++ 0#1
  let o : SReg := a ++ 1#1
  s.operands false [e, o, b] [d] fun vs s0 s =>
    let y := vs.getD 2 0
    let t := bf y 0 26
    let c := s.core
    if bf y 26 6 ≠ 0 ∨ bf y 48 16 ≠ 0 ∨ c.ncores.toNat ≤ t then s0.trap 0x14#8 (msgTval 1 t) else
    let m : Msg := ⟨vs.getD 0 0, vs.getD 1 0, c.lcn.toNat, bf y 32 16, none⟩
    match s0.core.answer (w64 t) with
    | .waiting => s0.wait
    | .nack _ => s0.trap 0x14#8 (msgTval 2 t)
    | .reply _ ws => s.finish d (ws.getD 0 0)
    | .none =>
      match s0.fenceWait 2#2 false with
      | .trap e s => s.trapT e
      | .wait s => s.wait
      | .ok s1 =>
        match s1.window .store t 0 with
        | .error _ => s1.trap 0x14#8 (msgTval 2 t)
        | .ok (.farLoc pc k o, _) => (s1.askFor .msg (.farLoc pc k o) 32 (w64 t) false [] fun tag => .message tag pc m).wait
        | .ok _ =>
          s1.operands false [e, o, b] [] fun _ _ s =>
            let (ok, s) := s.deliver c.queue t m
            s.finish d (b64 !ok)

/-- Take the oldest message (R349). -/
def State.takeMsg (s : State) (m : Msg) (rest : List Msg) (d : BitVec 4) : State :=
  (s.acquire.setCore fun c => { c with rx := rest }).finishAll
    [(d ++ 0#1, m.x), (d ++ 1#1, m.y), (d ++ 0#1 + 2#5, (m.dws.getD 2 0))]

/-- R349: RECV. -/
def execRecv (d : BitVec 4) (s : State) : Out := .next <|
  s.operands false [] [d ++ 0#1, d ++ 1#1, d ++ 0#1 + 2#5] fun _ s0 s =>
    match s.core.rx with
    | [] => s0.wait
    | m :: rest => s.takeMsg m rest d

/-- R349: RECVP. -/
def execRecvp (d : BitVec 4) (s : State) : Out := .next <|
  s.operands false [] [d ++ 0#1, d ++ 1#1, d ++ 0#1 + 2#5] fun _ _ s =>
    match s.core.rx with
    | [] => s.finishAll [(d ++ 0#1, 0), (d ++ 1#1, 0), (d ++ 0#1 + 2#5, BitVec.allOnes 64)]
    | m :: rest => s.takeMsg m rest d

end Sys2Proof.Machine
end

