-- ==== Sys2Proof/Machine/Strm.lean ====
section
/-!
DEFINITION. SBIND, SFREE, SDRAIN and SSTAT (R212, R213, R215).
-/
namespace Sys2Proof.Machine

/-- A port number. -/
def portOf (n : BitVec 3) : Fin 8 := ⟨n.toNat, n.isLt⟩

/-- The register of a port (R114). -/
def portReg (n : Fin 8) : SReg := BitVec.ofNat 5 (24 + n.val)

/-- The descriptor of port n may not be bound (R215 reason 0x03). -/
def Core.strInvalid (c : Core) (n : Nat) : Bool :=
  let sz := c.strSize n
  bf (c.dw n 3) 7 57 != 0 || bf (c.dw n 3) 0 3 != 0 || c.strCount0 n == 0 || c.strCount1 n == 0 || decide (2 ^ 48 ≤ c.strTotal n)
    || (c.strBase n).toNat % sz != 0 || bf (c.dw n 1) 0 32 % sz != 0 || bf (c.dw n 1) 32 32 % sz != 0
    || (decide (ctlBase ≤ (c.strBase n).toNat) && decide ((c.strBase n).toNat < ctlBase + 0x10000))

/-- Unbind a port (R212): buffered elements are discarded, and the register holds its value from before SBIND. -/
def Core.unbind (c : Core) (n : Fin 8) : Core :=
  let p := c.ports.get n
  if p.bound then { c with ports := c.ports.set n.val ⟨false, 0, 0, [], [], none⟩, s := c.s.set (24 + n.val) p.aside } else c

/-- No answer of another module is awaited for the port any more. -/
def State.dropPortReqs (s : State) (n : Fin 8) : State :=
  let c := s.core
  { s with reqs := s.reqs.filter fun r => !(r.q == c.queue && r.l == c.lcn.toNat && (r.use == .stream n.val || r.use == .streamW n.val)) }

/-- Unbind every port. -/
def State.unbindAll (s : State) : State := (List.finRange 8).foldl (fun s n => (s.dropPortReqs n).setCore (·.unbind n)) s

/-- Drain a bound write port, then go on (R212, R217). -/
def State.drained (s : State) (n : Fin 8) (k : State → State) : State :=
  if !s.core.strWrite n.val then k s else
  match (s.core.ports.get n).heldTrap n with
  | some t => s.trapT t
  | none =>
    let s := s.strDrainAll n
    match (s.core.ports.get n).heldTrap n with
    | some t => s.trapT t
    | none => if (s.core.ports.get n).pushed = [] then k s else s.wait

def execSbind (n : BitVec 3) (s : State) : Out := .next <|
  let p := portOf n
  if (s.core.ports.get p).bound then s.trap 0x10#8 (portTval p 1)
  else if s.core.strInvalid p.val then s.trap 0x10#8 (portTval p 3)
  else
    let s := if s.core.ownPosted then s.drainAll else s
    if s.core.ownPosted then s.wait else
    let aside := s.core.rd (portReg p)
    (s.setCore fun c => { c with ports := c.ports.set p.val ⟨true, aside, 0, [], [], none⟩ }).retire

def execSfree (n : BitVec 3) (s : State) : Out := .next <|
  let p := portOf n
  if !(s.core.ports.get p).bound then s.trap 0x10#8 (portTval p 2)
  else s.drained p fun s => ((s.dropPortReqs p).setCore (·.unbind p)).retire

def execSdrain (n : BitVec 3) (s : State) : Out := .next <|
  let p := portOf n
  if !(s.core.ports.get p).bound then s.trap 0x10#8 (portTval p 2) else s.drained p State.retire

/-- R213: the status of port n. -/
def Core.strStatus (c : Core) (n : Fin 8) : W64 :=
  let p := c.ports.get n
  if !p.bound then 0 else
  w64 (2 ^ 63 + (c.strWrite n.val).toNat * 2 ^ 62 + p.held.isSome.toNat * 2 ^ 61 + (c.strTotal n.val - p.idx - p.pushed.length) % 2 ^ 48)

/-- R212. DESIGN CHOICE for s[d] a bound port: log entry 106. -/
def execSstat (d : BitVec 5) (n : BitVec 3) (s : State) : Out := .next <|
  s.operands false [] [d] fun _ _ s => s.finish d (s.core.strStatus (portOf n))

end Sys2Proof.Machine
end

