-- ==== Sys2Proof/Machine/TaskOps.lean ====
section
/-!
DEFINITION. The task deque and steal unit (R16 to R20, R173 to R180), the end of a core's work (R392), and gangs (R171, R172).
-/
namespace Sys2Proof.Machine

/-! ### Copies of read sets and write sets -/

/-- Set the full/empty bits of the words of a range (R194). -/
def Core.fill (c : Core) (o n : Nat) : Core := (upTo (n / 8)).foldl (fun c i => c.setFe (o + 8 * i) true) c

/-- Copy ranges of logical core `home` of the queue to the same offsets of the current core (R16); a saved core's memory is its record's. -/
def State.pullRanges (s : State) (q home : Nat) (rs : List (Nat × Nat)) : State :=
  rs.foldl (fun s r => let bs := s.homeView (.loc q home r.1) r.2; s.setCore fun c => (c.locWrite r.1 bs).fill r.1 r.2) s

/-- Copy ranges of the current core to the same offsets of logical core `home` (R16). -/
def State.pushRanges (s : State) (q home : Nat) (rs : List (Nat × Nat)) : State :=
  if s.core.lcn.toNat = home then s else
  rs.foldl (fun s r => (s.homePut (.loc q home r.1) (s.core.locRead r.1 r.2)).homeFills q home r.1 r.2) s

/-- The task entry of an index (R50). -/
def State.taskEnt (s : State) (i : Nat) : Option TaskEnt :=
  match s.launchOf s.core with
  | some l => l.tasks[i]?
  | none => none

/-- STREAMID and MINTKEY set together (R105). -/
def Core.setStream (c : Core) (id : W64) : Core := { c with streamid := id, mintkey := mint c.jobseed id }

/-- Set aside the thief's own bytes of some ranges (R18; log entry 74). -/
def Core.setAside (c : Core) (rs : List (Nat × Nat)) : Core :=
  { c with stash := rs.map fun r => ⟨r.1, c.locRead r.1 r.2, (upTo (r.2 / 8)).filterMap fun i => if c.fe (r.1 + 8 * i) then none else some (r.1 / 8 + i)⟩ }

/-- Put them back. -/
def Core.putBack (c : Core) : Core :=
  c.stash.foldl (fun c e => { c with
    lmem := Memory.write c.lmem e.off (e.bytes.take (c.lmin - e.off)),
    empties := e.empty ++ c.empties.filter fun w => decide (w < e.off / 8) || decide (e.off / 8 + e.bytes.length / 8 ≤ w) }) { c with stash := [] }

/-- The current task has ended (R177): a thief's own bytes are back where the task's sets had covered them. -/
def Core.endTask (c : Core) : Core := { c.putBack.setStream c.lcn with task := none, wsret := none }

/-- Doublewords of ranges, as offsets. -/
def rangeWords (rs : List (Nat × Nat)) : List Nat := rs.flatMap fun r => (upTo (r.2 / 8)).map fun i => r.1 + 8 * i

/-- Send the doublewords of a write set to a home on another module (R16). -/
def State.sendWrites (s : State) (home : Nat) (ws : List Nat) : State :=
  ws.foldl (fun s o => match s.unitSend .wset (winAddr home o) (s.core.locRead o 8) true with | .ok s => s | .error _ => s) s

/-- The write set of a stolen task is written back into its home (R16): the unit's part, asked for by TKDONE or TKPOP. -/
def State.returnWrites (s : State) : State :=
  let c := s.core
  match c.task, c.wsret with
  | some t, some false =>
    let rs := match s.taskEnt t.index with | some e => e.writes | none => []
    let s := if s.moduleOf c.queue t.home = Config.pkgX then s.pushRanges c.queue t.home rs else s.sendWrites t.home (rangeWords rs)
    s.setCore fun c => { c with wsret := some true }
  | _, _ => s

/-- Words of the current core's write set that another module has still to acknowledge. -/
def State.wsetOut (s : State) : Bool := s.reqs.any fun r => r.q == s.core.queue && r.l == s.core.lcn.toNat && r.use == .wset

/-- End the current task, if there is one; `k` goes on. A stolen one's write set returns first. -/
def State.taskDone (s : State) (k : State → State) : State :=
  match s.core.task with
  | none => k s
  | some t =>
    if !t.stolen then k (s.setCore Core.endTask) else
    match s.core.wsret with
    | some true => if s.wsetOut then s.wait else k (s.setCore Core.endTask)
    | some false => s.wait
    | none => (s.setCore fun c => { c with wsret := some false }).wait

/-! ### Probes (R178) -/

/-- First router of a domain and how many routers it has in X (R8, R10). -/
def domRect (LX level id : Nat) : Nat × Nat × Nat :=
  if level = 5 then (0, 0, LX) else
  let (ex, ey) := domExtent level
  let w := cdiv LX ex
  let x := id % w * ex
  (x, id / w * ey, Min.min ex (LX - x))

/-- Member number j of a domain, in the order of LCN. -/
def domMember (LX level id j : Nat) : Nat :=
  let (x, y, w) := domRect LX level id
  ((y + j / 4 / w) * LX + x + j / 4 % w) * 4 + j % 4

/-- The number of a member. -/
def domIndex (LX level id lcn : Nat) : Nat :=
  let (x, y, w) := domRect LX level id
  ((lcn / 4 / LX - y) * w + (lcn / 4 % LX - x)) * 4 + lcn % 4

/-- The victim of probe t of the core's k-th empty TKPOP; none when the domain has no other member. -/
def State.victim (s : State) (k t : Nat) : Option Nat :=
  let c := s.core
  let lvl := c.steallvl.toNat % 8
  match s.launchOf c with
  | none => none
  | some l =>
    let id := c.domAt lvl
    let m := domSize l.lx l.ly lvl id - 1
    if m = 0 then none else
    let u := draw c.jobseed (w64 (c.lcn.toNat * 2 ^ 32 + (k * 256 + t) % 2 ^ 32))
    let j := u * m / 2 ^ 32
    some (domMember l.lx lvl id (if j < domIndex l.lx lvl id c.lcn.toNat then j else j + 1))

/-- Both cores are in a compute phase of the same superstep (R19). -/
def samePhase (a b : Core) : Bool := !bit a.domph 32 && !bit b.domph 32 && bf a.domph 0 32 == bf b.domph 0 32

/-- The entries that a probe takes of a core: the older half, with the core noted as one from whose deque they were stolen (R178, R20). -/
def Core.halfDeque (v : Core) : List Task :=
  (v.deque.take ((v.deque.length + 1) / 2)).map fun t => { t with stolen := true, via := v.lcn.toNat :: t.via }

/-- The probe of the current core has its answer: the entries go to the old end of the deque. -/
def Core.probeGot (c : Core) (got : List Task) : Core :=
  { c with probe := c.probe.map fun p => { p with answered := true }, deque := got ++ c.deque }

/-- The victim's steal unit answers the probe of the current core (R178); one on another module is asked, and answers by an event. -/
def State.stealServe (s : State) : State :=
  let c := s.core
  match c.probe with
  | none => s
  | some p =>
    match p.victim with
    | none => s
    | some l =>
      if p.answered then s else
      match (s.find c.queue l).bind fun i => (s.peers[i]?).map fun v => (i, v) with
      | none => if s.moduleOf c.queue l = Config.pkgX then s.setCore (·.probeGot []) else s
      | some (i, v) =>
        let n := (v.deque.length + 1) / 2
        if v.deque = [] ∨ bf c.tksize 0 9 < c.deque.length + n ∨ v.st = .trapped ∨ v.st = .saved ∨ !samePhase c v then s.setCore (·.probeGot [])
        else (s.setPeer i fun v => { v with deque := v.deque.drop n }).setCore (·.probeGot v.halfDeque)

/-- The answer of a victim on another module. -/
def State.farAnswer (s : State) (far : List FarTask) : State :=
  let c := s.core
  match c.probe.bind fun p => if p.answered then none else p.victim with
  | none => s
  | some l =>
    if s.moduleOf c.queue l = Config.pkgX then s else
    if bf c.tksize 0 9 < c.deque.length + far.length ∨ bit c.domph 32 then s.setCore (·.probeGot [])
    else s.setCore (·.probeGot (far.map fun t => ⟨t.index, t.home, true, t.arg, [l]⟩))

/-- The probe of a thief on another module reaches the current core: the entries leave, and count as lent until their write sets are back (R16, R20). -/
def State.stolenFrom (s : State) (t : FarThief) : State :=
  let v := s.core
  let n := (v.deque.length + 1) / 2
  let refused := v.deque = [] ∨ t.room < n ∨ v.st = .trapped ∨ v.st = .saved ∨ !samePhase { v with domph := t.domph } v
  let got := if refused then [] else v.halfDeque
  let s := s.setCore fun c => { c with deque := c.deque.drop got.length, lent := c.lent ++ got }
  s.emit (.tasks v.queue (got.map fun t => ⟨t.index, t.home, t.arg⟩))

/-- The write set of a task that was lent from the current core is back in its home, and the task is done (R16). -/
def State.writesBack (s : State) (b : FarReturn) : State :=
  let q := s.core.queue
  match s.core.lent[b.nth]? with
  | none => s
  | some t =>
    let s := s.setCore fun c => { c with lent := c.lent.eraseIdx b.nth }
    if s.moduleOf q t.home ≠ Config.pkgX then s else
    b.ranges.foldl (fun s r => (s.homePut (.loc q t.home r.1) r.2).homeFills q t.home r.1 r.2.length) s

/-! ### TKPUSH, TKPOP, TKDONE -/

/-- R175. -/
def execTkpush (d a b : BitVec 5) (s : State) : Out := .next <|
  s.operands false [a, b] [d] fun vs s0 s =>
    let x := (vs.getD 0 0).toNat
    let n := match s.launchOf s.core with | some l => l.tasks.length | none => 0
    if 4096 ≤ x ∨ n ≤ x then s.finish d 2
    else if bf s.core.tksize 0 9 ≤ s.core.deque.length then s.finish d 1
    else if !s.settled then s0.drainAll.wait
    else
      let s := s.drainAll
      (s.setCore fun c => { c with deque := c.deque ++ [⟨x, c.lcn.toNat, false, vs.getD 1 0, []⟩] }).finish d 0

/-- A TKPOP that ends counts when its own deque was empty at first (R178). -/
def Core.popCount (c : Core) (empty : Bool) : Core := { c with kpops := if empty then c.kpops + 1 else c.kpops, probe := none }

/-- Copy a read set from a home on another module: every doubleword, or the first that has still to be asked for, or the refusal (R176). -/
def State.pullReads (s : State) (home : Nat) : List Nat → Except (Byte × W64) State
  | [] => .ok s
  | o :: os =>
    match s.engRead 3 (winAddr home o) 8 with
    | .error f => .error f
    | .ok (bs, s) => State.pullReads (s.setCore fun c => (c.locWrite o bs).setFe o true) home os

/-- The read set of entry e is in place: at once where it is the core's own, though it was stolen back, or its home is on this module. -/
def State.readSet (s : State) (e : Task) (ent : TaskEnt) : Except (Byte × W64) State :=
  if !e.stolen || e.home == s.core.lcn.toNat then .ok s else
  let s := s.setCore (·.setAside (ent.reads ++ ent.writes))
  if s.moduleOf s.core.queue e.home = Config.pkgX then .ok (s.pullRanges s.core.queue e.home ent.reads)
  else s.pullReads e.home (rangeWords ent.reads)

/-- Take entry e, the youngest (R176). A refused copy leaves it where it is, and the TKPOP traps. -/
def State.takeTask (s : State) (d : BitVec 4) (e : Task) (empty : Bool) : State :=
  let ent := (s.taskEnt e.index).getD ⟨0, 0, [], []⟩
  match s.readSet e ent with
  | .error f => if isAsk f then (s.engAsk 3 f.2).wait else (s.setCore (·.edrop 3)).trap 0x04#8 f.2
  | .ok s =>
    let upd (c : Core) : Core :=
      { ((c.edrop 3).popCount empty).setStream (w64 ent.id) with srbase := 0, task := some e, deque := c.deque.dropLast }
    (s.setCore upd).finishAll [(d ++ 0#1, ent.entry), (d ++ 1#1, e.arg)]

/-- R176: TKPOP; d is even, of which the word carries the four high bits. -/
def execTkpop (d : BitVec 4) (s : State) : Out := .next <|
  s.operands false [] [d ++ 0#1, d ++ 1#1] fun _ _ s =>
    s.taskDone fun s =>
      let c := s.core
      let lvl := c.steallvl.toNat % 8
      match c.deque.getLast? with
      | some e => s.takeTask d e c.probe.isSome
      | none =>
        let k := c.kpops
        let t := match c.probe with | some p => if p.answered then p.t + 1 else p.t | none => 0
        let pending := match c.probe with | some p => p.victim.isSome && !p.answered | none => false
        let v := if 1 ≤ lvl ∧ lvl ≤ 5 ∧ t < bf c.stealtry 0 8 then s.victim k t else none
        if pending then s.wait else
        match v with
        | some l => (s.setCore fun c => { c with probe := some ⟨k, t, some l, false⟩ }).wait
        | none => (s.setCore (·.popCount true)).finishAll [(d ++ 0#1, 0), (d ++ 1#1, 0)]

/-- The core reaches done (R392): an open shadow ends first, with L's trap when it has one; then the core stops, and a leader's followers leave
it (R172). -/
def State.reachDone (s : State) : State :=
  let s := match s.core.shadow with
    | some sh => s.endShadow sh.len
    | none => s
  if s.core.st = .trapped then s else s.unbindAll.gangDissolve.retire.setCore fun c => { c with st := .done }

/-- R177, R392. -/
def execTkdone (s : State) : Out := .next <|
  if s.core.task.isSome then s.taskDone State.retire
  else if s.core.deque ≠ [] then s.retire
  else
    match s.core.engineTrap with
    | some t => s.trapT t
    | none =>
      match s.fenceWait 2#2 true with
      | .trap t s => s.trapT t
      | .wait s => s.wait
      | .ok s => s.reachDone

/-! ### Gangs -/

/-- R171: GANG is refused. -/
def State.gangRefused (s : State) (n : Nat) : Bool :=
  let c := s.core
  let folded := match s.launchOf c with | some l => decide (1 < l.fold) | none => false
  let leader := s.peers.find? fun p => pcStable p.pcid == pcStable c.pcid && pcPkg p.pcid == pcPkg c.pcid && p.pcid % 4 == n
    && p.queue == c.queue && (p.st == .running || p.st == .waiting)
  n == c.pcid % 4 || folded || gangRole c.gangst == 1 || (match leader with | some p => gangRole p.gangst == 2 | none => true)

/-- R171: GANG. -/
def execGang (a : BitVec 5) (s : State) : Out := .next <|
  s.operands false [a] [] fun vs _ s =>
    let n := bf (vs.getD 0 0) 0 2
    if s.gangRefused n then
      (s.setCore fun c => { c with gangst := (c.gangst &&& ~~~(at64 7 1)) ||| at64 7 1 }).retire
    else
      let s := s.gangLeave (bf s.core.gangst 1 3)
      let me := s.core.pcid % 4
      let upd (p : Core) : Core :=
        if pcStable p.pcid == pcStable s.core.pcid && p.queue == s.core.queue && p.pcid % 4 == n then
          { p with gangst := (p.gangst ||| at64 1 (8 + me)) &&& ~~~(at64 3 4) ||| at64 1 4 }
        else p
      let s := { s with peers := s.peers.map upd }
      (s.setCore fun c => { c with gangst := (c.gangst &&& at64 7 1) ||| at64 2 4 ||| at64 n 6, fwd := [] }).retire.setCore
        fun c => { c with gangWait := some 0 }

/-- R171: UNGANG. -/
def execUngang (s : State) : Out := .next (((s.gangLeave 5).gangDissolve).retire)

end Sys2Proof.Machine
end

