-- ==== Sys2Proof/Machine/Xfab.lean ====
section
/-!
DEFINITION. The irregular exchange (R353 to R367): DPOST, XCHG, CALQ, the demand units, the Clearing House at work, circuits, residue and
the completion of an exchange.
-/
namespace Sys2Proof.Machine

/-! ### DPOST (R355) -/

def execDpost (a b : BitVec 5) (l : BitVec 4) (s : State) : Out := .next <|
  s.operandsL l false [a, b] [] fun vs s0 s =>
    let x := vs.getD 0 0
    let c := s.core
    if bf x 26 38 ≠ 0 ∨ c.ncores.toNat ≤ bf x 0 26 then s0.trapL l 0x12#8 (xchTval 4 0) else
    match c.dack with
    | none =>
      let e := (c.queue, c.lcn.toNat, s.moduleOf c.queue (bf x 0 26), (vs.getD 1 0).toNat)
      ((s0.setDie (pcDie c.pcid) fun t => { t with demq := t.demq ++ [e] }).setCore fun c => { c with dack := some false }).waitL l
    | some false => s0.waitL l
    | some true => (s.setCore fun c => { c with dack := none }).landL l []

/-- A core's declared bytes (R355): nothing for its own module. -/
def Core.declare (c : Core) (m bytes : Nat) : Core :=
  { c with dack := some true,
           xch := if m = Config.pkgX then c.xch else { c.xch with demand := tmod 0 m (fun n => satBytes (n + bytes)) c.xch.demand } }

/-- The demand unit of a die serves its oldest DPOST and acknowledges it. -/
def State.demandServe (s : State) (d : Nat) : State :=
  match (s.die d).demq with
  | [] => s
  | (q, l, m, n) :: r => (s.setDie d fun t => { t with demq := r }).asCore q l fun s => s.setCore (·.declare m n)

def execDpostServe (die : Nat) (s : State) : Out := .next (s.demandServe die)

/-! ### XCHG (R363, R364) -/

/-- A parcel as the list at an offset of the core's own memory has it, and whether it keeps R363, with both ranges below the declared minimum (R27). -/
def Core.parcelAt (c : Core) (o : Nat) : Parcel × Bool :=
  let w (j : Nat) : W64 := c.dwAt (o + 8 * j)
  let p : Parcel := ⟨bf (w 0) 0 18, bf (w 1) 0 26, bf (w 1) 26 18, bf (w 2) 0 19, false, false, false⟩
  (p, bf (w 0) 18 46 == 0 && bf (w 1) 44 20 == 0 && bf (w 2) 19 45 == 0 && w 3 == 0 && p.soff % 8 == 0 && p.doff % 8 == 0 && p.len % 8 == 0
    && decide (8 ≤ p.len) && decide (p.len ≤ 262144) && decide (p.dlcn < c.ncores.toNat) && decide (p.soff + p.len ≤ c.lmin) && decide (p.doff + p.len ≤ c.lmin))

/-- The list of an XCHG as it stands. -/
def Core.parcelList (c : Core) (o n : Nat) : List (Parcel × Bool) := (upTo n).map fun i => c.parcelAt (o + 32 * i)

/-- Offset of the list, when s[a] and s[b] keep R354. -/
def Core.listAt (c : Core) (x y : W64) : Option Nat :=
  match c.localOf x.toNat with
  | some (l, o) =>
    if l = c.lcn.toNat ∧ x.toNat % 8 = 0 ∧ bf y 17 47 = 0 ∧ bf y 0 16 ≤ 4096 ∧ o + 32 * bf y 0 16 ≤ c.lmin then some o else none
  | none => none

/-- The COPYPERM of a destination core refuses a write there (R254, R363); the value of one on another module is free (log entry 11). -/
def State.refuses (s : State) (p : Parcel) : Bool := !s.permRange s.tick p.dlcn p.doff p.len

/-- A parcel of the current core moves, when both its ends lie on this module (R364); none when a word of it cannot be corrected (R401). -/
def State.moveParcel (s : State) (p : Parcel) : Option State :=
  let q := s.core.queue
  let src : Home := .loc q s.core.lcn.toNat p.soff
  let (ok, s) := s.consume src p.len
  if ok then some ((s.homePut (.loc q p.dlcn p.doff) (s.homeRead src p.len)).homeFills q p.dlcn p.doff p.len) else none

/-- A core that a parcel failed to or from (R366). -/
def State.failAt (s : State) (q l : Nat) : State :=
  s.mapCores fun c => if c.queue == q && c.lcn.toNat == l then { c with xch := { c.xch with fail := true } } else c

/-- The parcels of the current core at its arrival: a broken one fails, one within the module moves or is refused, one to another module
stays for the circuits. -/
def State.arriveParcels (s : State) : List (Parcel × Bool) → State
  | [] => s
  | (p, ok) :: r =>
    let q := s.core.queue
    let add (s : State) (p : Parcel) : State := s.setCore fun c => { c with xch := { c.xch with parcels := c.xch.parcels ++ [p] } }
    let here := s.moduleOf q p.dlcn == Config.pkgX
    let s :=
      if !ok then add (s.failAt q s.core.lcn.toNat) { p with failed := true }
      else if s.refuses p then add ((s.failAt q s.core.lcn.toNat).failAt q p.dlcn) { p with failed := true }
      else if here then
        (match s.moveParcel p with
         | some s => add s { p with moved := true }
         | none => add ((s.failAt q s.core.lcn.toNat).failAt q p.dlcn) { p with failed := true })
      else add s p
    State.arriveParcels s r

/-- CYC of this module's ready record for exchange k, when every core of it has arrived there (R356). -/
def State.readyCyc (s : State) (q k : Nat) : Option Nat :=
  let ms := s.members q
  if ms ≠ [] ∧ ms.all (fun c => c.xch.done == k && c.xch.arrived.isSome) then
    some (ms.foldl (fun a c => Max.max a (match c.xch.arrived with | some t => t.toNat | none => 0)) 0)
  else none

/-- The arrival at exchange k (R364); when it is the module's last, the ready record goes to both arbiters (R356). -/
def State.arriveXchg (s : State) (o n : Nat) (rm : Bool) : State :=
  let q := s.core.queue
  let ps := s.core.parcelList o n
  let cyc := s.cyc
  let s := s.setCore fun c => { c with xch := { c.xch with arrived := some cyc, checked := false, rm := rm, parcels := [], result := none } }
  let s := s.arriveParcels ps
  if (s.readyCyc q s.core.xch.done).isSome then s.toArbiters q [w64 s.core.xch.done, cyc] else s

/-- XCHG completes with these writes (R364): its shadow ended at the arrival, so they land at once, and positions that SHDONE marks as done are passed
over (R121). -/
def State.landXchg (s : State) (l : BitVec 4) (ws : List Wr) : State :=
  if s.core.raw then s.landL l ws else
  let sh : Option Shadow := s.core.resume.bind fun r =>
    if r.len = 0 then none else some ⟨s.core.ipc, s.core.rptstNow, r.len, 0, r.done, 0, [], none, none, none, none, none⟩
  let later := s.core.lands ws
  ((s.setCore fun c => (c.pushAll ws).landAll later).retire).setCore fun c => { c with shadow := sh }

def execXchg (d a b : BitVec 5) (l : BitVec 4) (s : State) : Out := .next <|
  let c := s.core
  match c.xch.arrived with
  | some _ =>
    match c.xch.result with
    | none => s.wait
    | some r =>
      s.operandsL l false [a, b] [d] fun _ _ s =>
        let upd (c : Core) : Core :=
          { c with xch := { c.xch with arrived := none, result := none, parcels := [], rm := false, done := c.xch.done + 1 } }
        (s.acquire.setCore upd).landXchg l [.s d r]
  | none =>
    if !bit c.domph 32 then s.trapL l 0x13#8 5
    else if c.deque ≠ [] ∨ c.task.isSome then s.trapL l 0x13#8 (if c.task.isSome then 2 else 1)
    else
      s.operandsL l false [a, b] [d] fun vs s0 _ =>
        let x := vs.getD 0 0
        let y := vs.getD 1 0
        let c := s0.core
        if c.xch.closed.length ≤ c.xch.done then s0.trapL l 0x12#8 (xchTval 1 0) else
        match c.listAt x y with
        | none => s0.trapL l 0x12#8 (xchTval 2 0)
        | some o =>
          let bad := if c.xch.checked then none else (c.parcelList o (bf y 0 16)).findIdx? (!·.2)
          match bad with
          | some i => s0.trapL l 0x12#8 (xchTval 3 i)
          | none =>
            match c.engineTrap with
            | some t => s0.trapLT l t
            | none =>
              match s0.fenceWait 2#2 true with
              | .trap t s => s.trapLT l t
              | .wait s => (s.setCore fun c => { c with xch := { c.xch with checked := true } }).waitL l
              | .ok s => (s.arriveXchg o (bf y 0 16) (bit y 16)).wait

/-! ### CALQ (R367) -/

def execCalq (d a : BitVec 5) (l : BitVec 4) (s : State) : Out := .next <|
  s.operandsL l false [a] [d] fun vs _ s =>
    let x := vs.getD 0 0
    s.landL l [.s d (if s.core.xch.done = 0 then 0 else if x.toNat < 5 then s.core.xch.report.getD x.toNat 0 else BitVec.allOnes 64)]

/-! ### Calendars (R357, R360) -/

/-- Change queue q's launch. -/
def State.setLaunch (s : State) (q : Nat) (f : Launch → Launch) : State := s.setQueue q fun t => { t with launch := t.launch.map f }

/-- Send a calendar to every module of the launch. -/
def State.sendCalendar (s : State) (a : Launch) (ws : List W64) : State := a.packages.foldl (fun s p => s.sendControl p ws) s

/-- R357: an arbiter that holds every record of exchange k computes its calendar; the primary sends it at once (R360). -/
def State.computeCalendar (s : State) (q : Nat) (far : List DemandRec) (ready : List W64) : State :=
  match (s.queue q).launch with
  | none => s
  | some a =>
    let ps := a.packages
    let k := a.exch
    match s.readyCyc q k with
    | none => s
    | some t =>
      if ps.length ≤ 1 ∨ !(ps.take 2).contains Config.pkgX ∨ ready.length + 1 ≠ ps.length ∨ a.computed.any (·.1 == k) then s else
      let mine : List Pair := (ps.filter (· != Config.pkgX)).map fun b => ⟨Config.pkgX, b, s.slotsFor q k b⟩
      let them : List Pair := (far.filter fun r => ps.contains r.src && r.src != Config.pkgX && ps.contains r.dst).map fun r => ⟨r.src, r.dst, r.slots⟩
      let ws := calendarOf Config.MX Config.MY k (ready.foldl (fun a x => Max.max a x.toNat) t) (mine ++ them)
      let s := s.setLaunch q fun a => { a with computed := a.computed ++ [(k, ws)] }
      if ps.head? = some Config.pkgX then s.sendCalendar a ws else s

def execCalendarCompute (q : Nat) (far : List DemandRec) (ready : List W64) (s : State) : Out := .next (s.computeCalendar q far ready)

/-- R360: the standby sends its calendar at TR + 4,096, which is START − 4,096. -/
def execStandbyCalendarSend (q : Nat) (s : State) : Out := .next <|
  match (s.queue q).launch with
  | none => s
  | some a =>
    match a.computed.find? (·.1 == a.exch) with
    | some (_, ws) => if a.packages[1]? = some Config.pkgX ∧ calStart ws ≤ s.cyc.toNat + 4096 then s.sendCalendar a ws else s
    | none => s

/-! ### Streams (R365) -/

/-- The stream of this module for module b: source core, parcel, and where it begins in the stream. -/
def State.stream (s : State) (q b : Nat) : List (Core × Parcel × Nat) :=
  let ps := (s.members q).flatMap fun c => (c.xch.parcels.filter fun p => !p.failed && s.moduleOf q p.dlcn == b).map fun p => (c, p)
  (ps.foldl (fun (r : List (Core × Parcel × Nat) × Nat) x => (r.1 ++ [(x.1, x.2, r.2)], r.2 + x.2.len)) ([], 0)).1

/-- Bytes of the stream for module b. -/
def State.streamLen (s : State) (q b : Nat) : Nat := (s.stream q b).foldl (fun a x => a + x.2.1.len) 0

/-- Send the words of bytes lo to hi − 1 of the stream for module b, of the cores that `p` selects; a word that cannot be corrected is not sent (R401). -/
def State.sendStream (s : State) (q b lo hi : Nat) (p : Core → Bool) : State :=
  match (s.queue q).launch with
  | none => s
  | some a =>
    (s.stream q b).foldl (fun s x =>
      let (c, pa, o) := x
      match a.pcidOf pa.dlcn with
      | none => s
      | some pc =>
        if !p c then s else
        let i0 := (Max.max lo o - o) / 8
        let i1 := (Min.min hi (o + pa.len) - o) / 8
        (upTo (i1 - i0)).foldl (fun s j =>
          let k := 8 * (i0 + j)
          let (ok, s) := s.consume (.loc q c.lcn.toNat (pa.soff + k)) 8
          if !ok then s.failAt q c.lcn.toNat else
          let (t, s) := s.newTag
          let p : Place := .farLoc pc (s.module (pcPkg pc)).1.toNat (pa.doff + k)
          { s.emitFrom c.pcid (.copy t pc (pa.doff + k) (w64 (ofBytes (s.homeRead (.loc q c.lcn.toNat (pa.soff + k)) 8))) 0xFF) with
            reqs := s.reqs ++ [⟨t, q, c.lcn.toNat, .xchg, p, 8⟩] }) s) s

/-- Send the data of phase i (R365). -/
def State.sendPhase (s : State) (q i : Nat) (ws : List W64) : State :=
  (slotsOf ws Config.pkgX i).foldl (fun s x => s.sendStream q x.1 (262144 * x.2) (262144 * (x.2 + 1)) fun _ => true) s

/-! ### Taking a calendar and running its phases (R360, R362) -/

def State.setCal (s : State) (q : Nat) (f : Calendar → Calendar) : State :=
  s.setLaunch q fun a => { a with cal := a.cal.map fun c => (c.1, f c.2) }

/-- R360: the module takes the first calendar of exchange k, from the primary or the standby; its own arbiter's when it is that one, the standby's from the
CYC at which that sends it. From then on both may come in one cycle, of which a free value tells (erratum B0-3; log entry 36). The data of
phases already begun goes as ordinary flits (R362). -/
def State.takeCalendar (s : State) (q : Nat) (standby : Bool) (cal : List W64) : State :=
  match (s.queue q).launch with
  | none => s
  | some a =>
    let k := a.exch
    let sender := a.packages[if standby then 1 else 0]?
    let ws := if sender = some Config.pkgX then ((a.computed.find? (·.1 == k)).map (·.2)).getD [] else cal
    let late := decide (calStart ws ≤ s.cyc.toNat + 4096)
    if a.cal.isSome ∨ (s.readyCyc q k).isNone ∨ ws.length < 8 ∨ calNo ws ≠ k % 2 ^ 32 ∨ (standby ∧ sender = some Config.pkgX ∧ !late) then s else
    let begun := (upTo (calNph ws)).filter fun i => decide (calPhase ws i ≤ s.cyc.toNat)
    let s := s.setLaunch q fun a => { a with cal := some (k, ⟨ws, standby, !standby && late && bit (Config.freeBits s.tick k) 0, begun != [], [], [], begun, 0⟩) }
    begun.foldl (fun s i => s.sendPhase q i ws) s

def execCalendarTake (q : Nat) (standby : Bool) (cal : List W64) (s : State) : Out := .next (s.takeCalendar q standby cal)

/-- The calendar that queue q's launch has taken. -/
def State.calOf (s : State) (q : Nat) : Option Calendar := ((s.queue q).launch).bind fun a => a.cal.map (·.2)

/-- R362: at S_i the routers hold the ports of phase i, and its data flows. -/
def execCircuitPhaseStart (q i : Nat) (s : State) : Out := .next <|
  match s.calOf q with
  | none => s
  | some c =>
    if calNph c.words ≤ i ∨ c.sent.contains i ∨ s.cyc.toNat < calPhase c.words i then s else
    (s.setCal q fun c => { c with held := c.held ++ [i], sent := c.sent ++ [i] }).sendPhase q i c.words

/-- R362: at S_i + 2,096 the first router stops sending circuit flits; those that are left go as ordinary flits. -/
def execCircuitSendEnd (q i : Nat) (s : State) : Out := .next <|
  match s.calOf q with
  | none => s
  | some c =>
    if !c.held.contains i ∨ s.cyc.toNat < calPhase c.words i + 2096 then s else s.setCal q fun c => { c with shut := c.shut ++ [i] }

/-- R362: the held interval of phase i ends. -/
def execCircuitPhaseEnd (q i : Nat) (s : State) : Out := .next <|
  match s.calOf q with
  | none => s
  | some c =>
    if s.cyc.toNat + 16 < calPhase c.words i + calPlen c.words then s
    else s.setCal q fun c => { c with held := c.held.filter (· != i), shut := c.shut.filter (· != i) }

/-- R365: after the last phase, residue of cores with RM = 0 goes as ordinary flits. -/
def execResidueSend (q : Nat) (s : State) : Out := .next <|
  match (s.queue q).launch, s.calOf q with
  | some a, some c =>
    if a.residue ∨ s.cyc.toNat < calPhase c.words (calNph c.words) then s else
    let s := s.setLaunch q fun a => { a with residue := true }
    (a.packages.filter (· != Config.pkgX)).foldl (fun s b =>
      s.sendStream q b (262144 * granted c.words Config.pkgX b) (s.streamLen q b) fun c => !c.xch.rm) s
  | _, _ => s

/-! ### Completion (R364, R366, R367) -/

/-- Residue and idle bytes of this module (R365). -/
def State.resIdle (s : State) (q : Nat) (a : Launch) (ws : List W64) : Nat × Nat :=
  (a.packages.filter (· != Config.pkgX)).foldl (fun r b =>
    let g := 262144 * granted ws Config.pkgX b
    let n := s.streamLen q b
    (r.1 + (n - g), r.2 + (g - n))) (0, 0)

/-- Some of the core's parcels are residue. -/
def State.hasResidue (s : State) (q : Nat) (a : Launch) (ws : List W64) (l : Nat) : Bool :=
  (a.packages.filter (· != Config.pkgX)).any fun b =>
    (s.stream q b).any fun x => x.1.lcn.toNat == l && decide (262144 * granted ws Config.pkgX b < x.2.2 + x.2.1.len)

/-- Exchange k of queue q's launch is complete as far as this module knows: no module of the launch is down (R366), every core has arrived and, on more modules than one, every phase and
the residue have been sent and each word has been performed or has failed. -/
def State.exchangeDone (s : State) (q : Nat) (a : Launch) : Bool :=
  a.packages.all (fun p => !(s.module p).2) && (s.readyCyc q a.exch).isSome && (s.members q).all (·.xch.result.isNone) && !s.reqs.any (fun r => r.q == q && r.use == .xchg)
    && (decide (a.packages.length ≤ 1)
        || (match a.cal with
            | some (_, c) => a.residue && (upTo (calNph c.words)).all c.sent.contains
            | none => false))

/-- R364: the exchange completes; `far` lists the cores of this module from or to which a parcel of another module failed. -/
def State.completeExchange (s : State) (q : Nat) (far : List Nat) : State :=
  match (s.queue q).launch with
  | none => s
  | some a =>
    if !s.exchangeDone q a then s else
    let one : Calendar := ⟨[w64 (a.exch % 2 ^ 32 * 2 ^ 32), 0, 0, 0, 0, 0, 0, 0], false, false, false, [], [], [], 0⟩
    let c := match a.cal with | some (_, c) => c | none => one
    let ws := c.words
    let (res, idle) := s.resIdle q a ws
    let mine := ((calEntries ws).filter fun e => entSrc e == Config.pkgX).length
    let report : List W64 :=
      [w64 (calNo ws * 2 ^ 32 + calNph ws * 2 ^ 16 + Min.min mine 65535), w64 (calStart ws), w64 res, w64 idle,
       w64 (c.slipped * 2 ^ 32 + (calCut ws).toNat * 4 + c.late.toNat * 2 + c.fovr.toNat)]
    let status (k : Core) : W64 :=
      w64 (calNo ws * 2 ^ 32 + c.late.toNat * 16 + (c.fovr || c.both).toNat * 8 + (k.xch.fail || far.contains k.lcn.toNat).toNat * 4
        + (decide (0 < idle)).toNat * 2 + (s.hasResidue q a ws k.lcn.toNat).toNat)
    let upd (k : Core) : Core :=
      if k.queue == q && k.present then { k with xch := { k.xch with result := some (status k), report := report, fail := false } } else k
    (s.mapCores upd).setLaunch q fun a => { a with exch := a.exch + 1, cal := none, residue := false }

def execExchangeComplete (q : Nat) (far : List Nat) (s : State) : Out := .next (s.completeExchange q far)

end Sys2Proof.Machine
end

