-- ==== Sys2Proof/Machine/Save.lean ====
section
/-!
DEFINITION. Pre-emption and restoration (R383 to R386): the context record (R384), when a core may be saved (R123, R260, R324), the save
sequencer, and how RESUME and a restored core re-enter a shadow and a frame (R121, R169).
-/
namespace Sys2Proof.Machine

/-! ### The context record (R384) -/

/-- A deque entry (R174). -/
def Task.dws (t : Task) : List W64 := [w64 (t.index % 4096 + t.home % 2 ^ 26 * 2 ^ 12 + t.stolen.toNat * 2 ^ 38), t.arg]

/-- n doublewords of a list, zeros after its end. -/
def padTo (n : Nat) (ws : List W64) : List W64 := (ws ++ List.replicate n 0).take n

/-- SHDONE in a record: V = 1 only for an instruction that has still to run its own shadow again (R120, R123). -/
def Core.shdoneNow (c : Core) : W64 :=
  match c.resume.filter fun r => r.len != 0 || r.retry.isNone with
  | some r => shdoneOf r.len r.done
  | none => if c.st = .trapped then c.shdone else clrBit c.shdone 31

/-- RPTST in a record: the frame of the instruction at PC, or what the register holds (R168). -/
def Core.rptstKept (c : Core) : W64 :=
  match c.frame with
  | some f => f.rptst
  | none => c.rptst

/-- Control register n as the record holds it. -/
def State.crSaved (s : State) (n : Nat) : W64 :=
  if n = 0x1B then s.core.shdoneNow
  else if n = 0x1C then s.core.rptstKept
  else s.crRead n

/-- DW6 and DW7 of a copy FIFO entry: the units of its one destination that are written, or those of the first eight of several that are not done, 16 bits
each (log entry 97). -/
def CopyReq.progress (r : CopyReq) : List W64 :=
  match r.dests with
  | [d] => [w64 d.next, 0]
  | ds =>
    let ns := ((ds.filter fun d => !r.done d).take 8).map (·.next % 65536)
    let pack (l : List Nat) : W64 := w64 (l.zipIdx.foldl (fun a x => a + x.1 * 2 ^ (16 * x.2)) 0)
    [pack (ns.take 4), pack (ns.drop 4)]

/-- An entry of the copy FIFO: the request; sequence number, excused mark and which destinations are done; promise; progress (R384; log entry 97). -/
def CopyReq.saved (r : CopyReq) : List W64 :=
  let done := (r.dests.take 32).zipIdx.foldl (fun a x => a + (r.done x.1).toNat * 2 ^ (32 + x.2)) 0
  padTo 4 r.dws ++ [w64 (r.seq + r.excused.toNat * 2 ^ 16 + done), r.promise] ++ r.progress

/-- The record of the current core, as blocks of doublewords at offsets; the bytes that are left out are zero. -/
def State.recordDws (s : State) : List (Nat × List W64) :=
  let c := s.core
  let hdr := w64 (1 + (decide (c.st = .trapped)).toNat * 2 ^ 8 + c.arrival.isSome.toNat * 2 ^ 9 + c.xch.arrived.isSome.toNat * 2 ^ 10
    + c.lcn.toNat * 2 ^ 32)
  let preds := (upTo 8).foldl (fun a i => a + (if i ≠ 0 ∧ c.p.toList.getD i false then 2 ^ i else 0)) 0
  let reg (r : Nat) : W64 :=
    match c.port? (BitVec.ofNat 5 r) with
    | some n => (c.ports.get n).aside
    | none => c.s.toList.getD r 0
  let port (n : Fin 8) : W64 := let p := c.ports.get n; w64 (p.bound.toNat * 2 ^ 63 + p.idx % 2 ^ 48)
  let slot (o : Option Slot) : List W64 := match o with | some x => [x.hdr.getD 0 0, w64 x.base, x.hdr.getD 1 0, x.hdr.getD 2 0] | none => [0, 0, 0, 0]
  let young := c.deque.drop (c.deque.length - 2)
  let flt : List W64 := match c.cf.fault with | some (q, k, t) => [w64 (q * 256 + k.toNat), t] | none => [0, 0]
  [(0x0, [hdr, c.pc, s.cyc, w64 preds, w64 c.tseq]),
   (0x100, (upTo 32).map reg),
   (0x200, c.k.toList.flatMap fun (h : Handle) => [h.setWidth 64, (h >>> 64).setWidth 64]),
   (0x300, (upTo 64).map s.crSaved),
   (0x500, ((upTo 32).map fun i => tget 0 i c.desc) ++ (List.finRange 8).flatMap fun n => [port n, 0]),
   (0x680, c.slots.flatMap slot),
   (0x700, padTo 4 (young.flatMap Task.dws) ++ (match c.task with | some t => t.dws | none => [0, 0]) ++ [w64 c.kpops]),
   (0x800, padTo 64 (c.cf.reqs.flatMap CopyReq.saved) ++ [b64 c.cf.fault.isSome, c.cf.fl, w64 c.cf.next] ++ flt),
   (0xB00, [w64 c.mx.next, c.mx.rowprog, c.mx.mxflt, c.mx.mxfl, c.types] ++ padTo 16 (c.mx.queue.map (·.key)) ++ padTo 128 (c.mx.queue.flatMap (·.dws))),
   (0x1000, padTo 64 ((c.rx.filter (·.pen.isNone)).flatMap Msg.dws) ++ [w64 c.rx.length])]

/-- The record as bytes at offsets; local memory lies at 0x2_0000 (R384). -/
def State.record (s : State) : List Host.Cell :=
  let c := s.core
  let at' (o : Nat) (bs : List Byte) : List Host.Cell := (bs.zipIdx o).map fun x => (x.2, x.1)
  (s.recordDws.flatMap fun b => at' b.1 (bytesOf b.2))
    ++ at' 0x2000 ((upTo 4096).map c.feByte)
    ++ (c.tiles.flatMap fun t => at' (0x4000 + 4 * t.1) (toBytes 4 t.2.toNat))
    ++ c.lmem.map fun e => (0x20000 + e.1, e.2)

/-- Replace 128 KiB at a place by bytes at offsets. -/
def pageFill (m : Memory) (pa : Nat) (cs : List Host.Cell) : Memory := Memory.overlay (m.clear pa (pa + 0x20000)) pa cs

/-- Write page j of the current core's record through the yard TLB (R383); the address that cannot be written otherwise: it does not translate, or another
module that keeps it does not serve this one (R86, R87). A record on another module leaves as a write, and the entry in `peers` keeps what it holds (log
entry 17). -/
def State.savePage (s : State) (base j : Nat) (img : List Host.Cell) : Except Nat State :=
  let va := base + 0x20000 * j
  let cs := (img.filter fun e => decide (0x20000 * j ≤ e.1) && decide (e.1 < 0x20000 * (j + 1))).map fun e => (e.1 - 0x20000 * j, e.2)
  match (if winBase ≤ va then .error 1 else s.paged false .store va) with
  | .error _ => .error va
  | .ok (p, s) =>
    match p with
    | .mem a _ => .ok { s with mem := pageFill s.mem a cs }
    | .host a _ _ => .ok { s with hostMem := pageFill s.hostMem a cs }
    | p => if s.hubBad p 0 then .error va else .ok (s.hubPut p ((upTo 0x20000).map fun o => Memory.get (Memory.overlay [] 0 cs) o))

/-- Is the record of the current core kept in memory of this module or its host? -/
def State.recHere (s : State) : Bool :=
  let base := s.recBase s.core
  (upTo 3).all fun j =>
    match s.hubXlat (s.ctxOf s.core) .store (base + 0x20000 * j) with
    | .ok (.far _ _ _ _ _) => false
    | _ => true

/-! ### When a core may be saved -/

/-- A request of the core to its context's publisher is open: pre-emption waits for the result (R55). -/
def State.publishing (s : State) : Bool :=
  let c := s.core
  let x := s.ctx (s.ctxOf c)
  x.pubq.any (fun r => r.core == some (c.queue, c.lcn.toNat)) || x.pubres.any (fun r => r.q == c.queue && r.l == c.lcn.toNat)

/-- A request of the core has left for another module and has no answer; a posted store's answer goes to the record's FSTAT. -/
def State.asking (s : State) : Bool :=
  let c := s.core
  s.reqs.any fun r => r.q == c.queue && r.l == c.lcn.toNat && (match r.use with | .posted | .stream _ | .streamW _ => false | _ => true)

/-- Nothing of the core is in flight that the save has to wait for (R123, R260, R262, R217). -/
def State.saveable (s : State) : Bool :=
  let c := s.core
  c.modp.isNone && c.cq.isEmpty && c.far.isNone && c.dack != some false && c.wsret != some false && !s.publishing && !s.asking
    && (c.cf.pending.isEmpty || c.cf.fault.isSome) && !c.cfReady && (c.cf.reqs.filterMap CopyReq.toFlag).isEmpty && !c.strBusy

/-- Pass the positions at the PC that SHDONE marks as done. -/
def State.skipDone (s : State) : Nat → State
  | 0 => s
  | n + 1 =>
    match s.core.shadow with
    | some sh => if sh.skips then State.skipDone (s.skipPosition sh) n else s
    | none => s

/-- An L that has not passed its trap point is abandoned: the PC names it, and SHDONE its shadow (R123). -/
def Core.abandon (c : Core) (sh : Shadow) : Core :=
  { c with st := .waiting, pc := sh.pc, shadow := none, modp := none, latch := none, frame := none, resume := some ⟨sh.len, sh.done ||| sh.fin, none⟩ }

/-- What the save makes of an open shadow (R123): an L that waits is abandoned; one past its trap point completes. DONE bits ahead of the PC stay with the
entry in `peers`: the record has no place for them (log entry 81). -/
def State.saveShadow (s : State) : State :=
  let s := s.skipDone 16
  match s.core.shadow with
  | none => s
  | some sh =>
    if sh.retry.isSome then s.setCore (·.abandon sh) else
    let t := s.endShadow sh.len
    if sh.done >>> sh.pos = 0#15 ∨ t.core.st = .trapped then t else
    t.setCore fun c => { c with shadow := some { sh with writes := [], held := none, ovf := none, trap := none } }

/-- `why` of the trap for a save that could not be written (R383). -/
def saveWhy : Nat := 20

/-- The save fails: the core traps with source 0x08 and keeps its state (R383). -/
def State.saveFail (s : State) (va : Nat) : State :=
  let t : Trap := ⟨0x1F#8, w64 (8 + va * 256), saveWhy⟩
  if s.core.st = .trapped then s.trapAt s.core.epc s.core.shdone s.core.rptst t else s.trapAt s.core.ipc s.core.shdoneNow s.core.rptstNow t

/-- The answer that read port n awaits, if any, is dropped with its buffered elements and the fault held against one (R217). -/
def State.dropRead (s : State) (n : Fin 8) : State :=
  if s.core.strWrite n.val then s else
  let c := s.core
  ({ s with reqs := s.reqs.filter fun r => !(r.q == c.queue && r.l == c.lcn.toNat && r.use == .stream n.val) } : State).setCore
    (·.setPort n fun p => { p with fetched := [], held := none })

/-- The save sequencer on the current core (R383); nothing while it has to wait. -/
def State.saveCore (s0 : State) : State :=
  if s0.core.st ≠ .running ∧ s0.core.st ≠ .waiting ∧ s0.core.st ≠ .trapped then s0 else
  let s := s0.drainAll.strDrainPorts
  if !s.saveable then s else
  let s := (s.saveShadow.gangLeave 4).gangDissolve
  let img := s.record
  let base := s.recBase s.core
  match s.savePage base 0 img with
  | .error a => s.saveFail a
  | .ok s1 =>
    match s1.savePage base 1 img with
    | .error a => s.saveFail a
    | .ok s2 =>
      match s2.savePage base 2 img with
      | .error a => s.saveFail a
      | .ok s3 =>
        let here := s.recHere
        let upd (c : Core) : Core :=
          { c with st := .saved, lmem := if here then [] else c.lmem, utlb := [], l1 := [], latch := none, probe := none, erd := [],
                   mx := { c.mx with started := false, steps := 0 }, saveTrapped := decide (c.st = .trapped),
                   saveArrived := c.arrival.isSome || c.xch.arrived.isSome, xch := { c.xch with checked := false }, shdone := c.shdoneNow, rptst := c.rptstKept }
        ((List.finRange 8).foldl State.dropRead s3).setCore upd

/-- A saved core gives up the place of the current core: an idle one stands there (R383). -/
def State.park (s : State) : State :=
  if s.core.st = .saved then { s with core := Core.reset, peers := s.peers ++ [s.core] } else s

/-- A core takes the place of an idle current core; the image of a retained one is kept (R394). -/
def State.front (s : State) : State :=
  if s.core.present then s else
  match s.peers.findIdx? fun c => c.st != .idle && c.st != .saved with
  | some i =>
    if s.core.retained then s.swap i else
    match s.peers[i]? with
    | some c => { s with core := c, peers := s.peers.eraseIdx i }
    | none => s
  | none => s

/-- The core has arrived at an episode or exchange that is not complete (R76). -/
def Core.stuck (c : Core) : Bool :=
  (match c.arrival with | some a => a.result.isNone | none => false) || (c.xch.arrived.isSome && c.xch.result.isNone)

/-- The core of a folded launch that holds its slot waits where it has arrived: it is saved for the next one (R76). -/
def State.foldWaits (s : State) (c : Core) : Bool :=
  (s.queue c.queue).active && c.st == .waiting && c.stuck && (match s.launchOf c with | some a => decide (1 < a.fold) | none => false)

/-- A core is pre-empted in the cases of R383 alone: its queue has lost its slot (R62), or it waits on a folded launch where it has arrived (R76). -/
def State.mayPreempt (s : State) (c : Core) : Bool := ((s.launchOf c).isSome && !(s.queue c.queue).active) || s.foldWaits c

/-- Logical core l of queue q is saved, if it may be; the physical core of a folded launch remembers whom it held last (R76). -/
def State.preempt (s : State) (q l : Nat) : State :=
  match (s.members q).find? fun c => c.lcn.toNat == l with
  | none => s
  | some c =>
    if !s.mayPreempt c then s else
    let t := (s.asCore q l State.saveCore).park
    let gone := match (t.members q).find? fun c => c.lcn.toNat == l with | some d => d.st == .saved | none => false
    (if gone && s.foldWaits c then t.setLaunch q fun a => { a with last := tset c.pcid l a.last } else t).front

/-- R383. -/
def execPreemptionSave (q l : Nat) (s : State) : Out := .next (s.preempt q l)

/-! ### Re-entering an instruction (R121, R168, R169) -/

/-- The frame that RPTST describes, with its word at pc. -/
def frameOf (r pc : W64) : Option Frame :=
  if !bit r 63 then none else
  let len := if bf r 47 4 = 0 then 16 else bf r 47 4
  some ⟨pc - w64 (4 * bf r 37 4), len, BitVec.ofNat 6 (bf r 41 6), bf r 37 4, bf r 32 5, bf r 0 32⟩

/-- The shadow that SHDONE describes. -/
def resumeOf (x : W64) : Option Resume := if bit x 31 then some ⟨bf x 16 4, BitVec.ofNat 15 (bf x 0 15), none⟩ else none

/-- Run again from pc, under SHDONE and RPTST. -/
def Core.reenter (c : Core) (pc : W64) : Core :=
  { c with st := .running, pc := pc, obj := none, latch := none, shadow := none, modp := none, resume := resumeOf c.shdone, frame := frameOf c.rptst pc }

/-! ### Restoration (R386) -/

/-- Control register n as the record gives it back: its fields, for reserved bits read zero (R4); the deque stays, and SHDONE and RPTST are read by
`reenter`. -/
def Core.crBack (c : Core) (n : Nat) (v : W64) : Core :=
  match n with
  | 0x08 => { c with domph := v &&& at64 (2 ^ 36 - 1) 0 } | 0x09 => { c with jobseed := v }
  | 0x0B => { c with gangst := v &&& at64 7 1 }
  | 0x18 => { c with cause := v &&& 0xFF } | 0x19 => { c with tval := v } | 0x1A => { c with epc := v }
  | 0x24 => { c with tkbase := v &&& crMask 0x24 } | 0x25 => { c with tksize := v &&& crMask 0x25 }
  | _ => c.crPut n (v &&& crMask n)

/-- The destinations of a copy FIFO entry as its record has them (log entry 97). -/
def CopyReq.destsBack (r : CopyReq) (w : List W64) : List Dest :=
  let isDone (j : Nat) (d : Dest) : Bool := if j < 32 then bit (w.getD 4 0) (32 + j) else r.done d
  let before (j : Nat) : Nat := ((r.dests.zipIdx.take j).filter fun x => !isDone x.2 x.1).length
  r.dests.zipIdx.map fun x =>
    if isDone x.2 x.1 then { x.1 with next := Max.max x.1.next (r.unitsOf x.1) }
    else if r.dests.length = 1 then { x.1 with next := (w.getD 6 0).toNat }
    else if before x.2 < 8 then { x.1 with next := x.1.next / 65536 * 65536 + bf (w.getD (6 + before x.2 / 4) 0) (16 * (before x.2 % 4)) 16 }
    else x.1

/-- The copy FIFO of a record (R260); what the record does not hold of a request stays with the entry. -/
def Cf.fromRecord (f : Cf) (rd : Nat → Nat → List W64) : Cf :=
  let t := rd 0xA00 5
  let req (r : CopyReq) (i : Nat) : CopyReq :=
    let w := rd (0x800 + 64 * i) 8
    { r with dws := w.take r.dws.length, seq := bf (w.getD 4 0) 0 16, promise := w.getD 5 0, excused := bit (w.getD 4 0) 16, dests := r.destsBack w }
  { f with reqs := f.reqs.zipIdx.map (fun x => if x.2 < 8 then req x.1 x.2 else x.1), fl := t.getD 1 0, next := bf (t.getD 2 0) 0 16,
           fault := if bit (t.getD 0 0) 0 then some (bf (t.getD 3 0) 8 16, (t.getD 3 0).setWidth 8, t.getD 4 0) else none }

/-- The matrix unit of a record (R324). -/
def Mx.fromRecord (m : Mx) (rd : Nat → Nat → List W64) : Mx :=
  let h := rd 0xB00 4
  let keys := rd 0xB28 16
  { m with next := bf (h.getD 0 0) 0 16, rowprog := h.getD 1 0, mxflt := h.getD 2 0, mxfl := h.getD 3 0,
           queue := m.queue.zipIdx.map fun x => { x.1 with key := keys.getD x.2 0, dws := rd (0xBA8 + 64 * x.2) 8 } }

/-- A deque entry of a record (R174), with the cores from whose deques it was stolen, which the record does not hold. -/
def Task.ofDws (t : Task) (w x : W64) : Task := { t with index := bf w 0 12, home := bf w 12 26, stolen := bit w 38, arg := x }

/-- The two youngest entries of the deque, and the current task, of a record; the ring holds the others in slots that are not architectural (R174). -/
def Core.tasksBack (c : Core) (ws : List W64) : Core :=
  let n := c.deque.length - 2
  let at' (t : Task) (i : Nat) : Task := t.ofDws (ws.getD (2 * i) 0) (ws.getD (2 * i + 1) 0)
  { c with deque := c.deque.take n ++ (c.deque.drop n).zipIdx.map (fun x => at' x.1 x.2), task := c.task.map (at' · 2) }

/-- A message of a record, in the pen layout (R348). -/
def Msg.ofDws (m : Msg) (ws : List W64) : Msg := { m with x := ws.getD 0 0, y := ws.getD 1 0, sender := bf (ws.getD 2 0) 0 26, tag := bf (ws.getD 2 0) 32 16 }

/-- The messages of a record: those of the receive queue from its area, those of the pen from the image of local memory (R348, R385). -/
def Core.msgsBack (c : Core) (rd : Nat → Nat → List W64) (pen : Nat → Nat → List W64) : Core :=
  let q := (c.rx.filter (·.pen.isNone)).zipIdx.map fun x => x.1.ofDws (rd (0x1000 + 32 * x.2) 4)
  let p := (c.rx.filter (·.pen.isSome)).map fun m => m.ofDws (pen (c.penbase.toNat + 32 * m.pen.getD 0) 4)
  { c with rx := q ++ p }

/-- The registers, control registers, descriptors, ports, slots, copy FIFO and matrix unit of page 0 of a record. -/
def Core.fromRecord (c : Core) (rd : Nat → Nat → List W64) : Core :=
  let ss := rd 0x100 32
  let ks := rd 0x200 32
  let cr := rd 0x300 64
  let ps := rd 0x600 16
  let sl := rd 0x680 16
  let hdr := rd 0 5
  let port (n : Fin 8) : Port := let w := ps.getD (2 * n.val) 0; ⟨bit w 63, ss.getD (24 + n.val) 0, bf w 0 48, [], (c.ports.get n).pushed, (c.ports.get n).held⟩
  let slot (i : Nat) : Option Slot :=
    let w (j : Nat) : W64 := sl.getD (4 * i + j) 0
    if w 0 = 0#64 then none else some ⟨bf (w 0) 0 16, bf (w 0) 16 16, (w 1).toNat, [w 0, w 2, w 3]⟩
  let c := ((upTo 64).foldl (fun c n => c.crBack n (cr.getD n 0)) c).tasksBack (rd 0x700 6)
  { c with
    pc := hdr.getD 1 0, tseq := bf (hdr.getD 4 0) 0 16,
    p := Vector.ofFn fun (i : Fin 8) => bit (hdr.getD 3 0) i.val,
    s := Vector.ofFn fun (i : Fin 32) => ss.getD i.val 0,
    k := Vector.ofFn fun (i : Fin 16) => ((ks.getD (2 * i.val + 1) 0).setWidth 128 <<< 64) ||| (ks.getD (2 * i.val) 0).setWidth 128,
    desc := (upTo 32).filterMap (fun i => let w := (rd 0x500 32).getD i 0; if w = 0#64 then none else some (i, w)),
    ports := Vector.ofFn port, slots := (upTo 4).map slot, kpops := ((rd 0x730 1).getD 0 0).toNat, cf := c.cf.fromRecord rd, mx := c.mx.fromRecord rd,
    types := (rd 0xB20 1).getD 0 0 }

/-- The bytes of page j of a record, as they are in memory now. -/
def State.recPage (s : State) (n base j : Nat) : Except Nat (List Host.Cell) :=
  match s.hubXlat n .load (base + 0x20000 * j) with
  | .error r => .error r
  | .ok p =>
    match p with
    | .mem a _ => .ok (Memory.slice s.mem a (a + 0x20000))
    | .host a _ _ => .ok (Memory.slice s.hostMem a (a + 0x20000))
    | _ => .error 8

/-- The core that a record gives, with what the entry d keeps; the entry as it stands when the record lies on another module. None when the record cannot be
read. -/
def State.restored (s : State) (d : Core) : Option Core :=
  let n := s.ctxOf d
  let base := s.recBase d
  match s.hubXlat n .load base with
  | .error _ => none
  | .ok (.far _ _ _ _ _) => some d
  | .ok _ =>
    match s.recPage n base 0, s.recPage n base 1, s.recPage n base 2 with
    | .ok p0, .ok p1, .ok p2 =>
      let rd (o k : Nat) : List W64 := (upTo k).map fun i => w64 (Memory.num p0 (o + 8 * i) 8)
      let c := d.fromRecord rd
      let tiles := (upTo 16384).filterMap fun i =>
        let w := BitVec.ofNat 32 (Memory.num p0 (0x4000 + 4 * i) 4)
        if w = 0#32 then none else some (i, w)
      let empt := (upTo 32768).filter fun w => !(Memory.get p0 (0x2000 + w / 8)).getLsbD (w % 8)
      let loc := p1 ++ p2.map fun e => (0x20000 + e.1, e.2)
      let pen (o k : Nat) : List W64 := (upTo k).map fun i => w64 (Memory.num loc (o + 8 * i) 8)
      some { c.msgsBack rd pen with tiles := tiles, empties := empt, lmem := loc }
    | _, _, _ => none

/-- A held answer in the header of a record (R385): its OP, 0 when there is none. -/
def State.heldAnswer (s : State) (c : Core) : Nat :=
  match s.hubDws (s.ctxOf c) (s.recBase c) 1 with
  | .ok (w :: _) => if bit w 11 then bf w 12 2 else 0
  | _ => 0

/-- Some core runs, waits or is trapped on physical core k, or is done there; one of a folded launch that is done leaves it to the others. -/
def State.busyCore (s : State) (k : Nat) : Bool :=
  let folded (c : Core) : Bool := match s.launchOf c with | some a => decide (1 < a.fold) | none => false
  s.allCores.any fun c => c.pcid == k && (c.st == .running || c.st == .waiting || c.st == .trapped || (c.st == .done && !folded c))

/-- The restored core on physical core k: waiting again where it had arrived, trapped again, or running from PC (R386). The owner of a race
array in another yard has lost it (R329). -/
def Core.wakeUp (c : Core) (k : Nat) : Core :=
  let c := { c with pcid := k, gangWait := none, fwd := [] }
  if c.saveTrapped then { c with st := .trapped, saveTrapped := false }
  else { c.reenter c.pc with st := if c.saveArrived then .waiting else .running, saveArrived := false, shadow := c.shadow }

/-- A race array that a restored core no longer reaches is released (R329). -/
def State.leaveRace (s : State) (c : Core) (k : Nat) : State :=
  let y := pcYard c.pcid
  match (s.yard y).race.owner with
  | some (q, l, _) =>
    if q = c.queue ∧ l = c.lcn.toNat ∧ pcYard k ≠ y then s.setYard y fun t => { t with race := { t.race with owner := none } } else s
  | none => s

/-- Bring logical core l of queue q back on physical core k (R386); `none` when it is not saved, k is taken, or its record cannot be read. -/
def State.restoreCore (s : State) (q l k : Nat) : Option State :=
  match s.find q l with
  | none => none
  | some i =>
    match s.peers[i]? with
    | none => none
    | some c =>
      if c.st ≠ .saved || s.busyCore k then none else
      match s.restored c with
      | none => none
      | some d =>
        let lost := match (s.yard (pcYard c.pcid)).race.owner with
          | some (a, b, _) => a == q && b == l && pcYard k != pcYard c.pcid
          | none => false
        some ((s.leaveRace c k).setPeer i fun _ => { d.wakeUp k with raceLost := d.raceLost || lost })

end Sys2Proof.Machine
end

