-- ==== Sys2Proof/Machine/HostCmd.lean ====
section
/-!
DEFINITION. The host's side of traps (R377 to R382): fault rings, RESUME, SKIP, KILL and ABT; invalidation (R205); reading back (R395, R396).
-/
namespace Sys2Proof.Machine

/-! ### Context blocks -/

/-- ST of BOOTST (R412). -/
def State.bootSt (s : State) : Nat := bf s.bootst 0 4

/-- An access to the notify region, which is open once the module runs (R411, R412). -/
def State.ifOpen (s : State) (f : State → State) : State := if s.bootSt = 1 then f s else s

/-- A host command was ignored (R378). -/
def State.cmdErr (s : State) (n : Nat) : State := s.setCtx n fun x => { x with cmderr := true }

/-- Raise an MSI-X vector of the function of context n (R60, R403). -/
def State.signalVec (s : State) (n : Nat) (vec : W64) : State := s.emit (.msix (s.ctx n).fn (bf vec 0 11))

/-! ### Fault queues and rings (R377 to R379) -/

/-- Slots of a context's fault ring. -/
def Ctx.ringLen (x : Ctx) : Nat := 2 ^ bf x.frbase 0 5

/-- The ring holds all but one of its slots (R378). -/
def Ctx.ringFull (x : Ctx) : Bool := (x.frtail + x.ringLen - x.frhead % x.ringLen) % x.ringLen + 1 == x.ringLen

/-- DW2 and DW7 of the record of a unit whose nearest core is physical core `near`: PCID, with the logical core there, its queue and the TAG of its launch
(R376); zeros where the unit has none. -/
def State.nearest (s : State) (near : Option Nat) : W64 × W64 :=
  match near with
  | none => (0, 0)
  | some p =>
    match (s.core :: s.peers).find? fun c => c.present && c.st != .saved && c.pcid == p with
    | some c => (w64 (p % 2 ^ 26 * 2 ^ 38 + c.lcn.toNat * 2 ^ 12 + c.queue), match s.launchOf c with | some l => w64 l.tag | none => 0)
    | none => (w64 (p % 2 ^ 26 * 2 ^ 38), 0)

/-- A record that no core sends (R376, R379): dropped and counted when the die's queue is full; the count wraps (erratum B0-6). -/
def State.nocore (s : State) (d n : Nat) (near : Option Nat) (tval : W64) : State :=
  let (who, tag) := s.nearest near
  let ws : List W64 := [w64 (n * 2 ^ 32 + 2 ^ 8 + 0x1F), 0, who, s.cyc, tval, 0, 0, tag]
  if (s.die d).room = 0 then s.setCtx n fun x => { x with mcdrop := (x.mcdrop + 1) % 65536 }
  else s.setDie d fun t => { t with faultq := t.faultq ++ [⟨n, true, ws⟩] }

/-- The context that a unit's record goes to: the lowest live one (log entry 18). -/
def State.unitCtx (s : State) : Nat := ((upTo 256).find? fun n => (s.ctx n).st == 2).getD 0

/-- Cores of die d whose record is still unsent send it when there is room (R379). -/
def State.sendUnsent (s : State) (d : Nat) : State :=
  let s := if pcDie s.core.pcid = d then s.sendRec else s
  (upTo s.peers.length).foldl (fun s i =>
    match s.peers[i]? with
    | some c => if c.unsent.isSome ∧ pcDie c.pcid = d then (s.swap i).sendRec.swap i else s
    | none => s) s

/-- R377, R379: the hub takes the oldest record of the next die with one, in rotation, when its context's ring has room. -/
def execFaultRecordDelivery (s : State) : Out := .next <|
  match ([1, 2, 3, 4, 5, 6, 7, 8].map fun i => (s.hubRot + i) % 8).find? fun d => (s.die d).faultq != [] with
  | none => s
  | some d =>
    match (s.die d).faultq with
    | [] => s
    | r :: rest =>
      let x := s.ctx r.ctx
      if x.ringFull then s else
      let a := (x.frbase &&& ~~~0xFFF#64).toNat + 64 * x.frtail
      let s : State := { s with hostMem := Memory.write s.hostMem a (bytesOf r.dws), hubRot := d }
      let s := (s.setDie d fun t => { t with faultq := rest }).setCtx r.ctx fun x => { x with frtail := (x.frtail + 1) % x.ringLen }
      (s.signalVec r.ctx x.frvec).sendUnsent d

/-- R378: FRHEAD frees the slots before it. -/
def execFrheadWrite (slot : Nat) (w : W64) (s : State) : Out := .next (s.ifOpen (·.setCtx slot fun x => { x with frhead := bf w 0 16 }))

/-! ### RESUME and SKIP (R380, R381) -/

def hcQueue (w : W64) : Nat := bf w 4 10
def hcLcn (w : W64) : Nat := bf w 32 26
def hcOp (w : W64) : Nat := bf w 0 2
def hcReserved (w : W64) : Bool := bf w 58 6 != 0 || bf w 14 2 != 0 || bit w 3

/-- QUEUE is a queue of the context with a running launch. -/
def State.hcBound (s : State) (n : Nat) (w : W64) : Bool :=
  (s.queue (hcQueue w)).ctx == n && (s.queue (hcQueue w)).launch.isSome

/-- The port whose held fault the trap reports. -/
def portWhy (why : Nat) : Option (Fin 8) := if h : 3 ≤ why ∧ why < 11 then some ⟨why - 3, by omega⟩ else none

/-- RESUME of the trapped current core. After BRK execution goes on behind it, and after CAUSE 0x09 EPC already names the next instruction. -/
def State.resumeCore (s : State) : State :=
  let c := s.core
  let c := if c.raised = 1 then c.cfResume else if c.raised = 2 then { c with mx := { c.mx with fault := none } } else c
  let c := match portWhy c.raised with | some n => c.setPort n fun p => { p with held := none } | none => c
  let brk := c.cause = 0x15#64 ∧ c.raised = 0
  let d := c.reenter (if brk then c.epc + 4#64 else c.epc)
  let d := if c.cause = 0x09#64 ∧ c.raised = 0 then { d with resume := none } else d
  let s : State := { s with core := { d with raised := 0 } }
  if c.raised = saveWhy then s.saveCore else s

/-- The handle that a cochain instruction names as its destination (R47). -/
def kdestOf (i : Instr) : Option KReg :=
  match i with
  | .vgete _ _ _ _ | .vmaxr _ _ _ _ | .vminr _ _ _ _ | .vsum _ _ _ _ | .vdot _ _ _ _ _ | .kst _ _ _ _ | .kget _ _ _ _ => none
  | i => let w := encode i; if 36 ≤ (fop w).toNat ∧ (fop w).toNat ≤ 40 then some (fkd w) else none

/-- The word that the current core's frame and PC name, staggered. -/
def State.wordHere (s : State) : Option W32 :=
  s.wordAt.map fun x => match s.core.frame with | some f => f.stagger x.1 | none => x.1

/-- TY of the destination handle of the instruction at the PC becomes 1 (R47); of a MOD pair, the target's. -/
def State.markTy (s : State) : State :=
  let isMod := match s.wordHere with | some w => (fop w).toNat == 62 | none => false
  match (if isMod then s.nextWord else s.wordHere) with
  | none => s
  | some w =>
    match decode w with
    | .error _ => s
    | .ok i =>
      match kdestOf i with
      | some k => s.wk k (setHf (s.rk k) 42 1 1)
      | none => s

/-- SKIP of the trapped current core (R381): its deferred work is dropped, TY is set on the destination handle of the instruction at EPC and, after CAUSE
0x09, on that of the instruction that raised it (R47, R104; log entry 78), and execution goes on behind the instruction, past the
positions of its shadow that are done (R121). -/
def State.skipCore (s : State) : State :=
  let c := s.core
  let s := if c.raised = 1 then s.cfSkip else if c.raised = 2 then s.setCore Core.mxSkip else s
  let s := match portWhy c.raised with
    | some n =>
      if s.core.strWrite n.val then s.setCore (·.setPort n fun p => { p with held := none, pushed := p.pushed.drop 1, idx := p.idx + 1 })
      else s.setCore (·.setPort n fun p => { p with held := none })
    | none => s
  let s := s.setCore fun c => { c.reenter c.epc with raised := 0 }
  let s := if c.raised = saveWhy then s else s.markTy
  let s := if c.cause = 0x09#64 ∧ c.raised = 0 ∧ !bit c.tval 4 then (let k := c.tval.setWidth 4; s.wk k (setHf (s.rk k) 42 1 1)) else s
  let isMod := match s.wordHere with | some w => (fop w).toNat == 62 | none => false
  let sh : Option Shadow := s.core.resume.map fun r => ⟨c.epc, c.rptst, r.len, 0, r.done, 0, [], none, none, none, none, none⟩
  let s := s.setCore fun c => (if isMod && c.frame.isNone then { c with pc := c.pc + 4#64 } else c).step4
  let s := s.setCore fun c => { c with resume := none, shadow := sh }
  match sh with
  | some h => if h.len = 0 then s.endShadow 0 else s
  | none => s

/-- An answer to a trap: to the core itself, or held in the record of a saved one (R385). -/
def State.answerTrap (s : State) (n : Nat) (w : W64) (f : State → State) : State :=
  let q := hcQueue w
  let l := hcLcn w
  if hcReserved w || bit w 2 || !s.hcBound n w then s.cmdErr n else
  match (s.members q).find? fun c => c.lcn.toNat == l with
  | none => s.cmdErr n
  | some c =>
    if bf w 16 16 ≠ c.tseq then s.cmdErr n
    else if c.st = .trapped then s.asCore q l f
    else if c.st = .saved ∧ c.saveTrapped then
      match s.hubDws n (s.recBase c) 1 with
      | .ok (h :: _) =>
        if bit h 11 then s.cmdErr n else s.savedPut c 0 [h ||| at64 1 11 ||| at64 (hcOp w) 12]
      | _ => s.cmdErr n
    else s.cmdErr n

def execHcmdResume (slot : Nat) (w : W64) (s : State) : Out := .next <|
  if hcOp w ≠ 1 then s else s.ifOpen fun s => (s.answerTrap slot w State.resumeCore).park.front

def execHcmdSkip (slot : Nat) (w : W64) (s : State) : Out := .next <|
  if hcOp w ≠ 2 then s else s.ifOpen (·.answerTrap slot w State.skipCore)

/-- R386: a saved core returns to physical core k, and a held answer takes effect; none when it cannot. -/
def State.bringBack (s : State) (q l k : Nat) : Option State :=
  match (s.find q l).bind fun i => s.peers[i]? with
  | none => none
  | some c =>
    let op := if c.saveTrapped then s.heldAnswer c else 0
    (s.restoreCore q l k).map fun s =>
      (if op = 1 then (s.asCore q l State.resumeCore).park else if op = 2 then s.asCore q l State.skipCore else s).front

/-! ### ABT (R380) -/

/-- The positions of the shadow of the instruction that waits (R116, R121). -/
def Core.waitShadow (c : Core) : W64 :=
  match c.resume, c.latch with
  | some r, _ => shdoneOf r.len r.done
  | none, some w => if isLong w ∧ w.toNat % 16 ≠ 0 then shdoneOf (w.toNat % 16) 0 else clrBit c.shdone 31
  | none, none => clrBit c.shdone 31

/-- The package that FSTAT names for a failed store (R238): the target module's, the own one for host memory. -/
def Place.pkg : Place → Nat
  | .far k _ _ h _ => if h then Config.pkgX else k
  | .farLoc pc _ _ => pcPkg pc
  | _ => Config.pkgX

/-- A request of the core that ABT ends is one of a load or an atomic, of a SEND or an SEV, or of a read-set copy of TKPOP (R380). -/
def State.waitsReply (s : State) : Bool :=
  let c := s.core
  s.reqs.any fun r => r.q == c.queue && r.l == c.lcn.toNat && (match r.use with
    | .load | .msg | .sev => (match c.far with | some f => f.tag == r.tag | none => false)
    | .engine 3 _ => c.st == .waiting
    | _ => false)

/-- The reply is given up: the instruction that waits for it traps, with its own shadow when that is open, or after the L in whose shadow it lies (R121,
R122). -/
def State.abortReply (s : State) : State :=
  let c := s.core
  let mine (r : Req) : Bool := r.q == c.queue && r.l == c.lcn.toNat && (match r.use with | .load | .msg | .sev => true | .engine 3 _ => true | _ => false)
  let t : Trap := ⟨0x1F#8, w64 (5 + c.pcid * 256), 0⟩
  let s : State := { s with reqs := s.reqs.filter (!mine ·), core := { c.edrop 3 with far := none } }
  match c.shadow with
  | none => s.trapAt c.ipc c.waitShadow c.rptstNow t
  | some sh => if sh.retry.isSome then (s.setCore fun c => { c with shadow := some { sh with retry := none, held := some t } }).endShadow sh.len else s.trapT t

/-- The word of the instruction that the core waits at: that of the L that waits with its shadow open, or the current one. -/
def Core.waitWord (c : Core) : Option W32 :=
  match c.shadow.bind (·.retry) with
  | some t => some t.word
  | none => if c.st = .waiting then c.latch else none

/-- The core waits on posted stores: at a FENCE, at the release of BAR, VOTE, PHASE, XCHG, SEND or SEV, or at TKDONE (R380). -/
def Core.waitsStores (c : Core) : Bool :=
  match c.waitWord.map decode with
  | some (.ok i) => (match i with | .fence _ _ _ | .bar _ | .vote _ _ _ _ | .phase _ | .xchg _ _ _ _ | .send _ _ _ | .sev _ _ | .tkdone => true | _ => false)
      && c.arrival.isNone && c.xch.arrived.isNone
  | _ => false

/-- The current core gives up a wait on the fabric; `none` when it is in no such wait. -/
def State.abortWait (s : State) : Option State :=
  let c := s.core
  if s.waitsReply then some s.abortReply else
  let lost := c.posted.filter fun e => !e.place.here
  if lost = [] ∨ !c.waitsStores then none else
  let s : State := { s with reqs := s.reqs.filter fun r => !lost.any (·.tag == r.tag) }
  some (s.setCore fun c => { c with posted := c.posted.filter (·.place.here), fstat := lost.foldl (fun f e => fstatFail f 4 e.place.pkg) c.fstat })

/-- ABT to the context in `slot`. -/
def State.abort (s : State) (slot : Nat) (w : W64) : State :=
  let q := hcQueue w
  let l := hcLcn w
  if hcReserved w || !s.hcBound slot w then s.cmdErr slot else
  if s.isCur q l then s.abortWait.getD (s.cmdErr slot) else
  match s.find q l with
  | none => s.cmdErr slot
  | some i =>
    match (s.swap i).abortWait with
    | some t => t.swap i
    | none => s.cmdErr slot

def execHcmdAbt (slot : Nat) (w : W64) (s : State) : Out := .next <|
  if hcOp w ≠ 0 ∨ !bit w 2 then s else s.ifOpen (·.abort slot w)

/-! ### Invalidation (R205) -/

/-- The entry is in the scope of a command of context n. -/
def tlbScope (n : Nat) (w : W64) (e : TlbE) : Bool :=
  match bf w 46 2 with
  | 0 => e.hit n (bf w 7 39 * 2 ^ 17)
  | 1 => e.ctx == n && !bit e.pte 6
  | 2 => bit e.pte 6
  | _ => true

/-- R205: the command joins the queue of its context. -/
def execTlbinv (slot : Nat) (w : W64) (s : State) : Out := .next <|
  s.ifOpen fun s => if bf w 0 7 ≠ 0 ∨ 16 ≤ (s.ctx slot).tlbq.length then s.cmdErr slot else s.setCtx slot fun x => { x with tlbq := x.tlbq ++ [w] }

/-- The walker's entry is in the scope of a command of context n; a level 2 entry may be a leaf. -/
def walkScope (n : Nat) (w : W64) (e : WalkE) : Bool :=
  let g := bit e.pte 2 && bit e.pte 6
  match bf w 46 2 with
  | 0 => (e.ctx == n || g) && e.key == walkKey e.level (bf w 7 39 * 2 ^ 17)
  | 1 => e.ctx == n && !g
  | 2 => g
  | _ => true

/-- Drop entries of the TLBs, and of the walkers, everywhere. -/
def State.dropTlb (s : State) (p : TlbE → Bool) (w : WalkE → Bool) : State :=
  let s := s.mapCores fun c => { c with utlb := c.utlb.filter (!p ·) }
  { s with yards := s.yards.map fun y => (y.1, { y.2 with tlb := y.2.tlb.filter (!p ·) }),
           dies := s.dies.map fun d => (d.1, { d.2 with walks := d.2.walks.filter (!w ·) }) }

/-- A core whose accesses a command of context n may concern: one of the context, or, for a command that drops global entries, any. -/
def State.inTlbinv (s : State) (n : Nat) (w : W64) (c : Core) : Bool := bf w 46 2 != 1 || s.ctxOf c == n

/-- Accesses of these cores that have been translated are performed, as far as this module performs them. -/
def State.settleFor (s : State) (p : Core → Bool) : State :=
  let s := if p s.core then s.drainAll.strDrainPorts else s
  (upTo s.peers.length).foldl (fun s i =>
    match s.peers[i]? with
    | some c => if p c ∧ c.st ≠ .saved ∧ c.st ≠ .idle then (s.swap i).drainAll.strDrainPorts.swap i else s
    | none => s) s

/-- R205: the oldest command of the context is done once the entries are dropped and what they had translated has completed, here and on the other modules
of the context (log entry 82). -/
def execTlbinvDone (slot : Nat) (s : State) : Out := .next <|
  match (s.ctx slot).tlbq with
  | [] => s
  | w :: r =>
    let s := (s.settleFor (s.inTlbinv slot w)).dropTlb (tlbScope slot w) (walkScope slot w)
    if (s.reqs.any fun q => bf w 46 2 != 1 || (s.queue q.q).ctx == slot) || s.allCores.any (fun c => s.inTlbinv slot w c && c.posted != []) then s
    else s.setCtx slot fun x => { x with tlbq := r, tlbdone := bf w 48 16 }

/-! ### Reading back (R395, R396) -/

/-- Write an image to host memory, in place of what was there; none when the write fails, which the spec lets happen and gives no condition for (R395,
R408): a free value says so (log entry 98). -/
def State.putImage (s : State) (a len : Nat) (cs : List Host.Cell) : Option State :=
  if Config.hostFails s.tick then none else some { s with hostMem := Memory.overlay (Memory.clear s.hostMem a (a + len)) a cs }

/-- RBSTAT after a request. -/
def State.rbDone (s : State) (n : Nat) (w : W64) (st : Nat) : State := s.setCtx n fun x => { x with rbstat := w64 (bf w 16 16 * 2 ^ 16 + st) }

/-- The core that a request names, running, saved, done or retained; none when the context has no such core. -/
def State.rbTarget (s : State) (n : Nat) (w : W64) : Option Core :=
  if (s.queue (bf w 2 10)).ctx ≠ n then none else
  s.allCores.find? fun c => c.queue == bf w 2 10 && c.lcn.toNat == bf w 32 26 && (c.st != .idle || c.retained)

/-- Change nothing but read the state with core c as the current one. -/
def State.asIf (s : State) (c : Core) : State := { s with core := c }

/-- Write an image at RBADDR and end the request: 0 written, 3 the host write failed (R395). -/
def State.rbWrite (s : State) (slot : Nat) (w : W64) (len : Nat) (img : List Host.Cell) : State :=
  match s.putImage (s.ctx slot).rbaddr.toNat len img with
  | some s => s.rbDone slot w 0
  | none => s.rbDone slot w 3

/-- Page j of the record of saved core c, whose record begins at base. What another module keeps is rebuilt from the core's entry (log entry 17); none for a
page that does not translate. -/
def State.recCopy (s : State) (slot : Nat) (c : Core) (base j : Nat) : Option (List Host.Cell) :=
  match s.hubXlat slot .load (base + 0x20000 * j) with
  | .error _ => none
  | .ok (.far _ _ _ _ _) =>
    let img := (s.asIf { c with st := if c.saveTrapped then .trapped else .waiting }).record
    some (img.filter fun e => decide (0x20000 * j ≤ e.1) && decide (e.1 < 0x20000 * (j + 1)))
  | .ok _ => (match s.recPage slot base j with | .ok m => some (m.map fun e => (0x20000 * j + e.1, e.2)) | .error _ => none)

/-- The image of a stopped core, or a copy of the record of a saved one; none when its record cannot be read (log entry 99). -/
def State.coreImage (s : State) (slot : Nat) (c : Core) : Option (List Host.Cell) :=
  if c.st ≠ .saved then some (s.asIf c).record else
  let base := s.recBase c
  match s.recCopy slot c base 0, s.recCopy slot c base 1, s.recCopy slot c base 2 with
  | some a, some b, some d => some (a ++ b ++ d)
  | _, _, _ => none

/-- R396, kind 0: the image of a stopped core, or of its record. -/
def execReadbackCoreImage (slot : Nat) (w : W64) (s : State) : Out := .next <|
  if bf w 0 2 ≠ 0 then s else s.ifOpen fun s =>
  match s.rbTarget slot w with
  | none => s.rbDone slot w 2
  | some c =>
    if c.st = .running ∨ c.st = .waiting then s.rbDone slot w 1 else
    match s.coreImage slot c with
    | some img => s.rbWrite slot w 0x60000 img
    | none => s.rbDone slot w 2

/-- A node as its record in memory (R327). -/
def Node.bytes (d : Node) : List Byte :=
  toBytes 8 (d.kind + d.ins.length * 4) ++ ((d.ins.flatMap fun (i : Nat × Nat) => toBytes 4 (i.1 % 4096 + i.2 % 256 * 4096)) ++ List.replicate 32 0).take 32

/-- A race array's image (R396): 4,096 node records of 40 bytes, then the seeds, then the captures. -/
def Race.image (r : Race) : List Host.Cell :=
  let at' (o : Nat) (bs : List Byte) : List Host.Cell := (bs.zipIdx o).map fun x => (x.2, x.1)
  (r.nodes.flatMap fun n => at' (40 * n.1) n.2.bytes)
    ++ at' 0x28000 ((upTo 4096).flatMap fun i => toBytes 2 (tget never i r.seeds))
    ++ at' 0x2A000 ((upTo 4096).flatMap fun i => toBytes 2 (tget never i r.capts))

/-- A word of the race array's instructions (R331). -/
def isTra (w : W32) : Bool :=
  match decode w with
  | .ok (.tracq _ _) | .ok (.trrel _) | .ok (.trload _ _ _) | .ok (.trset _ _ _) | .ok (.trgo _ _) | .ok (.trget _ _ _) | .ok (.trrst _) => true
  | _ => false

/-- A TRA instruction of core c is in flight: c waits at it, or its shadow is open. -/
def State.traFlight (s : State) (c : Core) : Bool :=
  (match c.waitWord with | some w => isTra w | none => false)
    || (match c.shadow with
        | some sh => (match (s.asIf { c with pc := sh.pc, obj := none }).wordAt with | some (w, _) => isTra w | none => false)
        | none => false)

/-- The owner of a race array has such an instruction in flight. -/
def State.raceBusy (s : State) (r : Race) : Bool :=
  match r.owner with
  | some (q, l, _) => (match s.coreAt q l with | some c => s.traFlight c | none => false)
  | none => false

/-- R396, kind 1. -/
def execReadbackRaceArray (slot : Nat) (w : W64) (s : State) : Out := .next <|
  if bf w 0 2 ≠ 1 then s else s.ifOpen fun s =>
  match s.rbTarget slot w with
  | none => s.rbDone slot w 2
  | some c =>
    let r := (s.yard (pcYard c.pcid)).race
    if s.raceBusy r then s.rbDone slot w 1 else s.rbWrite slot w 0x2C000 r.image

/-- R396, kind 2: every live slot of the yard's teller is written to its home and freed. -/
def execReadbackTellerFlush (slot : Nat) (w : W64) (s : State) : Out := .next <|
  if bf w 0 2 ≠ 2 then s else s.ifOpen fun s =>
  match s.rbTarget slot w with
  | none => s.rbDone slot w 2
  | some c => (s.flushSlots (pcYard c.pcid) fun _ => true).rbDone slot w 0

end Sys2Proof.Machine
end

