-- ==== Sys2Proof/Machine/Hub.lean ====
section
/-!
DEFINITION. Contexts (R60), user queues and the queue mapper (R61, R62), records and completions (R63, R64), the publisher (R59).
-/
namespace Sys2Proof.Machine

/-! ### Contexts (R60) -/

/-- The partition of a context: first module, width and height (R60). -/
def Ctx.mx0 (x : Ctx) : Nat := bf x.part 0 6
def Ctx.my0 (x : Ctx) : Nat := bf x.part 8 6
def Ctx.mw (x : Ctx) : Nat := bf x.part 16 7
def Ctx.mh (x : Ctx) : Nat := bf x.part 24 7

/-- Module (mx, my) lies in the partition, which wraps around the system torus. -/
def Ctx.holds (x : Ctx) (mx my : Nat) : Bool :=
  decide (ringPos Config.MX x.mx0 mx < x.mw) && decide (ringPos Config.MY x.my0 my < x.mh)

/-- The hub's checks at creation (R60). HEAPSIZE is bounded by the address space alone (log entry 87). -/
def State.ctxOk (s : State) (n : Nat) : Bool :=
  let x := s.ctx n
  s.populated (x.ptroot.toNat / 2 ^ 17) && x.ptroot.toNat % 2 ^ 17 == 0
    && x.heapbase != 0 && decide (x.heapbase.toNat + x.heapsize.toNat ≤ winBase) && x.heapsize != 0
    && decide (1 ≤ x.mw) && decide (x.mw ≤ Config.MX) && decide (1 ≤ x.mh) && decide (x.mh ≤ Config.MY)
    && decide (x.mx0 < Config.MX) && decide (x.my0 < Config.MY) && x.holds (Config.pkgX % 64) (Config.pkgX / 64)
    && decide (6 ≤ bf x.frbase 0 5) && decide (bf x.frbase 0 5 ≤ 16)

/-- CMD = 1 through host link `link`. -/
def State.createCtx (s : State) (n link : Nat) : State :=
  if (s.ctx n).st ≠ 0 ∨ !s.ctxOk n then s.cmdErr n else
  s.setCtx n fun x => { x with st := 2, fn := link, objs := [], heapUsed := 0, images := [], pubq := [], pubres := [] }

/-- Release the residency slots that the context's cores hold, and its race arrays. -/
def State.releaseCtx (s : State) (n : Nat) : State :=
  let s := s.mapCores fun c => if (s.queue c.queue).ctx = n then { c with slots := [none, none, none, none] } else c
  { s with yards := s.yards.map fun y => if y.2.race.prev = some n then (y.1, { y.2 with race := Race.reset }) else y,
           stables := s.stables.map fun t => (t.1, { t.2 with lines := t.2.lines.filter fun l => l.1.1 != n }) }

/-- CMD = 2. -/
def State.destroyCtx (s : State) (n : Nat) : State :=
  let mine := s.queues.filter fun q => q.2.ctx == n
  if (s.ctx n).st ≠ 2 ∨ mine.any (fun q => bit q.2.ctl 0 || q.2.active) then s.cmdErr n else
  ((s.dropTlb (·.ctx == n) (·.ctx == n)).releaseCtx n).setCtx n fun x =>
    { x with st := 0, objs := [], heapUsed := 0, images := [], pubq := [], pubres := [] }

def execContextDestroy (slot : Nat) (s : State) : Out := .next (s.ifOpen (·.destroyCtx slot))

/-! ### The mapper (R61, R62) -/

/-- Records in the ring of a queue; LOG2N is used as it stands (R61; log entry 88). -/
def Queue.len (u : Queue) : Nat := 2 ^ u.log2n.toNat
def Queue.empty (u : Queue) : Bool := u.qhead % u.len == u.qtail % u.len

/-- R62: the queue could be given a slot. -/
def State.eligible (s : State) (u : Queue) : Bool := bit u.ctl 0 && !u.empty && !u.err && (s.ctx u.ctx).st == 2

/-- The eligible queue without a slot that comes first: the lowest PRIO, then round-robin. -/
def State.nextQueue (s : State) : Option Nat :=
  let ws := s.queues.filter fun q => s.eligible q.2 && !q.2.active
  let key (q : Nat × Queue) : Nat := q.2.prio * 1024 + (q.1 + 1023 - s.mapRr.getD q.2.prio 0) % 1024
  (ws.foldl (fun b q => match b with | some d => if key q < key d then some q else b | none => some q) none).map (·.1)

/-- Give queue q a slot. -/
def State.give (s : State) (q : Nat) : State :=
  let s : State := { s with mapRr := s.mapRr.set (s.queue q).prio q }
  let t := s.cyc
  s.setQueue q fun u => { u with active := true, since := t }

/-- Slots in use. -/
def State.slotsUsed (s : State) : Nat := (s.queues.filter fun q => q.2.active).length

/-- Rule 1: free slots go to eligible queues; n bounds how many. -/
def State.grant (s : State) : Nat → State
  | 0 => s
  | n + 1 =>
    if 32 ≤ s.slotsUsed then s else
    match s.nextQueue with
    | some q => State.grant (s.give q) n
    | none => s

/-- R60: a context is created, and the queues that wait for it may be eligible now (R62). -/
def execContextCreate (slot link : Nat) (s : State) : Out := .next (s.ifOpen fun s => (s.createCtx slot link).grant 32)

/-- The queue runs a record: a launch, or a request that waits at its context's publisher. -/
def State.runsRecord (s : State) (q : Nat) : Bool :=
  (s.queue q).launch.isSome || (s.ctx (s.queue q).ctx).pubq.any (·.queue == some q)

/-- A queue that is empty or disabled gives up its slot when it runs no record (rule 4). -/
def State.yieldSlot (s : State) (q : Nat) : State :=
  let u := s.queue q
  if u.active ∧ !s.runsRecord q ∧ (u.empty ∨ !bit u.ctl 0) then
    ((s.setQueue q fun u => { u with active := false }).dropTlb (·.ctx == u.ctx) (·.ctx == u.ctx)).grant 32
  else s

/-- R61: QTAIL is the notification. -/
def execQueueNotify (q tail : Nat) (s : State) : Out := .next (s.ifOpen fun s => (s.setQueue q fun u => { u with qtail := tail % 65536 }).grant 32)

/-- R61: clearing ERR passes the invalid record. -/
def State.clearErr (s : State) (q : Nat) : State :=
  if (s.queue q).err then
    ((s.setQueue q fun u => { u with err := false, qhead := (u.qhead + 1) % u.len }).yieldSlot q).grant 32
  else s

def execQueueErrClear (q : Nat) (s : State) : Out := .next (s.ifOpen (·.clearErr q))

/-! ### Records (R63, R64) -/

/-- The record at QHEAD, when the queue holds a slot and has finished the record before; none where there is none to take. -/
def State.record? (s : State) (q : Nat) : Option (Except Nat (List W64)) :=
  let u := s.queue q
  if !u.active ∨ u.launch.isSome ∨ u.err ∨ u.empty then none else
  some (s.hubDws u.ctx ((u.qbase &&& ~~~0xFFF#64).toNat + 64 * (u.qhead % u.len)) 8)

/-- A valid record: a known OP, and zero in every reserved field. -/
def recOk (r : List W64) : Bool :=
  let d := r.getD 0 0
  decide (bf d 0 8 ≤ 2) && bf d 11 21 == 0 && !bit d 9 && r.getD 7 0 == 0

/-- The queue stops on an invalid record (R61, R63). -/
def State.badRecord (s : State) (q : Nat) : State := s.setQueue q fun u => { u with err := true }

/-- Write at an address of the context's paged space, where it can be written. -/
def State.hubTry (s : State) (n va : Nat) (w : W64) : State :=
  match s.hubWrite n va (toBytes 8 w.toNat) with
  | .ok s => s
  | .error _ => s

/-- The running record completes: DW0 and then TAG at CADDR (R64), QHEAD advances, and the queue's vector is signalled. CADDR is used as it stands (log entry
89). -/
def State.complete (s : State) (q : Nat) (tag : Nat) (caddr dw0 : W64) : State :=
  let u := s.queue q
  let s := (s.hubTry u.ctx caddr.toNat dw0).hubTry u.ctx (caddr.toNat + 8) (w64 tag)
  let s := s.setQueue q fun u => { u with qhead := (u.qhead + 1) % u.len, launch := none }
  let s := if bit u.ctl 4 then s.signalVec u.ctx (w64 (bf u.ctl 16 11)) else s
  s.yieldSlot q

def recTag (r : List W64) : Nat := bf (r.getD 0 0) 32 32
def recCaddr (r : List W64) : W64 := r.getD 6 0

/-- Take the record of queue q if it is valid and its OP is `op`; an invalid one sets ERR. -/
def State.withRecord (s : State) (q op : Nat) (k : List W64 → State) : State :=
  match s.record? q with
  | none => s
  | some (.error _) => s.badRecord q
  | some (.ok r) => if !recOk r then s.badRecord q else if bf (r.getD 0 0) 0 8 = op then k r else s

/-- R64: a no-operation record completes at once. -/
def execNopRecord (q : Nat) (s : State) : Out := .next (s.withRecord q 0 fun r => s.complete q (recTag r) (recCaddr r) 0)

/-- R59: a publish record joins the requests of its context's publisher. -/
def execPublishRecord (q : Nat) (s : State) : Out := .next <|
  s.withRecord q 2 fun r =>
    let n := (s.queue q).ctx
    if (s.ctx n).pubq.any fun p => p.queue == some q then s
    else s.setCtx n fun x => { x with pubq := x.pubq ++ [⟨some q, r.getD 1 0, r.getD 2 0, none⟩] }

/-- How the publisher reads staged words for a record: through the context's tables. -/
def hubStage (n : Nat) (s : State) (va : W64) (k : Nat) : Except (Byte × W64) (List W64 × State) :=
  match s.hubDws n va.toNat k with
  | .ok ws => .ok (ws, s)
  | .error r => .error (xFault .load va r)

/-- R59: the publisher of context n serves its oldest request; that of a core once the core's earlier stores are performed (R55). DESIGN CHOICE on a record
of an evicted queue: log entry 101. -/
def State.servePublisher (s : State) (n : Nat) : State :=
  match (s.ctx n).pubq with
  | [] => s
  | r :: rest =>
    let pop (s : State) : State := s.setCtx n fun x => { x with pubq := rest }
    match r.core, r.queue with
    | some (q, l), _ =>
      s.asCore q l fun s =>
        let s := s.drainAll
        if s.core.posted ≠ [] then s else
        let put (a : PubRes) (s : State) : State := (pop s).setCtx n fun x => { x with pubres := x.pubres ++ [a] }
        match s.publish n State.unitDws r.addr r.len with
        | .ok (v, s) => put ⟨q, l, none, v⟩ s
        | .error e => put ⟨q, l, some e, 0⟩ s
    | none, some q =>
      let s := pop s
      (match s.record? q with
      | some (.ok d) =>
        match s.publish n (hubStage n) r.addr r.len with
        | .ok (v, s) => s.complete q (recTag d) (recCaddr d) v
        | .error _ => s.badRecord q
      | _ => s)
    | none, none => pop s

def execPublisherServe (slot : Nat) (s : State) : Out := .next (s.servePublisher slot)

end Sys2Proof.Machine
end

