-- ==== Sys2Proof/Machine/Launch.lean ====
section
/-!
DEFINITION. Images and their checks (R48 to R50, R65), the launch record (R63 to R66), placement (R11, R67, R68, R72 to R76), wake (R69),
eviction (R62), retirement (R392 to R394) and KILL (R382).
-/
namespace Sys2Proof.Machine

/-! ### The image (R48 to R50) -/

/-- An image as the hub reads it: header, segment entries, task entries. -/
structure Image where
  hdr : List W64
  segs : List (List W64)
  tasks : List (List W64)
deriving DecidableEq, Repr

def Image.w (i : Image) (j : Nat) : W64 := i.hdr.getD j 0
def hdrNseg (h : List W64) : Nat := bf (h.getD 2 0) 48 16
def hdrNtask (h : List W64) : Nat := bf (h.getD 2 0) 32 16
def Image.lx (i : Image) : Nat := bf (i.w 0) 32 12 + 1
def Image.ly (i : Image) : Nat := bf (i.w 0) 44 12 + 1
def Image.cores (i : Image) : Bool := bit (i.w 0) 56
def Image.lmin (i : Image) : Nat := bf (i.w 0) 16 16 * 1024
def Image.spread (i : Image) : Nat := bf (i.w 2) 0 13
def Image.entSeg (i : Image) : Nat := bf (i.w 4) 32 16
def Image.entWord (i : Image) : Nat := bf (i.w 4) 0 32
def Image.len (i : Image) : Nat := bf (i.w 5) 0 32

def segKind (e : List W64) : Nat := bf (e.getD 0 0) 0 2
def segLen (e : List W64) : Nat := bf (e.getD 0 0) 32 32
def segTarget (e : List W64) : Nat := (e.getD 1 0).toNat
def segOff (e : List W64) : Nat := (e.getD 2 0).toNat

/-- PENBASE and PENSIZE, with the default of R195. -/
def Image.pen (i : Image) : Nat × Nat :=
  let b := bf (i.w 12) 0 18
  let z := bf (i.w 12) 18 19
  if b = 0 ∧ z = 0 then (i.lmin - 4096, 4096) else (b, z)

/-- The header keeps R48 and R195; that PENBASE and PENSIZE have zero low bits is log entry 83. -/
def Image.hdrOk (i : Image) : Bool :=
  let bay (j : Nat) : Bool := bf (i.w (8 + j)) 19 13 == 0 && bf (i.w (8 + j)) 51 13 == 0
  bf (i.w 0) 57 7 == 0 && bf (i.w 0) 8 8 == 0 && bf (i.w 0) 0 8 == 1 && i.lmin % 4096 == 0 && decide (4096 ≤ i.lmin) && decide (i.lmin ≤ 262144)
    && decide (1 ≤ hdrNseg i.hdr) && decide (hdrNseg i.hdr ≤ 4096) && decide (hdrNtask i.hdr ≤ 4096) && bf (i.w 2) 13 19 == 0
    && decide (i.spread ≤ 4096) && bf (i.w 4) 48 16 == 0 && bf (i.w 5) 32 32 == 0 && i.w 6 == 0 && i.w 7 == 0
    && bay 0 && bay 1 && bay 2 && bay 3 && bf (i.w 12) 37 27 == 0 && bf (i.w 13) 16 48 == 0 && bf (i.w 13) 3 5 == 0 && i.w 14 == 0 && i.w 15 == 0
    && (i.pen.2 == 0 || decide (i.pen.1 + i.pen.2 ≤ i.lmin)) && i.pen.1 % 64 == 0 && i.pen.2 % 64 == 0

/-- A segment keeps R49, with its content inside the image. -/
def Image.segOk (i : Image) (e : List W64) : Bool :=
  bf (e.getD 0 0) 2 30 == 0 && segKind e != 3 && decide (segOff e + segLen e ≤ i.len)
    && (segKind e != 0 || decide (segTarget e + segLen e ≤ i.lmin)) && (segKind e != 2 || segTarget e == 0)

/-- A range word of a task. -/
def Image.rangeOk (i : Image) (w : W64) : Bool :=
  bf w 37 27 == 0 && bf w 0 18 % 8 == 0 && bf w 18 19 % 8 == 0 && decide (bf w 0 18 + bf w 18 19 ≤ i.lmin)

/-- Segment j is code. -/
def Image.isCode (i : Image) (j : Nat) : Bool := match i.segs[j]? with | some e => segKind e == 2 | none => false

/-- A task keeps R50. -/
def Image.taskOk (i : Image) (e : List W64) : Bool :=
  let nr := bf (e.getD 1 0) 32 4
  let nw := bf (e.getD 1 0) 36 4
  bf (e.getD 0 0) 48 16 == 0 && bf (e.getD 1 0) 40 24 == 0 && decide (nr ≤ 4) && decide (nw ≤ 4) && i.isCode (bf (e.getD 0 0) 32 16)
    && (upTo 8).all fun j => if j < nr + nw then i.rangeOk (e.getD (2 + j) 0) else e.getD (2 + j) 0 == 0

/-- The image is valid, but for its code (R65). DESIGN CHOICE on an empty task table past LEN: log entry 29. -/
def Image.ok (i : Image) : Bool :=
  i.hdrOk && i.segs.all i.segOk && i.tasks.all i.taskOk && i.isCode i.entSeg
    && decide (bf (i.w 3) 0 32 + 24 * hdrNseg i.hdr ≤ i.len) && decide (bf (i.w 3) 32 32 + 80 * hdrNtask i.hdr ≤ i.len) && decide (128 ≤ i.len)

/-- k entries of n doublewords from va. -/
def State.hubTable (s : State) (c va n : Nat) : Nat → Except Nat (List (List W64))
  | 0 => .ok []
  | k + 1 =>
    match s.hubDws c va n with
    | .error r => .error r
    | .ok e =>
      match State.hubTable s c (va + 8 * n) n k with
      | .error r => .error r
      | .ok es => .ok (e :: es)

/-- The image at va of context n, when it can be read and is valid. -/
def State.readImage (s : State) (n va : Nat) : Option Image :=
  if va % 64 ≠ 0 then none else
  match s.hubDws n va 16 with
  | .error _ => none
  | .ok h =>
    if 4096 < hdrNseg h ∨ 4096 < hdrNtask h then none else
    match s.hubTable n (va + bf (h.getD 3 0) 0 32) 3 (hdrNseg h), s.hubTable n (va + bf (h.getD 3 0) 32 32) 10 (hdrNtask h) with
    | .ok ss, .ok ts => let i : Image := ⟨h, ss, ts⟩; if i.ok then some i else none
    | _, _ => none

/-! ### Publishing an image's code (R65) -/

/-- The references of the staged object at va, as doublewords. -/
def State.stageRefs (s : State) (n va : Nat) : Except Nat (List (W64 × W64)) :=
  match s.hubDws n va 1 with
  | .error r => .error r
  | .ok h =>
    let nw := bf (h.getD 0 0) 32 32
    let nr := bf (h.getD 0 0) 16 16
    if 65536 < nw ∨ 4096 < nr then .ok [] else
    match s.hubDws n (va + 16 + 8 * cdiv nw 2) (2 * nr) with
    | .error r => .error r
    | .ok ws => .ok (pairsOf ws)

/-- Every SEG reference of code segment j names an earlier code segment (R65), with zeros in [55:16] (log entry 83). -/
def State.segRefsOk (s : State) (n va : Nat) (i : Image) (j : Nat) : Bool :=
  match i.segs[j]? with
  | none => true
  | some e =>
    if segKind e ≠ 2 then true else
    match s.stageRefs n (va + segOff e) with
    | .error _ => true
    | .ok rs => rs.all fun r => !bit r.2 63 || (decide (bf r.2 0 16 < j) && i.isCode (bf r.2 0 16) && bf r.2 16 40 == 0)

/-- Staged words with each SEG reference replaced: SEG clear, and the object id of its segment in [55:0] (R65). -/
def imageStage (n start : Nat) (ids : List Nat) (s : State) (va : W64) (k : Nat) : Except (Byte × W64) (List W64 × State) :=
  match s.hubDws n va.toNat k, s.hubDws n start 1 with
  | .ok ws, .ok h =>
    let nr := if va.toNat = start then 0 else bf (h.getD 0 0) 16 16
    let refs := (pairsOf (ws.drop (k - 2 * nr))).flatMap fun r => [r.1, if bit r.2 63 then w64 (ids.getD (bf r.2 0 16) 0 % 2 ^ 56 + bf r.2 56 7 * 2 ^ 56) else r.2]
    .ok (ws.take (k - 2 * nr) ++ refs, s)
  | .error r, _ => .error (xFault .load va r)
  | _, .error r => .error (xFault .load va r)

/-- Publish segments in order: the object ids by segment, or the status and segment that stopped it. What is sealed stays sealed.
A segment whose words cannot be read counts as status 1 (log entry 83). -/
def State.publishSegs (s : State) (n va : Nat) (ids : List Nat) : List (List W64) → Except (Nat × Nat) (List Nat) × State
  | [] => (.ok ids, s)
  | e :: es =>
    if segKind e ≠ 2 then State.publishSegs s n va (ids ++ [0]) es else
    match s.publish n (imageStage n (va + segOff e) ids) (w64 (va + segOff e)) (w64 (segLen e)) with
    | .error _ => (.error (1, ids.length), s)
    | .ok (v, s) => if v.toNat < 64 then (.error (v.toNat, ids.length), s) else State.publishSegs s n va (ids ++ [v.toNat]) es

/-- The objects of the image at va, published at its first launch in the context. DESIGN CHOICE on a second try after a failed one: log entry 29. -/
def State.imageObjs (s : State) (n : Nat) (va : W64) (i : Image) : Except (Nat × Nat) (List Nat) × State :=
  match (s.ctx n).images.find? (·.1 == va) with
  | some (_, ids) => (.ok ids, s)
  | none =>
    match s.publishSegs n va.toNat [] i.segs with
    | (.ok ids, s) => (.ok ids, s.setCtx n fun x => { x with images := x.images ++ [(va, ids)] })
    | r => r

/-! ### Fold factors (R73, R67) -/

/-- FX and FY of fold factor 2^f. -/
def foldXY (f : Nat) : Nat × Nat := (2 ^ cdiv f 2, 2 ^ (f / 2))

/-- Domains of an extent lie each in one aligned block of it along a side of l logical routers that begins at x, fx to a router (R11). -/
def alignedSide (l x fx ext : Nat) : Bool :=
  (upTo (cdiv l ext)).all fun i =>
    (x + i * ext / fx) / ext == (x + (Min.min l ((i + 1) * ext) - 1) / fx) / ext

/-- Two places share no router. -/
def apart (p pw q qw : Nat × Nat) : Bool :=
  decide (p.1 + pw.1 ≤ q.1) || decide (q.1 + qw.1 ≤ p.1) || decide (p.2 + pw.2 ≤ q.2) || decide (q.2 + qw.2 ≤ p.2)

/-- Where in a module a side of l logical routers, fx to a router, may begin: its yards and its dies, of `die` routers, keep R11. -/
def sidePos (l fx die : Nat) : List Nat := (upTo 64).filter fun x => decide (x + cdiv l fx ≤ 64) && alignedSide l x fx 4 && alignedSide l x fx die

/-- The logical modules of the given sizes have places apart in at most k modules beside those that are placed: module, router, size. An empty module is as good
as any other. -/
def packs (k fx fy : Nat) : List (Nat × Nat) → List (Nat × (Nat × Nat) × (Nat × Nat)) → Bool
  | [], _ => true
  | d :: ds, ps =>
    let size := (cdiv d.1 fx, cdiv d.2 fy)
    let used := ps.foldl (fun n p => Max.max n (p.1 + 1)) 0
    (upTo (Min.min k (used + 1))).any fun m => (sidePos d.2 fy 16).any fun y => (sidePos d.1 fx 32).any fun x =>
      ps.all (fun p => p.1 != m || apart (x, y) size p.2.1 p.2.2) && packs k fx fy ds ((m, (x, y), size) :: ps)

/-- The sizes, in logical routers, of the logical modules of an LX by LY launch, in row-major order: those on the high edges are partial (R10). -/
def domSizes (lx ly : Nat) : List (Nat × Nat) :=
  (upTo (cdiv ly 64)).flatMap fun j => (upTo (cdiv lx 64)).map fun i => (Min.min 64 (lx - 64 * i), Min.min 64 (ly - 64 * j))

/-- With fold exponent f it has a placement in k modules under R11 (R67, R73). The first part, that its routers are no more than theirs, only spares a
search. -/
def fits (lx ly k f : Nat) : Bool :=
  let (fx, fy) := foldXY f
  let ds := domSizes lx ly
  decide (ds.foldl (fun n d => n + cdiv d.1 fx * cdiv d.2 fy) 0 ≤ 4096 * k) && packs k fx fy ds []

/-- The fold exponent of a launch, or the code that refuses it (R64, R67, R73). -/
def foldFor (x : Ctx) (i : Image) : Except Nat Nat :=
  let m := cdiv i.lx 64 * cdiv i.ly 64
  let n := i.spread
  let all := x.mw * x.mh
  let least (k : Nat) : Option Nat := (upTo 9).find? (fits i.lx i.ly k)
  if n ≠ 0 ∧ (all < n ∨ m < n) then .error 5
  else if n = m then .ok 0
  else if i.cores then (if n = 0 ∧ fits i.lx i.ly all 0 then .ok 0 else .error 2)
  else match least (if n = 0 then all else n) with
    | some f => .ok f
    | none => .error (if n = 0 then 7 else 5)

/-! ### The launch record (R65, R66) -/

/-- Another running launch of the context uses the save base (R61). -/
def State.baseTaken (s : State) (q : Nat) : Bool :=
  let base (u : Queue) (b : W64) : Nat := if b = 0#64 then (s.ctx u.ctx).ctxbase.toNat else b.toNat
  let u := s.queue q
  s.queues.any fun v =>
    v.1 != q && v.2.ctx == u.ctx && (match v.2.launch with | some a => base v.2 a.savebase == base u u.savebase | none => false)

/-- The predicate of a conditional launch holds (R66); none when its word cannot be read. PADDR is used as it stands (log entry 89). -/
def State.predicate (s : State) (n : Nat) (r : List W64) : Option Bool :=
  if !bit (r.getD 0 0) 8 then some true else
  match s.hubDws n (r.getD 3 0).toNat 1 with
  | .ok (w :: _) => some (w &&& r.getD 5 0 == r.getD 4 0)
  | _ => none

/-- A task entry of the image (R50), with its entry address. -/
def taskOf (ids : List Nat) (e : List W64) : TaskEnt :=
  let rng (j : Nat) : Nat × Nat := (bf (e.getD (2 + j) 0) 0 18, bf (e.getD (2 + j) 0) 18 19)
  let nr := bf (e.getD 1 0) 32 4
  let nw := bf (e.getD 1 0) 36 4
  ⟨bf (e.getD 0 0) 0 32, w64 (ids.getD (bf (e.getD 0 0) 32 16) 0 + 4 * bf (e.getD 1 0) 0 32), (upTo nr).map rng, (upTo nw).map fun j => rng (nr + j)⟩

/-- The content of a segment, in pieces that lie in one page each; zero where it cannot be read (log entry 83). -/
def State.segBytes (s : State) (n va len : Nat) : List Byte :=
  let k := if va % 8 = 0 then 8 else 1
  ((upTo (cdiv len k)).flatMap fun j =>
    match s.hubRead n (va + k * j) (Min.min k (len - k * j)) with
    | .ok bs => bs
    | .error _ => List.replicate (Min.min k (len - k * j)) 0)

/-- BAYFMT of the header, one word a bay. -/
def Image.bays (i : Image) : List W64 := (upTo 8).map fun b => w64 (bf (i.w (8 + b / 2)) (32 * (b % 2)) 32)

/-- The launch that a record starts. -/
def newLaunch (r : List W64) (i : Image) (ids : List Nat) (f : Nat) (base : W64) : Launch :=
  { tag := recTag r, caddr := recCaddr r, image := r.getD 1 0, lx := i.lx, ly := i.ly, cores := i.cores, spread := i.spread, lmin := i.lmin,
    seed := if bit (r.getD 0 0) 10 then r.getD 2 0 else i.w 1, entry := w64 (ids.getD i.entSeg 0 + 4 * i.entWord), bayfmt := i.bays,
    penbase := w64 i.pen.1, pensize := w64 i.pen.2, steallvl := w64 (bf (i.w 13) 0 3), stealtry := w64 (bf (i.w 13) 8 8),
    tasks := i.tasks.map (taskOf ids), segs := i.segs, locals := [], savebase := base, remap := [], route := [], stage := 0, fold := 2 ^ f, woken := [], exch := 0,
    computed := [], cal := none, residue := false, last := [] }

/-- R65: the mapper takes a launch record: predicate, save base, image, code, fold factor. DESIGN CHOICE on segment references before publication: log
entry 29. -/
def State.takeLaunch (s : State) (q : Nat) (r : List W64) : State :=
  let u := s.queue q
  let n := u.ctx
  let va := r.getD 1 0
  let refuse (s : State) (dw0 : Nat) : State := s.complete q (recTag r) (recCaddr r) (w64 dw0)
  match s.predicate n r with
  | none => s.badRecord q
  | some false => refuse s 1
  | some true =>
    if s.baseTaken q then refuse s 8 else
    match s.readImage n va.toNat with
    | none => refuse s 3
    | some i =>
      if !(upTo i.segs.length).all (s.segRefsOk n va.toNat i) then refuse s 3 else
      match s.imageObjs n va i with
      | (.error (st, j), s) => refuse s ((if st = 5 then 4 else 3) + st * 2 ^ 16 + j * 2 ^ 32)
      | (.ok ids, s) =>
        match foldFor (s.ctx n) i with
        | .error c => refuse s c
        | .ok f =>
          s.setQueue q fun u => { u with launch := some (newLaunch r i ids f u.savebase) }

def execLaunchRecord (q : Nat) (s : State) : Out := .next (s.withRecord q 1 (s.takeLaunch q))

/-! ### Placement (R11, R67, R68, R72 to R75) -/

def Launch.foldF (a : Launch) : Nat := Nat.log2 a.fold

/-- The logical modules of the launch, in row-major order. -/
def Launch.doms (a : Launch) : List (Nat × Nat) := (upTo (cdiv a.ly 64)).flatMap fun j => (upTo (cdiv a.lx 64)).map fun i => (i, j)

/-- Global coordinates of the router of logical router (lx, ly), when the place of each logical module begins at the router that `spots` gives. -/
def Launch.physAt (a : Launch) (spots : List (Nat × Nat)) (lx ly : Nat) : Nat × Nat :=
  let (fx, fy) := foldXY a.foldF
  let (x, y) := spots.getD (ly / 64 * cdiv a.lx 64 + lx / 64) (0, 0)
  (x + lx % 64 / fx, y + ly % 64 / fy)

/-- Routers that logical module (i, j) takes, along both sides. -/
def Launch.domSize (a : Launch) (d : Nat × Nat) : Nat × Nat :=
  let (fx, fy) := foldXY a.foldF
  (cdiv (Min.min 64 (a.lx - 64 * d.1)) fx, cdiv (Min.min 64 (a.ly - 64 * d.2)) fy)

/-- The place of logical module d at router p keeps R11, and lies in one module of the partition (R67). -/
def State.domOk (s : State) (n : Nat) (a : Launch) (d p : Nat × Nat) : Bool :=
  let (fx, fy) := foldXY a.foldF
  let (w, h) := a.domSize d
  let lx := Min.min 64 (a.lx - 64 * d.1)
  let ly := Min.min 64 (a.ly - 64 * d.2)
  decide (p.1 < torusW) && decide (p.2 < torusH) && decide (p.1 % 64 + w ≤ 64) && decide (p.2 % 64 + h ≤ 64) && (s.ctx n).holds (p.1 / 64) (p.2 / 64)
    && alignedSide lx p.1 fx 4 && alignedSide ly p.2 fy 4 && alignedSide lx p.1 fx 32 && alignedSide ly p.2 fy 16

/-- No two of the places share a router. -/
def allApart : List ((Nat × Nat) × (Nat × Nat)) → Bool
  | [] => true
  | x :: r => r.all (fun y => apart x.1 x.2 y.1 y.2) && allApart r

/-- The places keep R11, lie in the partition, one for each logical module, on exactly SPREAD modules when that is not 0 (R67). -/
def State.placeOk (s : State) (n : Nat) (a : Launch) (spots : List (Nat × Nat)) : Bool :=
  let ds := a.doms.zip spots
  spots.length == a.doms.length && ds.all (fun x => s.domOk n a x.1 x.2) && allApart (ds.map fun x => (x.2, a.domSize x.1))
    && (a.spread == 0 || (spots.map fun p => (p.1 / 64, p.2 / 64)).dedup.length == a.spread)

/-- The core remap entry of logical router i (R72). -/
def Launch.remapAt (a : Launch) (spots : List (Nat × Nat)) (i : Nat) : W64 :=
  let (fx, fy) := foldXY a.foldF
  let lx := i % a.lx
  let ly := i / a.lx
  let (px, py) := a.physAt spots lx ly
  w64 (2 ^ 40 + (ly % fy * fx + lx % fx) * 2 ^ 32 + (a.fold - 1) * 2 ^ 24 + py * 2 ^ 12 + px)

/-- First port and hops from one router to another (R75); the positive port where both ways around a ring are equally long (log entry 84). -/
def routeField (p r : Nat × Nat) : Nat :=
  let dx := ringDist torusW p.1 r.1
  let dy := ringDist torusH p.2 r.2
  let port :=
    if dx = 0 ∧ dy = 0 then 4
    else if dy ≤ dx then (if ringPos torusW p.1 r.1 ≤ ringNeg torusW p.1 r.1 then 0 else 1)
    else (if ringPos torusH p.2 r.2 ≤ ringNeg torusH p.2 r.2 then 2 else 3)
  port * 2 ^ 13 + (dx + dy)

/-- The route entry of logical router i (R75). -/
def Launch.routeAt (a : Launch) (spots : List (Nat × Nat)) (i : Nat) : W64 :=
  let lx := i % a.lx
  let ly := i / a.lx
  let here := a.physAt spots lx ly
  let go (nx ny : Nat) : Nat := routeField here (a.physAt spots nx ny)
  w64 (go ((lx + 1) % a.lx) ly + go ((lx + a.lx - 1) % a.lx) ly * 2 ^ 16 + go lx ((ly + 1) % a.ly) * 2 ^ 32 + go lx ((ly + a.ly - 1) % a.ly) * 2 ^ 48)

/-- The state in which a core wakes (R69), with its local memory as placement leaves it (R68); it is set when the core is placed, and kept until
the wake (log entry 19). -/
def Launch.coreState (a : Launch) (q l pcid : Nat) : Core :=
  let lx := l / 4 % a.lx
  let ly := l / 4 / a.lx
  let dom (k : Nat) : W64 := w64 (domIdAt a.lx k lx ly l)
  { Core.reset with
    placed := true, pcid := pcid, queue := q, pc := a.entry, lcn := w64 l, ncores := w64 (a.lx * a.ly * 4),
    ltorus := w64 ((a.ly - 1) * 4096 + (a.lx - 1)), dom := #v[dom 1, dom 2, dom 3, dom 4, dom 5], jobseed := a.seed, streamid := w64 l,
    mintkey := mint a.seed (w64 l), penbase := a.penbase, pensize := a.pensize, steallvl := a.steallvl, stealtry := a.stealtry,
    bayfmt := Vector.ofFn fun (i : Fin 8) => a.bayfmt.getD i.val 0, lmin := a.lmin,
    lmem := a.locals.foldl (fun m e => Memory.write m e.1 e.2) [] }

/-- Copy the paged segments of the image (R49, R68); bytes whose target cannot be written are left out (log entry 83). -/
def State.pagedSegs (s : State) (n : Nat) (a : Launch) : State :=
  (a.segs.filter (segKind · == 1)).foldl (fun s e =>
    (s.segBytes n (a.image.toNat + segOff e) (segLen e)).zipIdx.foldl (fun s b =>
      match s.hubWrite n (segTarget e + b.2) [b.1] with
      | .ok s => s
      | .error _ => s) s) s

/-- The contents of the local segments, as they are when the launch is placed (R68). -/
def State.localSegs (s : State) (n : Nat) (a : Launch) : List (Nat × List Byte) :=
  (a.segs.filter (segKind · == 0)).map fun e => (segTarget e, s.segBytes n (a.image.toNat + segOff e) (segLen e))

/-- The logical cores of a placed launch that lie on this module, with their physical cores. -/
def Launch.hereCores (a : Launch) : List (Nat × Nat) :=
  (upTo (a.lx * a.ly * 4)).filterMap fun l =>
    match a.pcidOf l with
    | some p => if pcPkg p = Config.pkgX then some (l, p) else none
    | none => none

/-- The first logical router of the launch on module `pkg`, as its global coordinates. -/
def Launch.firstOn (a : Launch) (pkg : Nat) : Nat × Nat :=
  match a.remap.find? fun e => bit e 40 && remapPkg e == pkg with
  | some e => (bf e 0 12, bf e 12 12)
  | none => (0, 0)

/-- A wake flit from router (x, y) of this module to a router of another: the context and the launch tag identify it (R69). -/
def State.sendWake (s : State) (x y : Nat) (q : Nat) (a : Launch) (p : Nat × Nat) : State :=
  s.emitFrom (Config.pkgX * 2 ^ 14 + x % 64 * 2 ^ 8 + y % 64 * 4)
    (.flit (dataFlit p.1 p.2 (s.module (p.2 / 64 * 64 + p.1 / 64)).1 9 0 [w64 (s.queue q).ctx, w64 a.tag]))

/-- R68: the launch is placed where `spots` says, once its cores are free: tables, local memory, segments, and a wake flit to each other module. A retained
core there gives up its image (R394). -/
def State.place (s : State) (q : Nat) (spots : List (Nat × Nat)) : State :=
  match (s.queue q).launch with
  | none => s
  | some a =>
    let n := (s.queue q).ctx
    if a.stage ≠ 0 ∨ !(s.queue q).active ∨ !s.placeOk n a spots then s else
    let k := a.lx * a.ly
    let b := { a with remap := (upTo k).map (a.remapAt spots), route := (upTo k).map (a.routeAt spots), stage := 1, locals := s.localSegs n a }
    let cs := b.hereCores
    if cs.any fun c => s.busyCore c.2 then s else
    let gone (c : Core) : Bool := !c.present && cs.any fun e => e.2 == c.pcid
    let s : State := { s with peers := (s.peers.filter fun c => !gone c) ++ cs.map fun e => b.coreState q e.1 e.2,
                              core := if gone s.core then Core.reset else s.core }
    (b.packages.filter (· != Config.pkgX)).foldl (fun s p => s.sendWake 0 0 q b (b.firstOn p)) ((s.setLaunch q fun _ => b).pagedSegs n b)

/-- R67 to R75: the launch of queue q is placed, its logical modules at the routers with the coordinates x and y. -/
def execLaunchPlacement (q : Nat) (x y : List Nat) (s : State) : Out := .next (s.place q (x.zip y))

/-! ### Wake (R69, R76) -/

/-- A placed core starts to run, with EVLATCH zero and its receive queue empty (R69). -/
def Core.awake (c : Core) : Core := { c with st := .running, placed := false, evlatch := 0, rx := [] }

/-- Is l the lowest logical core of queue q on its physical core? -/
def Launch.lowest (a : Launch) (l p : Nat) : Bool := a.hereCores.all fun e => e.2 != p || decide (l ≤ e.1)

/-- Wake a core; one that is not the lowest of its physical core is saved at once (R69). -/
def State.wakeOne (s : State) (q l p : Nat) (a : Launch) : State :=
  let s := s.asCore q l fun s => s.setCore Core.awake
  if a.lowest l p then s else s.asCore q l State.saveCore

/-- R69: a wake flit reaches router (x, y) of this module: its cores wake once, and the flood goes on to the neighbours on other modules. -/
def State.wakeRouter (s : State) (q x y : Nat) : State :=
  match (s.queue q).launch with
  | none => s
  | some a =>
    if a.stage = 0 ∨ a.woken.contains (x, y) then s else
    let mine := a.hereCores.filter fun e => pcX e.2 == x && pcY e.2 == y
    if mine = [] then s else
    let s := mine.foldl (fun s e => s.wakeOne q e.1 e.2 a) s
    let seen := (x, y) :: a.woken
    let all := a.hereCores.all fun e => seen.contains (pcX e.2, pcY e.2)
    let s := s.setLaunch q fun a => { a with woken := seen, stage := if all then 2 else a.stage }
    let used (p : Nat × Nat) : Bool := a.remap.any fun e => bit e 40 && bf e 0 12 == p.1 && bf e 12 12 == p.2 && remapPkg e != Config.pkgX
    let out := [((x + 1) % torusW, y), ((x + torusW - 1) % torusW, y), (x, (y + 1) % torusH), (x, (y + torusH - 1) % torusH)].filter used
    (out.foldl (fun s p => s.sendWake x y q a p) s).front

def execWakeFlit (q x y : Nat) (s : State) : Out := .next (s.wakeRouter q x y)

/-- The next router of a placed launch on this module that has not been woken. -/
def State.nextWake (s : State) : Option (Nat × Nat × Nat) :=
  (s.queues.filterMap fun u =>
    match u.2.launch with
    | none => none
    | some a =>
      if a.stage ≠ 1 then none else
      ((a.hereCores.map fun e => (pcX e.2, pcY e.2)).find? fun p => !a.woken.contains p).map fun p => (u.1, p.1, p.2)).head?

/-! ### Eviction (R62) -/

/-- Save every core of queue q that can be saved now. -/
def State.saveAll (s : State) (q : Nat) : State := ((s.members q).map (·.lcn.toNat)).foldl (fun s l => (s.asCore q l State.saveCore).park) s

/-- R62: at a quantum end each PRIO that has been written takes effect, and, when more than 32 queues are eligible, a waiting one takes the slot of the holder
with the highest PRIO, when its own is no greater. -/
def execQueueQuantumEnd (s0 : State) : Out := .next <|
  let s : State := { s0 with queues := s0.queues.map fun u => (u.1, { u.2 with prio := bf u.2.ctl 2 2 }) }
  match s.nextQueue with
  | none => s
  | some w =>
    if s.slotsUsed < 32 then s.grant 32 else
    if (s.queues.filter fun q => s.eligible q.2).length ≤ 32 then s else
    let hs := s.queues.filter fun q => q.2.active
    let worse (a b : Nat × Queue) : Bool :=
      decide (b.2.prio < a.2.prio) || (a.2.prio == b.2.prio && (decide (a.2.since.toNat < b.2.since.toNat) || (a.2.since == b.2.since && decide (a.1 < b.1))))
    match hs.foldl (fun b q => match b with | some d => if worse q d then some q else b | none => some q) none with
    | none => s
    | some h =>
      if h.2.prio < (s.queue w).prio then s else
      let s := s.setQueue h.1 fun u => { u with active := false }
      let s := (s.saveAll h.1).dropTlb (·.ctx == h.2.ctx) (·.ctx == h.2.ctx)
      (s.give w).front

/-- The current core's launch has lost its slot (R62): the core issues nothing more, and is saved. -/
def State.evicted (s : State) : Bool :=
  let u := s.queue s.core.queue
  u.launch.isSome && !u.active && (s.core.st == .running || s.core.st == .waiting || s.core.st == .trapped)

/-! ### Restoration (R76, R386) -/

/-- Position of a logical core among those that share its physical router (R72). -/
def Launch.slotOf (a : Launch) (l : Nat) : Nat := match a.remap[l / 4]? with | some e => bf e 32 8 | none => 0

/-- How far a logical core is, in ascending SLOT order, behind the one that physical core k held last (R76). -/
def Launch.turnKey (a : Launch) (k l : Nat) : Nat :=
  match a.last.find? (·.1 == k) with
  | some (_, m) => (a.slotOf l + a.fold - a.slotOf m - 1) % a.fold
  | none => a.slotOf l

/-- A saved core of launch a of queue q that may run again (R62, R76). -/
def State.runnable (s : State) (q : Nat) (a : Launch) (l : Nat) : Bool :=
  match (s.find q l).bind fun i => s.peers[i]? with
  | some c => c.st == .saved && (decide (a.fold ≤ 1) || !c.stuck)
  | none => false

/-- The next logical core of launch a, in ascending SLOT order, that physical core k may restore (R76). -/
def State.nextBack (s : State) (q : Nat) (a : Launch) (k : Nat) : Option Nat :=
  let ls := (a.hereCores.filter fun e => e.2 == k && s.runnable q a e.1).map (·.1)
  (ls.insertionSort fun l m => a.turnKey k l ≤ a.turnKey k m).head?

/-- Logical core l may be restored on physical core k: its launch holds its slot (R62), and k is core l mod 4 of a router of the physical yard that holds l's
logical yard (R11, R73, R386; log entry 91); of a folded launch, l comes next on k (R76). -/
def State.mayRestore (s : State) (q l k : Nat) : Bool :=
  match (s.queue q).launch with
  | none => false
  | some a => (s.queue q).active && a.stage != 0 && k % 4 == l % 4 && pcPkg k == Config.pkgX
      && (match a.pcidOf l with | some p => pcYard p == pcYard k | none => false)
      && (if a.fold ≤ 1 then s.runnable q a l else s.nextBack q a k == some l)

def execRestoration (q l pcid : Nat) (s : State) : Out := .next (if s.mayRestore q l pcid then (s.bringBack q l pcid).getD s else s)

/-! ### Retirement and KILL (R382, R393, R394) -/

/-- A home in the local memory of queue q's launch. -/
def Home.inQueue (q : Nat) : Home → Bool
  | .loc a _ _ => a == q
  | .mem _ | .host _ => false

/-- Write back and free the live slots in the launch's local memory. -/
def State.flushLaunch (s : State) (q : Nat) : State := (s.yards.map (·.1)).foldl (fun s y => s.flushSlots y (Home.inQueue q)) s

/-- Release the race arrays of the launch. -/
def State.freeRaces (s : State) (q : Nat) : State :=
  let free (r : Race) : Race := match r.owner with | some (a, _, _) => if a = q then { r with owner := none } else r | none => r
  { s with yards := s.yards.map fun y => (y.1, { y.2 with race := free y.2.race }) }

/-- A retained core (R394): it keeps its registers and memory; messages that it holds are discarded. -/
def Core.retain (c : Core) : Core := { c with st := .idle, retained := true, placed := false, slots := [none, none, none, none], rx := [] }

/-- R394: the launch retires once every core of it here is done and every request of it is settled; one that lies wholly on other modules has none here. -/
def State.retireLaunch (s : State) (q : Nat) : State :=
  match (s.queue q).launch with
  | none => s
  | some a =>
    let ms := s.members q
    if !(a.stage == 2 || (a.stage == 1 && a.hereCores == [])) ∨ !ms.all (fun c => c.st == .done) ∨ s.reqs.any (·.q == q) ∨ ms.any (fun c => c.posted != [] || c.cf.reqs != []) then s else
    let s := (s.flushLaunch q).freeRaces q
    let s := s.mapCores fun c => if c.queue = q ∧ c.present then c.retain else c
    (s.complete q a.tag a.caddr 0).front

def execLaunchRetirement (q : Nat) (s : State) : Out := .next (s.retireLaunch q)

/-- A core that KILL stops: idle, with nothing queued at its units (R382). -/
def Core.killed (c : Core) : Core :=
  { c.retain with
    retained := false, cq := [], mx := { c.mx with queue := [], started := false, fault := none }, cf := { c.cf with reqs := [], fault := none },
    ports := Vector.replicate 8 ⟨false, 0, 0, [], [], none⟩, posted := [], far := none, arrival := none, shadow := none, modp := none, frame := none,
    resume := none, latch := none, deque := [], task := none, probe := none, unsent := none }

/-- R382: KILL stops every core of the launch and discards their work. -/
def State.killLaunch (s : State) (q : Nat) : State :=
  match (s.queue q).launch with
  | none => s
  | some a =>
    let s := (s.flushLaunch q).freeRaces q
    let mine (c : Core) : Bool := c.present && c.queue == q
    let stop (c : Core) : Core := if mine c then c.killed else c
    let s : State := { s.mapCores stop with reqs := s.reqs.filter (·.q != q) }
    let s := s.setCtx (s.queue q).ctx fun x =>
      { x with pubq := x.pubq.filter fun r => match r.core with | some (b, _) => b != q | none => true, pubres := x.pubres.filter fun r => r.q != q }
    (s.complete q a.tag a.caddr 6).front

def execHcmdKill (slot : Nat) (w : W64) (s : State) : Out := .next <|
  if hcOp w ≠ 3 then s else s.ifOpen fun s =>
  if hcReserved w || bit w 2 || !s.hcBound slot w then s.cmdErr slot
  else s.killLaunch (hcQueue w)

end Sys2Proof.Machine
end

