-- ==== Sys2Proof/Machine/Mgmt.lean ====
section
/-!
DEFINITION. The host's registers in BAR0 (R61, R60, R205, R378, R395, R403) and the management space (R406 to R410), MCTP (R408), freeze (R397),
boot and recovery (R411, R412), attestation (R413), power and cooling.
-/
namespace Sys2Proof.Machine

/-! ### BOOTST (R412) -/

/-- A signature has failed: the management space is closed but for BOOTST and the recovery window (R412). -/
def State.recovering (s : State) : Bool := decide (2 ≤ s.bootSt) && decide (s.bootSt ≤ 4)
def State.setBoot (s : State) (st : Nat) : State := { s with bootst := (s.bootst &&& ~~~0xF#64) ||| w64 (st % 16) }

/-- Both signatures of an image (R411): running, or the recovery state that names what failed. -/
def verdict (image : List Byte) : Nat :=
  match Config.rsaOk image, Config.slhOk image with
  | true, true => 1
  | false, true => 2
  | true, false => 3
  | false, false => 4

/-! ### Notify region: queues and context blocks -/

/-- Write a register of a queue's notify page (R61). -/
def State.queueWrite (s : State) (q off : Nat) (w : W64) : State :=
  let u := s.queue q
  match off with
  | 0x00 => s.setQueue q fun u => { u with qbase := w &&& ~~~0xFFF#64 }
  | 0x08 => s.setQueue q fun u => { u with log2n := w &&& 0x1F }
  | 0x10 => (s.setQueue q fun u => { u with qtail := bf w 0 16 }).grant 32
  | 0x20 => ((s.setQueue q fun u => { u with ctl := w &&& 0x7FF001D#64 }).yieldSlot q).grant 32
  | 0x28 => if bit w 2 then s.clearErr q else s
  | 0x30 => if bit u.ctl 0 then s else s.setQueue q fun u => { u with ctx := bf w 0 8 }
  | 0x38 => s.setQueue q fun u => { u with savebase := w &&& ~~~0x1FFFF#64 }
  | _ => s

/-- Write a register of a context's control block (R60, R205, R378, R395), through host link `link`. -/
def State.ctxWrite (s : State) (n off link : Nat) (w : W64) : State :=
  let fixed (f : Ctx → Ctx) : State := if (s.ctx n).st ≠ 0 then s.cmdErr n else s.setCtx n f
  let out (o : Out) : State := match o with | .next t => t | _ => s
  match off with
  | 0x00 => s.setCtx n fun x => { x with frbase := w &&& ~~~0xFE0#64 }
  | 0x10 => out (execFrheadWrite n w s)
  | 0x18 => s.setCtx n fun x => { x with frvec := w &&& 0x7FF }
  | 0x20 => s.setCtx n fun x => { x with ctxbase := w }
  | 0x28 =>
    (match hcOp w with
     | 1 => out (execHcmdResume n w s)
     | 2 => out (execHcmdSkip n w s)
     | 3 => out (execHcmdKill n w s)
     | _ => if bit w 2 then out (execHcmdAbt n w s) else s)
  | 0x30 => if bit w 0 then s.setCtx n fun x => { x with cmderr := false } else s
  | 0x38 =>
    (match bf w 0 2 with
     | 0 => out (execReadbackCoreImage n w s)
     | 1 => out (execReadbackRaceArray n w s)
     | 2 => out (execReadbackTellerFlush n w s)
     | _ => s.rbDone n w 2)
  | 0x40 => s.setCtx n fun x => { x with rbaddr := w &&& ~~~0xFFF#64 }
  | 0x50 => out (execTlbinv n w s)
  | 0x60 => if bf w 0 2 = 1 then (s.createCtx n link).grant 32 else if bf w 0 2 = 2 then s.destroyCtx n else s
  | 0x68 => fixed fun x => { x with ptroot := w &&& 0x3FFFFFFE0000#64 }
  | 0x70 => fixed fun x => { x with heapbase := w &&& ~~~0x1FFFF#64 }
  | 0x78 => fixed fun x => { x with heapsize := w &&& 0x1FFFFFFFF#64 }
  | 0x80 => fixed fun x => { x with part := w &&& 0x7F7F3F3F#64 }
  | _ => s

/-- What a read of a queue's notify page returns (R61); offsets not listed read zero. -/
def Queue.read (u : Queue) (off : Nat) : W64 :=
  match off with
  | 0x00 => u.qbase
  | 0x08 => u.log2n
  | 0x10 => w64 u.qtail
  | 0x18 => w64 u.qhead
  | 0x20 => u.ctl
  | 0x28 => w64 (u.err.toNat * 4 + u.active.toNat * 2 + u.empty.toNat)
  | 0x30 => w64 u.ctx
  | 0x38 => u.savebase
  | _ => 0

/-- What a read of a context's control block returns (R60, R205, R378, R395): the command registers are WO and read zero (R4). -/
def Ctx.read (x : Ctx) (off : Nat) : W64 :=
  match off with
  | 0x00 => x.frbase
  | 0x08 => w64 x.frtail
  | 0x10 => w64 x.frhead
  | 0x18 => x.frvec
  | 0x20 => x.ctxbase
  | 0x30 => w64 (x.mcdrop * 2 ^ 16 + x.cmderr.toNat)
  | 0x40 => x.rbaddr
  | 0x48 => x.rbstat
  | 0x58 => w64 ((!x.tlbq.isEmpty).toNat * 2 ^ 16 + x.tlbdone)
  | 0x60 => w64 (x.st * 16)
  | 0x68 => x.ptroot
  | 0x70 => x.heapbase
  | 0x78 => x.heapsize
  | 0x80 => x.part
  | 0x88 => w64 x.fn
  | _ => 0

/-- A read of BAR0 (R403). -/
def State.notifyRead (s : State) (off : Nat) : W64 :=
  if off / 4096 < 1024 then (s.queue (off / 4096)).read (off % 4096)
  else if 1024 ≤ off / 4096 ∧ off / 4096 < 1280 then (s.ctx (off / 4096 - 1024)).read (off % 4096)
  else 0

/-- BAR0: queue pages, then context blocks (R403). -/
def State.notifyWrite (s : State) (off link : Nat) (w : W64) : State :=
  if off / 4096 < 1024 then s.queueWrite (off / 4096) (off % 4096) w
  else if 1024 ≤ off / 4096 ∧ off / 4096 < 1280 then s.ctxWrite (off / 4096 - 1024) (off % 4096) link w
  else s

/-! ### The management space (R406) -/

/-- A W1C counter field: cleared by any 1 written to it (R400). -/
def w1c (x w : W64) (lo n : Nat) : W64 := if bf w lo n = 0 then x else x &&& ~~~(at64 (2 ^ n - 1) lo)

/-- The offset lies in the recovery window (R412). -/
def inWindow (off : Nat) : Bool := decide (0x100000 ≤ off) && decide (off < 0x1100000)

/-- The offset lies in the management space: up to its last register, and in the recovery window (log entry 100). -/
def mgmtSpace (off : Nat) : Bool := decide (off < 0x2800) || inWindow off

/-- The matrix units' counts up to now, before RAMPTEL is read or what the next window takes is changed (R409, R410); a frozen unit counts nothing. -/
def State.settleRamp (s : State) : State := if s.frozen then s else s.rampSettle

/-- CLR of LNKSTAT (R85). -/
def lnkClear (x : W64) : W64 := x &&& 0xFF#64 &&& ~~~0x10#64

def State.lane (s : State) (i : Nat) : Lane := tget Lane.reset i s.lanes
def State.setLane (s : State) (i : Nat) (f : Lane → Lane) : State := { s with lanes := tmod Lane.reset i f s.lanes }

/-- R409: CLR of RAMPCFG. -/
def execRamptelClear (s : State) : Out := .next (if s.recovering then s else { s.settleRamp with ramptel := 0 })

/-- R85. -/
def execLnkstatClear (side pos : Nat) (s : State) : Out := .next <|
  if s.recovering then s else s.setLane (64 * (side % 4) + pos % 64) fun l => { l with stat := lnkClear l.stat }

/-- Steps 3 to 5 of the boot of a good image (R411): channels, ports and edge lanes train, and `train` tells whether the channels and ports come up; CYC comes
from the time beacons; the incarnation is one more than the previous one, or 0 after a power-up. -/
def State.bootUp (s : State) (image : List Byte) (train : Bool) (gd cx : Nat) (cyc : W64) : State :=
  let inc := match s.prevInc with | some i => i + 1#4 | none => 0#4
  let s : State := { s with lanes := (upTo 256).map fun i => (i, ⟨1, []⟩) }
  if !train then s.setBoot 5
  else { s with bootst := w64 (gd % 2 ^ 32 * 2 ^ 32 + cx % 2 ^ 16 * 2 ^ 16 + 0xB1), cyc := cyc, inc := inc, prevInc := some inc, image := image }

/-- R412: LOAD verifies the image in the recovery window as R411 does, and a good one boots; what training finds and the beacons bring is free (log entry 7). -/
def State.loadImage (s : State) : State :=
  if !s.recovering then s else
  let img := (upTo (16 * 2 ^ 20)).map fun i => Memory.get s.recWin i
  let v := verdict img
  let (t, s) := s.freshTick
  let free (i : Nat) : W64 := Config.freeBits t i
  if v = 1 then s.bootUp img (bit (free 0) 0) (free 1).toNat (free 2).toNat (free 3) else s.setBoot v

def execBootstLoad (s : State) : Out := .next s.loadImage

/-- Read of PWRNOW (R409): AVG and PEAK; PEAK starts afresh. -/
def State.readPwr (s : State) : W64 × State := (s.pwrnow, { s with pwrnow := s.pwrnow &&& 0xFFFF#64 })

def execPwrnowRead (s : State) : Out := .next (if s.recovering then s else s.readPwr.2)

/-- Read of the management space; what is not listed reads zero (R406). -/
def State.mgmtRead (s : State) (off : Nat) : W64 × State :=
  if s.recovering && off != 0 then (if inWindow off then w64 (Memory.num s.recWin (off - 0x100000) 8) else 0, s)
  else if off % 8 ≠ 0 then (0, s)
  else if off = 0x10 then s.readPwr
  else if off = 0x20 then (let s := s.settleRamp; (s.ramptel, s))
  else
    (match off with
     | 0x00 => s.bootst
     | 0x08 => s.pwrcap
     | 0x18 => s.rampcfg
     | 0x28 => s.coolst
     | _ =>
       if 0x1000 ≤ off ∧ off < 0x1800 then
         let d := s.die ((off - 0x1000) / 0x100)
         (match off % 0x100 with | 0 => d.eccnt | 8 => d.migdrop | 16 => d.rtrerr | _ => 0)
       else if 0x2000 ≤ off ∧ off < 0x2800 then (s.lane ((off - 0x2000) / 8)).stat
       else 0, s)

/-- Write of the management space; one to what is not listed is ignored (R406). -/
def State.mgmtWrite (s : State) (off : Nat) (w : W64) : State :=
  if s.recovering then
    (if off = 0 then (if bit w 8 then s.loadImage else s)
     else if inWindow off then { s with recWin := Memory.write s.recWin (off - 0x100000) (toBytes 8 w.toNat) }
     else s)
  else if off % 8 ≠ 0 then s
  else match off with
  | 0x08 => { s.settleRamp with pwrcap := w &&& 0xFFFF }
  | 0x18 => let s := s.settleRamp; { s with rampcfg := (s.rampcfg &&& ~~~0x3FF#64) ||| (w &&& 0x3FF), ramptel := if bit w 10 then 0 else s.ramptel }
  | _ =>
    if 0x1000 ≤ off ∧ off < 0x1800 then
      s.setDie ((off - 0x1000) / 0x100) fun d =>
        match off % 0x100 with
        | 0 => { d with eccnt := w1c (w1c (w1c (w1c (w1c d.eccnt w 48 16) w 32 16) w 16 16) w 8 8) w 0 8 }
        | 16 => { d with rtrerr := w1c (w1c (w1c d.rtrerr w 48 16) w 32 16) w 16 16 }
        | _ => d
    else if 0x2000 ≤ off ∧ off < 0x2800 then
      (if bit w 4 then s.setLane ((off - 0x2000) / 8) fun l => { l with stat := lnkClear l.stat } else s)
    else s

/-- R4: a write of the host reaches a register, or, with `none`, a read of 8 bytes returns one. BARs 0 and 2 of function 0 are 0 and 2, those of function 1
are 4 and 6; the notify region is open once the module runs (R411, R412). -/
def execRegisterWrite (bar off : Nat) (w : Option W64) (s : State) : Out := .next <|
  let link := bar / 4 % 2
  let give (v : W64) (s : State) : State := s.emit (.hostData link (toBytes 8 v.toNat))
  if !s.powered then s
  else if bar % 4 = 0 then
    (if s.bootSt ≠ 1 then s else
    match w with
    | some w => s.notifyWrite off link w
    | none => give (s.notifyRead off) s)
  else if bar % 4 = 2 then
    (match w with
    | some w => s.mgmtWrite off w
    | none => let (v, s) := s.mgmtRead off; give v s)
  else s

/-! ### MCTP (R406, R408) -/

/-- A response: type, vendor, command with bit 7, instance, status, payload. -/
def mctpReply (cmd iid st : Byte) (payload : List Byte) : List Byte :=
  [0x7E#8, (Config.vendorId >>> 8).setWidth 8, Config.vendorId.setWidth 8, cmd ||| 0x80#8, iid, st] ++ payload

/-- Status of a READ8 or WRITE8 at an offset. -/
def State.mctpStatus (s : State) (off : Nat) : Byte :=
  if off % 8 ≠ 0 ∨ !mgmtSpace off then 3#8
  else if s.recovering && off != 0 && !inWindow off then 4#8
  else 0#8

/-- A request with command byte `cmd` and n bytes of payload, of which the command takes `len` (R408): one that names no command, or has the wrong length, is
answered with a status alone; `k` answers the others, and a request of another command is another step. -/
def State.mctpServe (s : State) (h : MctpHead) (cmd : Byte) (n len : Nat) (k : State → State) : State :=
  let answer (st : Byte) : State := s.emit (.mctp (mctpReply h.cmd h.iid st []))
  if h.cmd = 0#8 ∨ 4#8 < h.cmd then answer 1#8
  else if h.cmd ≠ cmd then s
  else if n ≠ len then answer 2#8
  else k s

def execMctpRead8 (h : MctpHead) (off : List Byte) (s : State) : Out := .next <|
  s.mctpServe h 1#8 off.length 4 fun s =>
    let st := s.mctpStatus (ofBytes off)
    if st ≠ 0#8 then s.emit (.mctp (mctpReply 1#8 h.iid st [])) else
    let (v, s) := s.mgmtRead (ofBytes off)
    s.emit (.mctp (mctpReply 1#8 h.iid 0#8 (toBytes 8 v.toNat)))

/-- The payload is the offset's bytes and then the value's. -/
def execMctpWrite8 (h : MctpHead) (off data : List Byte) (s : State) : Out := .next <|
  let p := off ++ data
  s.mctpServe h 2#8 p.length 12 fun s =>
    let o := ofBytes (p.take 4)
    let st := s.mctpStatus o
    if st ≠ 0#8 then s.emit (.mctp (mctpReply 2#8 h.iid st [])) else
    (s.mgmtWrite o (w64 (ofBytes (p.drop 4)))).emit (.mctp (mctpReply 2#8 h.iid 0#8 []))

/-! ### Freeze and capture (R397) -/

/-- Bytes of the hot lines of yard y's teller in a capture: for each line its 64 bytes, and after the lines each live slot's image of 128 bytes (log entry
20). -/
def State.tellerImage (s : State) (y : Nat) : List Byte :=
  let t := (s.yard y).teller
  (t.lines.flatMap fun l => s.homeRead l.1 64) ++ t.slots.flatMap fun e => bytesOf e.dws

/-- The cells of blocks laid one after another, each a list of cells and a length, from an offset up. -/
def layBlocks (o : Nat) : List (List Host.Cell × Nat) → List Host.Cell × Nat
  | [] => ([], o)
  | (cs, n) :: r => let (rest, e) := layBlocks (o + n) r; (cs.map (fun c => (o + c.1, c.2)) ++ rest, e)

def cellsOf (bs : List Byte) : List Host.Cell := (bs.zipIdx 0).map fun x => (x.2, x.1)

/-- The image of a physical core (R384): of the logical core that it holds or has retained, else of what it held last, else of a core as reset leaves it. -/
def State.pcImage (s : State) (p : Nat) : List Host.Cell :=
  let here := s.allCores.filter fun c => c.pcid == p && c.st != .saved
  let c := match here.find? fun c => c.present || c.retained with
    | some c => c
    | none => here.headD { Core.reset with pcid := p }
  (s.asIf c).record

/-- The capture image: header, cores, race arrays and tellers by yard, fault queues, LNKSTAT. -/
def State.capture (s : State) : List Host.Cell × Nat :=
  let base := Config.pkgX * 2 ^ 14
  let pcs := (upTo 16384).map fun i => base + i
  layBlocks 0 (
    [(cellsOf (toBytes 8 s.cyc.toNat), 4096)]
      ++ pcs.map (fun p => (s.pcImage p, 0x60000))
      ++ (upTo 256).flatMap (fun y =>
          let t := s.tellerImage y
          [((s.yard y).race.image, 0x2C000), (cellsOf t, t.length)])
      ++ (upTo 8).map (fun d =>
          let b := (s.die d).faultq.flatMap fun r => bytesOf r.dws
          (cellsOf b, b.length))
      ++ [(cellsOf ((upTo 256).flatMap fun i => toBytes 8 (s.lane i).stat.toNat), 2048)])

/-- R397: FREEZE stops the compute dies and writes the capture image, when the buffer is long enough; they stay stopped when that write fails (log entry
98). -/
def execFreeze (h : MctpHead) (addr len : List Byte) (s : State) : Out := .next <|
  let p := addr ++ len
  s.mctpServe h 3#8 p.length 16 fun s =>
    let answer (st : Byte) (data : List Byte) (s : State) : State := s.emit (.mctp (mctpReply 3#8 h.iid st data))
    if s.recovering then answer 4#8 [] s else
    let (img, n) := s.capture
    if ofBytes (p.drop 8) < n then answer 5#8 [] s else
    let s := s.settleRamp
    match s.putImage (ofBytes (p.take 8)) n img with
    | some s => answer 0#8 (toBytes 8 n) { s with frozen := true }
    | none => answer 6#8 [] { s with frozen := true }

/-! ### Attestation (R413) -/

/-- n bytes of a byte function. -/
def blob (n : Nat) (f : Nat → Byte) : List Byte := (upTo n).map f

/-- The signed part of a report: bytes 0x000 to 0x26F. -/
def State.reportBody (s : State) (nonce : List Byte) : List Byte :=
  (nonce ++ List.replicate 32 0).take 32 ++ blob 48 (Config.sha384 s.image) ++ blob 48 Config.fusedRsaHash ++ blob 48 Config.fusedSlhHash
    ++ [BitVec.ofNat 8 (bf s.bootst 4 4), BitVec.ofNat 8 s.inc.toNat] ++ toBytes 2 (Config.pkgX % 4096) ++ toBytes 4 0 ++ toBytes 8 s.cyc.toNat
    ++ blob 384 Config.rsaModulus ++ blob 48 Config.slhPublic

def State.report (s : State) (nonce : List Byte) : List Byte :=
  let b := s.reportBody nonce
  b ++ blob 384 (Config.rsaSig b) ++ blob 16224 (Config.slhSig b)

def execAttest (h : MctpHead) (nonce : List Byte) (s : State) : Out := .next <|
  s.mctpServe h 4#8 nonce.length 32 fun s =>
    if s.recovering then s.emit (.mctp (mctpReply 4#8 h.iid 4#8 []))
    else s.emit (.mctp (mctpReply 4#8 h.iid 0#8 (s.report nonce)))

/-! ### Power and cooling (R409, R410) -/

/-- CAP as the controller uses it. -/
def capOf (w : W64) : Nat :=
  let c := bf w 0 16
  if c = 0 ∨ 3600 < c then 3600 else if c < 1200 then 1200 else c

def State.kmax (s : State) : Nat := bf s.rampcfg 16 10
def State.setKmax (s : State) (k : Nat) : State := { s with rampcfg := (s.rampcfg &&& ~~~0x3FF0000#64) ||| at64 (k % 1024) 16 }

/-- R410: the controller's millisecond; `avg` is the average over 10 ms and `peak` the last 1 ms average; CAP is the one in force since the last window
boundary. While the inlet is hot KMAX stays at 64
(R409). -/
def execPowerControlTick (avg peak : BitVec 16) (s : State) : Out := .next <|
  let s := s.settleRamp
  let p := Max.max (bf s.pwrnow 16 16) peak.toNat
  let s : State := { s with pwrnow := w64 (p * 2 ^ 16 + avg.toNat) }
  let cap := capOf s.capNow
  if bit s.coolst 16 then s.setKmax 64
  else if cap < avg.toNat then s.setKmax (Max.max 64 (s.kmax - 64))
  else if avg.toNat + 100 < cap then s.setKmax (Min.min 800 (s.kmax + 64))
  else s

/-- COOLST with a temperature and a flow. -/
def coolOf (hot : Bool) (temp flow : Byte) : W64 := w64 (hot.toNat * 2 ^ 16 + flow.toNat * 2 ^ 8 + temp.toNat)

/-- A measurement of the coolant (R409): the inlet is hot over 45 °C, and stays so until it falls below 43 °C; while it is, KMAX is 64. -/
def State.coolant (s : State) (temp flow : Byte) : State :=
  let hot := decide (45 < temp.toNat) || (bit s.coolst 16 && decide (43 ≤ temp.toNat))
  let s : State := { s.settleRamp with coolst := coolOf hot temp flow }
  if hot then s.setKmax 64 else s

/-- R409: over 45 °C the hold begins. -/
def execCoolantHot (temp flow : Byte) (s : State) : Out := .next (s.coolant temp flow)

/-- R409: below 43 °C it ends. -/
def execCoolantRecover (temp flow : Byte) (s : State) : Out := .next (s.coolant temp flow)

/-! ### Reset, boot and power (R389, R411, R412) -/

/-- The boot after a reset: every register and memory as after reset, then the image's verdict, and steps 3 to 5 for a good one. -/
def State.boot (s : State) (image : List Byte) (train : Bool) (gd cx : Nat) (cyc : W64) : State :=
  let v := verdict image
  let r : State := { State.reset with hostMem := s.hostMem, modules := s.modules, sched := s.sched, tick := s.tick, outbox := s.outbox,
                                      nextTag := s.nextTag, prevInc := s.prevInc }
  if v = 1 then r.bootUp image train gd cx cyc else r.setBoot v

def execResetBoot (image : List Byte) (train : Bool) (gd cx : Nat) (w : W64) (s : State) : Out := .next (s.boot image train gd cx w)

/-- R411: without power nothing is kept, the previous incarnation included. -/
def execPowerDown (s : State) : Out := .next
  { State.reset with powered := false, prevInc := none, hostMem := s.hostMem, modules := s.modules, sched := s.sched, tick := s.tick,
                     outbox := s.outbox, nextTag := s.nextTag }

end Sys2Proof.Machine
end

