-- ==== Sys2Proof/Machine/Links.lean ====
section
/-!
DEFINITION. Edge lanes (R84, R85) and the routers (R79 to R82), with the ports that circuits hold (R361, R362).
-/
namespace Sys2Proof.Machine

/-! ### Edge lanes (R85): side 0 +X, 1 −X, 2 +Y, 3 −Y, and the position along it -/

def laneNo (side pos : Nat) : Nat := 64 * (side % 4) + pos % 64

/-- The router (rx, ry) of this module that owns a lane. -/
def laneRouter (side pos : Nat) : Nat × Nat :=
  match side % 4 with
  | 0 => (63, pos % 64)
  | 1 => (0, pos % 64)
  | 2 => (pos % 64, 63)
  | _ => (pos % 64, 0)

/-- Core 0 of a router: the core that is nearest to it and to its lanes (log entry 40). -/
def routerCore (rx ry : Nat) : Nat := Config.pkgX * 2 ^ 14 + rx * 2 ^ 8 + ry * 4

/-- The die of a router. -/
def routerDie (rx ry : Nat) : Nat := 2 * (ry / 16) + rx / 32

def State.lnkStat (s : State) (side pos : Nat) (f : W64 → W64) : State := s.setLane (laneNo side pos) fun l => { l with stat := f l.stat }

/-- The state TRN of a lane. -/
def State.trn (s : State) (side pos : Nat) : Nat := bf (s.lane (laneNo side pos)).stat 0 2

/-- R85: a lane that is down begins to train; one that trains comes up, with POL and REV as training corrected them, or fails where the lanes are
permuted in another way (`rev` none). -/
def execLaneTraining (side pos : Nat) (pol : Bool) (rev : Option Bool) (s : State) : Out := .next <|
  match s.trn side pos with
  | 0 => s.lnkStat side pos fun x => lnkSet x 0 2 1
  | 1 => s.lnkStat side pos fun x =>
      match rev with
      | none => lnkSet x 0 2 3
      | some b => lnkSet (lnkSet (lnkSet x 0 2 2) 2 1 b.toNat) 3 1 pol.toNat
  | _ => s

/-- R85: a lane that is not up after 1 ms has failed. -/
def execLaneTrainingTimeout (side pos : Nat) (s : State) : Out := .next <|
  if 1 < s.trn side pos then s else s.lnkStat side pos fun x => lnkSet x 0 2 3

/-- R85, R398: a lane leaves the up state; the record's location is the physical core 0 of its router. -/
def execLaneDown (side pos : Nat) (s : State) : Out := .next <|
  if s.trn side pos ≠ 2 then s else
  let (rx, ry) := laneRouter side pos
  let s := s.lnkStat side pos fun x => lnkCount (lnkSet x 0 2 0) 16 16
  s.nocore (routerDie rx ry) s.unitCtx (some (routerCore rx ry)) (w64 (7 + routerCore rx ry * 256))

def State.router (s : State) (rx ry : Nat) : Router := tget Router.reset (64 * ry + rx) s.routers
def State.setRouter (s : State) (rx ry : Nat) (f : Router → Router) : State :=
  { s with routers := tmod Router.reset (64 * ry + rx) f s.routers }

/-- The 320 bits of a flit: header, then payload (R78; log entry 76 for the order under the CRC). -/
def flitBits (f : Flit) : Nat :=
  ((f.dx % 4096 * 2 ^ 52 + f.dy % 4096 * 2 ^ 40 + f.age % 4096 * 2 ^ 28 + f.inc.toNat * 2 ^ 24 + f.kind.toNat * 2 ^ 20 + f.tag.toNat * 2 ^ 8 + f.hcrc.toNat)
    * 2 ^ 256) + f.payload.toNat

/-- CRC-32 of the n low bits of x, the highest first, polynomial 0x04C11DB7 (R84; log entry 76). -/
def crc32 (x : Nat) : Nat → Nat → Nat
  | 0, c => c
  | n + 1, c => crc32 x n ((2 * c % 2 ^ 32) ^^^ (if (decide (2 ^ 31 ≤ c % 2 ^ 32)) != (x / 2 ^ n % 2 == 1) then 0x04C11DB7 else 0))

/-- The CRC-32 that goes with a flit on a link. -/
def flitCrc (f : Flit) : W32 := BitVec.ofNat 32 (crc32 (flitBits f) 320 0)

/-- R84: a frame on an edge lane, as FEC leaves it after correcting `sym` symbols, with its CRC-32. FEC corrects one symbol; a frame that still fails its
CRC is replayed by its sender, and a good one arrives at the lane's router, travelling away from the side. When the other end asks for the last `again`
frames of this lane, they go out again from the replay buffer. DESIGN CHOICE on the end that counts RPLY: log entry 76. -/
def execEdgeFrameReceive (side pos sym again : Nat) (f : LinkFrame) (s : State) : Out := .next <|
  if s.trn side pos ≠ 2 then s else
  let s := (((s.lane (laneNo side pos)).replay.take again).reverse).foldl (fun s g => s.emit (.edge (side % 4) (pos % 64) g (flitCrc g))) s
  if f.crc ≠ flitCrc f.flit ∨ 1 < sym then s.lnkStat side pos fun x => lnkCount x 32 16 else
  let s := if sym = 1 then s.lnkStat side pos fun x => lnkCount x 48 16 else s
  let (rx, ry) := laneRouter side pos
  s.setRouter rx ry fun r => { r with arr := r.arr ++ [((side % 4) ^^^ 1, f.flit)] }

/-! ### Circuits at a router (R361, R362) -/

/-- What a lane of a circuit holds at one router: the queue of its launch, the in-port, the out-port, the destination module, and whether the first router may
still send on it. -/
structure Held where
  queue : Nat
  inp : Option Nat
  out : Option Nat
  dst : Nat
  send : Bool
deriving DecidableEq, Repr

/-- CYC lies in the held interval of phase i, before the guard that ends the phase (R362). -/
def State.inPhase (s : State) (ws : List W64) (i : Nat) : Bool :=
  decide (calPhase ws i ≤ s.cyc.toNat) && decide (s.cyc.toNat + 16 < calPhase ws i + calPlen ws)

/-- The ports held now at the router with global coordinates (gx, gy). -/
def State.heldAt (s : State) (gx gy : Nat) : List Held :=
  s.queues.flatMap fun u =>
    match u.2.launch with
    | none => []
    | some a =>
      match a.cal with
      | none => []
      | some (_, c) =>
        (c.held.filter (s.inPhase c.words)).flatMap fun i =>
          ((calEntries c.words).filter fun e => entPhase e == i).flatMap fun e =>
            (upTo 4).filterMap fun l =>
              let ps := (lanePorts Config.MX Config.MY (entSrc e) (entDst e) (bf e 36 4) (bf e 32 4) l).filter fun p => p.x == gx && p.y == gy
              if ps = [] then none else
              some ⟨u.1, (ps.find? (!·.out)).map (·.dir), (ps.find? (·.out)).map (·.dir), entDst e,
                !c.shut.contains i && decide (s.cyc.toNat ≤ calPhase c.words i + 2096)⟩

/-! ### One cycle of a router (R81, R82) -/

/-- The global router that a flit is addressed to, and the module of it. -/
def flitPkg (f : Flit) : Nat := f.dy / 64 * 64 + f.dx / 64

/-- The edge lane that a flit on in-port d has come over, as side and position; none within the module. -/
def edgeIn (rx ry d : Nat) : Option (Nat × Nat) :=
  match d with
  | 0 => if rx = 0 then some (1, ry) else none
  | 1 => if rx = 63 then some (0, ry) else none
  | 2 => if ry = 0 then some (3, rx) else none
  | _ => if ry = 63 then some (2, rx) else none

/-- The edge lane of out-port d. -/
def edgeOut (rx ry d : Nat) : Option (Nat × Nat) :=
  match d with
  | 0 => if rx = 63 then some (0, ry) else none
  | 1 => if rx = 0 then some (1, ry) else none
  | 2 => if ry = 63 then some (2, rx) else none
  | _ => if ry = 0 then some (3, rx) else none

/-- A lane of a router on the module's edge; a corner router owns two, and the one with the lower side number counts (log entry 77). -/
def edgeOf (rx ry : Nat) : Option (Nat × Nat) := ([0, 1, 2, 3].filterMap (edgeOut rx ry)).head?

/-- The port of P in the dimension with more remaining hops, X on a tie; among both ways of one dimension the lower number; none when no
productive port is free. -/
def productive (gx gy : Nat) (f : Flit) (free : List Nat) : Option Nat :=
  let xp := ringPos torusW gx f.dx
  let xn := ringNeg torusW gx f.dx
  let yp := ringPos torusH gy f.dy
  let yn := ringNeg torusH gy f.dy
  let px := (if xp ≠ 0 ∧ xp ≤ xn then [0] else []) ++ (if xp ≠ 0 ∧ xn ≤ xp then [1] else [])
  let py := (if yp ≠ 0 ∧ yp ≤ yn then [2] else []) ++ (if yp ≠ 0 ∧ yn ≤ yp then [3] else [])
  let order := if Min.min yp yn ≤ Min.min xp xn then px ++ py else py ++ px
  order.find? free.contains

/-- The port a flit takes: a productive one, else the lowest free one (deflection). -/
def portFor (gx gy : Nat) (f : Flit) (free : List Nat) : Option Nat :=
  match productive gx gy f free with
  | some d => some d
  | none => free.head?

/-- One more hop. -/
def aged (f : Flit) : Flit := { f with age := Min.min (f.age + 1) 4095 }

/-- The order of R81: AGE descending, then (DY, DX) and the in-port ascending. -/
def flitLe (a b : Nat × Flit) : Bool :=
  decide (b.2.age < a.2.age) || (a.2.age == b.2.age && (decide (a.2.dy < b.2.dy) || (a.2.dy == b.2.dy && (decide (a.2.dx < b.2.dx)
    || (a.2.dx == b.2.dx && decide (a.1 ≤ b.1))))))

/-- A router's cycle as it goes on: the out-ports still free, ejection slots, circuits of first routers that may send, flits that leave on a
port, flits ejected, flits that stay for want of a port. -/
structure Cyc where
  free : List Nat
  ej : Nat
  first : List (Nat × Nat)
  sent : List (Nat × Flit)
  ejected : List Flit
  stay : List (Nat × Flit)
deriving DecidableEq, Repr

/-- The circuit of this first router that may carry the flit: copy data for its destination module (R362). -/
def Cyc.circuit (c : Cyc) (f : Flit) : Option Nat :=
  if f.kind = 8#4 then (c.first.find? fun h => h.2 == flitPkg f).map (·.1) else none

/-- A flit takes a port, or none is left. -/
def Cyc.leave (c : Cyc) (gx gy : Nat) (f : Flit) : Option Cyc :=
  match c.circuit f with
  | some d => some { c with first := c.first.filter (·.1 != d), sent := c.sent ++ [(d, aged f)] }
  | none =>
    match portFor gx gy f c.free with
    | some d => some { c with free := c.free.filter (· != d), sent := c.sent ++ [(d, aged f)] }
    | none => none

/-- ROUTE for one arriving flit. -/
def Cyc.route (gx gy : Nat) (c : Cyc) (a : Nat × Flit) : Cyc :=
  if a.2.dx = gx ∧ a.2.dy = gy ∧ 0 < c.ej then { c with ej := c.ej - 1, ejected := c.ejected ++ [a.2] }
  else match c.leave gx gy a.2 with
    | some c => c
    | none => { c with stay := c.stay ++ [a] }

/-- The flit is addressed to this router. -/
def atHome (gx gy : Nat) (f : Flit) : Bool := f.dx == gx && f.dy == gy

/-- The flits that may be injected this cycle, in round-robin order of their cores: at most two (R82). A second flit of one core that is for this router
itself waits until the first has left. -/
def Router.picks (r : Router) (gx gy : Nat) : List (Nat × Flit) :=
  let order := [1, 2, 3, 4].map fun d => (r.rr + d) % 4
  let head (n : Nat) : Option (Nat × Flit) := (r.inj.getD n []).head?.map fun f => (n, f)
  match order.filterMap head with
  | [] => []
  | [p] =>
    let next := ((r.inj.getD p.1 []).drop 1).head?.map fun f => (p.1, f)
    p :: next.toList.filter fun q => atHome gx gy p.2 || !atHome gx gy q.2
  | p :: q :: _ => [p, q]

/-- The first of the flits on each in-port: those that arrive in this cycle. -/
def firstOf : List Nat → List (Nat × Flit) → List (Nat × Flit) × List (Nat × Flit)
  | _, [] => ([], [])
  | seen, a :: r =>
    if seen.contains a.1 then (let (x, y) := firstOf seen r; (x, a :: y)) else (let (x, y) := firstOf (a.1 :: seen) r; (a :: x, y))

/-- Request kinds (R78, R87): reads, writes, atomics, messages and copy data. -/
def isRequest (f : Flit) : Bool := f.kind == 0#4 || f.kind == 1#4 || f.kind == 2#4 || f.kind == 7#4 || f.kind == 8#4

/-- The NACK of code 7 for a request to a module that is down (R87, R427). -/
def nackFor (f : Flit) : Flit :=
  let src := f.payload.toNat % 2 ^ 26
  sealFlit ⟨pcX src, pcY src, 0, BitVec.ofNat 4 (f.payload.toNat / 2 ^ 26), 6#4, f.tag, 0, 7⟩

/-- The drops before routing (R79, R80, R84, R87): what is left of the arriving flits, and the state with the drops counted; `lost` are the in-ports within
the module whose flit fails its CRC-32. -/
def State.routerDrops (s : State) (rx ry : Nat) (lost : List Nat) : List (Nat × Flit) → List (Nat × Flit) × State
  | [] => ([], s)
  | (d, f) :: r =>
    let die := routerDie rx ry
    let count (s : State) (e : Option (Nat × Nat)) (lo : Nat) : State :=
      match e with
      | some (side, pos) => s.lnkStat side pos fun x => lnkCount x 8 8
      | none => s.setDie die fun t => { t with rtrerr := lnkCount t.rtrerr lo 16 }
    let report (s : State) : State := s.nocore die s.unitCtx (some (routerCore rx ry)) (w64 (5 + routerCore rx ry * 256))
    if lost.contains d ∧ edgeIn rx ry d = none then State.routerDrops (report (count s none 32)) rx ry lost r
    else if !crcOk f then State.routerDrops (report (count s (edgeIn rx ry d) 48)) rx ry lost r
    else if 13 ≤ f.kind.toNat then
      let e := match edgeIn rx ry d with | some e => some e | none => edgeOf rx ry
      State.routerDrops (count s e 16) rx ry lost r
    else if (s.module (flitPkg f)).2 then
      let s := if isRequest f then s.setRouter rx ry fun t => { t with inj := t.inj.modify 0 (· ++ [nackFor f]) } else s
      State.routerDrops s rx ry lost r
    else
      let (x, s) := State.routerDrops s rx ry lost r
      ((d, f) :: x, s)

/-- Flits to be injected that are addressed to a module marked down are dropped, and their requests answered, as those that arrive (R87). -/
def State.injectDrops (s : State) (rx ry : Nat) : State :=
  let down (f : Flit) : Bool := (s.module (flitPkg f)).2
  let q := (s.router rx ry).inj
  let nacks := ((q.flatten).filter fun f => down f && isRequest f).map nackFor
  if q.flatten.any down then s.setRouter rx ry fun t => { t with inj := (q.map fun l => l.filter (!down ·)).modify 0 (· ++ nacks) } else s

/-- The side's lanes are cabled to the module's own opposite side (R71). -/
def ownCable (side : Nat) : Bool := if side < 2 then decide (Config.MX = 1) else decide (Config.MY = 1)

/-- A flit goes out on port d: over the edge lane, which keeps it for replay (R84), to another module or to this one's own opposite lane (R71), or to the
neighbour. -/
def State.sendPort (s : State) (rx ry : Nat) (d : Nat) (f : Flit) : State :=
  match edgeOut rx ry d with
  | some (side, pos) =>
    let s := s.setLane (laneNo side pos) fun l => { l with replay := (f :: l.replay).take 32 }
    if ownCable side then
      let (x, y) := laneRouter (side ^^^ 1) pos
      if s.trn (side ^^^ 1) pos = 2 then s.setRouter x y fun r => { r with arr := r.arr ++ [(d, f)] } else s
    else s.emit (.edge side pos f (flitCrc f))
  | none =>
    let (x, y) := match d with
      | 0 => (rx + 1, ry)
      | 1 => (rx - 1, ry)
      | 2 => (rx, ry + 1)
      | _ => (rx, ry - 1)
    s.setRouter x y fun r => { r with arr := r.arr ++ [(d, f)] }

/-- INJECT for one pick: to this router by the bypass, when the ejection buffer has room, or on a port; a core whose flit stays injects nothing more this
cycle. -/
def injectOne (gx gy : Nat) (room : Bool) (c : Cyc × List Nat × List Nat) (p : Nat × Flit) : Cyc × List Nat × List Nat :=
  let (c, took, held) := c
  if held.contains p.1 then (c, took, held)
  else if atHome gx gy p.2 then (if room then ({ c with ejected := c.ejected ++ [p.2] }, took ++ [p.1], held) else (c, took, p.1 :: held))
  else match c.leave gx gy { p.2 with age := 0 } with
    | some c => (c, took ++ [p.1], held)
    | none => (c, took, p.1 :: held)

/-- The lane of an out-port is up; within the module every port is (R85). -/
def State.portUp (s : State) (rx ry d : Nat) : Bool := match edgeOut rx ry d with | some (side, pos) => s.trn side pos == 2 | none => true

/-- The lane of an in-port that is cabled to the module's own opposite side (R71). -/
def ownLane (rx ry d : Nat) : Option (Nat × Nat) := (edgeIn rx ry d).filter fun e => ownCable e.1

/-- Flits that come over the module's own cables (R84): the in-ports d of `lost` are those whose frame fails its CRC-32, which its sender replays: it stays for a
later cycle, and counts as replayed; with 4 + d FEC corrects a symbol of it. The flits that arrive, and those that stay. -/
def State.ownFrames (s : State) (rx ry : Nat) (lost : List Nat) : List (Nat × Flit) → List (Nat × Flit) × List (Nat × Flit) × State
  | [] => ([], [], s)
  | a :: r =>
    let (now, again, s) := State.ownFrames s rx ry lost r
    match ownLane rx ry a.1 with
    | none => (a :: now, again, s)
    | some (side, pos) =>
      if lost.contains a.1 then (now, a :: again, s.lnkStat side pos fun x => lnkCount x 32 16)
      else (a :: now, again, if lost.contains (4 + a.1) then s.lnkStat side pos fun x => lnkCount x 48 16 else s)

/-- Circuit flits that slip in this cycle: one for each held port that serves deflection while its launch's copy data for its module waits here (R362). -/
def State.slip (s : State) (hs : List Held) (fs : List Flit) : State :=
  (hs.filter fun h => h.send && fs.any fun f => f.kind == 8#4 && flitPkg f == h.dst).foldl
    (fun s h => s.setCal h.queue fun c => { c with slipped := Min.min (c.slipped + 1) (2 ^ 32 - 1) }) s

/-- One cycle of router (rx, ry): drops, circuits, ejection, routing, injection. Only a flit that leaves on a port counts as routed for the guard of R82 (log
entry 77). -/
def State.routerCycle (s : State) (rx ry : Nat) (lost : List Nat) : State :=
  let gx := myX rx
  let gy := myY ry
  let (now, later) := firstOf [] (s.router rx ry).arr
  let (now, again, s) := s.ownFrames rx ry lost now
  let (arr, s) := s.routerDrops rx ry lost now
  let s := s.injectDrops rx ry
  let held := s.heldAt gx gy
  let r := s.router rx ry
  let up := s.portUp rx ry
  -- flits on a held in-port that has an out-port go on there; copy data leaves the last router by the circuit's own path
  let pairOf (d : Nat) : Option Nat := (held.find? fun h => h.inp == some d && (match h.out with | some o => up o | none => false)).bind (·.out)
  let lastOf (a : Nat × Flit) : Bool := a.2.kind == 8#4 && held.any fun h => h.inp == some a.1 && h.out.isNone && h.dst == flitPkg a.2
  let paired := arr.filterMap fun a => (pairOf a.1).map fun o => (o, aged a.2)
  let home := arr.filter fun a => (pairOf a.1).isNone && lastOf a
  let rest := (arr.filter fun a => (pairOf a.1).isNone && !lastOf a).insertionSort fun a b => flitLe a b
  let open' := [0, 1, 2, 3].filter fun d => up d && !held.any fun h => h.out == some d
  let picks := if r.guard = 0 then r.picks gx gy else []
  let room := decide (r.eject.length ≤ 14)
  let ej := (if room then 2 else 0) - (picks.filter fun p => atHome gx gy p.2).length
  -- a first router's held port goes back to deflection when the arriving flits would outnumber the other ports and the slots they can use
  let short := rest.length - (open'.length + Min.min ej (rest.filter fun a => atHome gx gy a.2).length)
  let firsts := held.filter fun h => h.inp.isNone && (match h.out with | some o => up o | none => false)
  let freed := (firsts.take short).filterMap (·.out)
  let circuits := ((firsts.drop short).filter (·.send)).filterMap fun h => h.out.map fun o => (o, h.dst)
  let c0 : Cyc := ⟨[0, 1, 2, 3].filter fun d => open'.contains d || freed.contains d, ej, circuits, paired, [], []⟩
  let s := s.slip (firsts.take short) (rest.map (·.2) ++ picks.map (·.2))
  let c1 := rest.foldl (Cyc.route gx gy) c0
  let (c2, took, _) := picks.foldl (injectOne gx gy room) (c1, [], [])
  let old := rest.any fun a => a.2.age == 4095 && !c1.ejected.contains a.2 && !c1.stay.contains a
  let upd (t : Router) : Router :=
    { t with arr := c2.stay ++ again ++ later, eject := t.eject ++ c2.ejected, inj := took.foldl (fun q n => q.modify n (·.drop 1)) t.inj,
             rr := match took.getLast? with | some n => n | none => t.rr, guard := if old then 64 else t.guard - 1 }
  let s := s.setRouter rx ry upd
  let s := s.setRouter rx ry fun t => { t with inj := t.inj.modify 0 (· ++ home.map (·.2)) }
  c2.sent.foldl (fun s x => s.sendPort rx ry x.1 x.2) s

/-- R81. -/
def execRouterCycle (r : Nat × Nat) (lost : List Nat) (s : State) : Out := .next (s.routerCycle (r.1 % 64) (r.2 % 64) lost)

end Sys2Proof.Machine
end

