-- ==== Sys2Proof/Machine/Flits.lean ====
section
/-!
DEFINITION. What arrives over the fabric (R77, R86 to R88, R219, R238, R242, R252, R348), the module-state table, the tellers' cycles
(R221), patrol scrubs (R399), the host's accesses to device memory (R237), and the steps of single cores that no word names.
-/
namespace Sys2Proof.Machine

/-- The arriving flit of a kind and tag leaves the ejection buffer of its router (R81). -/
def State.takeFlit (s : State) (kind : Nat) (tag : BitVec 12) : State :=
  let is (f : Flit) : Bool := f.kind == BitVec.ofNat 4 kind && f.tag == tag
  match s.routers.find? fun r => r.2.eject.any is with
  | none => s
  | some (k, _) => { s with routers := tmod Router.reset k (fun r => { r with eject := r.eject.eraseP is }) s.routers }

/-! ### Requests of other modules (R77, R86, R427) -/

/-- The core that a request for local memory names: logical core addr / 2^18 on physical core `core`. -/
def State.reqCore (s : State) (r : FabricReq) : Option Core :=
  s.allCores.find? fun c => c.present && c.lcn.toNat == r.addr / 2 ^ 18 && c.pcid % 2 ^ 14 == r.core % 2 ^ 14

/-- The home of the bytes that a request names, host memory through this module's hub among them (R198); none where there is no such core. -/
def State.reqHome (s : State) (r : FabricReq) : Option Home :=
  if r.space = 0 then some (.mem r.addr) else if r.space = 3 then some (.host r.addr) else (s.reqCore r).map fun c => .loc c.queue c.lcn.toNat (r.addr % 2 ^ 18)

/-- Where a reply for a home enters the torus. -/
def State.homeFrom (s : State) (h : Home) : Nat :=
  match h with
  | .mem _ | .host _ => yardCore (s.homeYard h)
  | .loc q l _ => ((s.allCores.find? fun c => c.present && c.queue == q && c.lcn.toNat == l).map (·.pcid)).getD (yardCore 0)

/-- Answer a request: reply kind 3, 4 or 5, or 6, a NACK with its code. -/
def State.replyTo (s : State) (r : FabricReq) (h : Home) (kind : Nat) (ws : List W64) : State :=
  s.emitFrom (s.homeFrom h) (.reply r.src r.srcInc r.tag kind ws)

/-- Serve a request with `k` when INC is this module's incarnation and its bytes exist; otherwise a NACK of code 7 or 8, and nothing
else changes. -/
def State.serveReq (s : State) (r : FabricReq) (kind : Nat) (k : Home → State → State) : State :=
  let s := s.takeFlit kind r.tag
  if r.inc ≠ s.inc then s.replyTo r (.mem 0) 6 [7] else
  match s.reqHome r with
  | none => s.replyTo r (.mem 0) 6 [8]
  | some h =>
    match h with
    | .mem a => if s.populated (a / 2 ^ 17) then k h s else s.replyTo r h 6 [8]
    | .loc _ _ _ | .host _ => k h s

/-- Bytes as doublewords, the last one filled with zeros. -/
def replyWords (bs : List Byte) : List W64 := (upTo (cdiv bs.length 8)).map fun i => w64 (ofBytes ((bs.drop (8 * i)).take 8))

/-- R86: a read request. An uncorrectable word is never forwarded (R401): the request stays unanswered. -/
def execReadRequestFlit (r : FabricReq) (s : State) : Out := .next <|
  s.serveReq r 0 fun h s =>
    let (ok, s) := s.consume h r.size
    if ok then s.replyTo r h 3 (replyWords (s.homeView h r.size)) else s

/-- R86: a write request; `full` is set by STFL, which fills the word (R194). -/
def execWriteRequestFlit (r : FabricReq) (data : List Byte) (full : Bool) (s : State) : Out := .next <|
  s.serveReq r 1 fun h s =>
    let s := s.homePut h data
    (if full then s.homeFull h else s).replyTo r h 4 [0]

/-- An atomic of another module on host memory goes over the host link as an AtomicOp: FetchAdd, Swap or CAS (R220). -/
def State.hostAtomic (s : State) (r : FabricReq) (op a : Nat) (x y : W64) : State :=
  let m := w64 (Memory.num s.hostMem a 8)
  ({ s with hostMem := Memory.write s.hostMem a (toBytes 8 (amoNew op m x y).toNat) } : State).replyTo r (.host a) 5 [m, 0]

/-- R220, R221: an atomic request joins the fabric port of its teller; a full port leaves it in the ejection buffer. One on a word that cannot be corrected
stays unanswered (R401). -/
def execAtomicRequestFlit (r : FabricReq) (op : Nat) (x y : W64) (origin : BitVec 58) (s : State) : Out := .next <|
  let t := match s.reqHome r with | some h => s.homeYard h | none => 0
  if 32 ≤ (((s.yard t).teller.ports.getD 2 []).length) then s else
  s.serveReq r 2 fun h s =>
    match h with
    | .host a => s.hostAtomic r op a x y
    | _ =>
    let (ok, s) := s.consume h (if op < 10 then 8 else 128)
    if !ok then s else
    s.setTeller (s.homeYard h) fun t => { t with ports := t.ports.modify 2 (· ++ [⟨op, h, x, y, origin, r.src, r.srcInc, r.tag, false⟩]) }

/-- R348: a message, or an event, for a core of this module; the reply says whether it was refused. -/
def execMessageFlit (r : FabricReq) (mtag : BitVec 16) (lcn : BitVec 26) (x y : W64) (s : State) : Out := .next <|
  s.serveReq { r with space := 1 } 7 fun h s =>
    match h with
    | .mem _ | .host _ => s
    | .loc q l _ =>
      if r.space = 2 then (s.signal q l (bf x 0 4)).replyTo r h 4 [0] else
      let (ok, s) := s.deliver q l ⟨x, y, lcn.toNat, mtag.toNat, none⟩
      s.replyTo r h 4 [b64 !ok]

/-- Write the bytes of a word that `mask` enables, and set the word full (R252, R242). -/
def State.fillWord (s : State) (q l off : Nat) (w : W64) (mask : Byte) : State :=
  let o := off / 8 * 8
  let bytes := toBytes 8 w.toNat
  ((upTo 8).foldl (fun s i => if mask.getLsbD i then s.homePut (.loc q l (o + i)) [bytes.getD i 0] else s) s).homeFull (.loc q l o)

/-- A flit for a word of the local memory of a core of this module, as a request. -/
def headReq (f : FlitHead) (core addr : Nat) : FabricReq := ⟨f.inc, f.tag, f.src, f.srcInc, 1, core, addr, 8⟩

/-- R252, R86: a word of copy data for a core of this module, with its byte enables. -/
def execCopyDataFlit (f : FlitHead) (core addr : Nat) (w : W64) (mask : Byte) (s : State) : Out := .next <|
  s.serveReq (headReq f core addr) 8 fun h s =>
    match h with
    | .mem _ | .host _ => s
    | .loc q l o => (s.fillWord q l o w mask).replyTo (headReq f core addr) h 4 [0]

/-- R242: a remote-completion flag, refused like a request when its incarnation is not this module's (log entry 16). -/
def execRemoteCompletionFlag (f : FlitHead) (core addr : Nat) (w : W64) (s : State) : Out := .next <|
  s.serveReq (headReq f core addr) 12 fun h s =>
    match h with
    | .mem _ | .host _ => s
    | .loc q l o => s.fillWord q l o w 0xFF

/-! ### Answers of other modules (R86, R87, R219, R238) -/

/-- The request with a tag, when the reply carries this module's incarnation; its entry goes. -/
def State.answered (s : State) (kind : Nat) (inc : BitVec 4) (tag : BitVec 12) (k : Req → State → State) : State :=
  let s := s.takeFlit kind tag
  if inc ≠ s.inc then s else
  match s.reqs.find? (·.tag == tag.toNat) with
  | none => s
  | some r => k r { s with reqs := s.reqs.erase r }

/-- The waiting request of a core has its reply. -/
def Core.reply (c : Core) (tag : Nat) (ws : List W64) : Core :=
  { c with far := c.far.map fun f => if f.tag = tag then { f with reply := some ws } else f }

/-- Its request was refused. -/
def Core.refused (c : Core) (tag code : Nat) : Core :=
  { c with far := c.far.map fun f => if f.tag = tag then { f with nack := some code } else f }

def portNo (n : Nat) : Fin 8 := ⟨n % 8, by omega⟩

/-- A posted store is performed at its target: it leaves the buffer, and the L1 keeps no older copy of its bytes (R228). -/
def Core.unpost (c : Core) (tag : Nat) : Core :=
  let c := match c.posted.find? (·.tag == tag) with
    | some e => c.dropL1 e.place e.bytes.length
    | none => c
  { c with posted := c.posted.filter (·.tag != tag) }

/-- A write of CREF was refused: the instruction that waits for its writes has the address and the code of the first such one. -/
def Core.unitRefused (c : Core) (va : W64) (code : Nat) : Core :=
  { c with far := c.far.map fun f => if f.nack = none then { f with nack := some code, reply := some [va] } else f }

/-- A posted store has failed (R238). -/
def Core.failPost (c : Core) (tag rsn pkg : Nat) : Core :=
  if c.posted.any (·.tag == tag) then { c.unpost tag with fstat := fstatFail c.fstat rsn pkg } else c

/-- An element of a read stream, or the acknowledgement of one of a write stream, has come. -/
def Core.element (c : Core) (u : ReqUse) (w : W64) : Core :=
  match u with
  | .stream n => c.setPort (portNo n) fun p => if p.bound then { p with fetched := p.fetched ++ [c.strExt n (toBytes (c.strSize n) w.toNat)] } else p
  | .streamW n => c.setPort (portNo n) fun p => { p with pushed := p.pushed.drop 1, idx := p.idx + 1 }
  | _ => c

/-- Its fault is held against it (R217). -/
def Core.elementFault (c : Core) (u : ReqUse) (code : Nat) : Core :=
  match u with
  | .stream n => c.setPort (portNo n) fun p => { p with held := some (xFault .load (c.strAddr n (p.idx + p.fetched.length)) code) }
  | .streamW n => c.setPort (portNo n) fun p => { p with held := some (xFault .store (c.strAddr n p.idx) code) }
  | _ => c

/-- A doubleword that an engine asked for has come, or its NACK. -/
def Core.engineGot (c : Core) (tag : Nat) (data : Option (List Byte)) (nack : Option Nat) : Core :=
  { c with erd := c.erd.map fun e => if e.tag = tag ∧ e.data = none ∧ e.nack = none then { e with data := data, nack := nack } else e }

/-- What an answer that carries data does to the core that waits for it. -/
def Core.answerTo (c : Core) (r : Req) (ws : List W64) : Core :=
  match r.use with
  | .posted => c.unpost r.tag
  | .stream _ => c.element r.use (ws.headD 0)
  | .streamW _ => c.element r.use (ws.headD 0)
  | .engine _ _ => c.engineGot r.tag (some (bytesOf ws)) none
  | .copy q _ _ _ _ => c.copyAck q
  | .mx q _ _ => c.mxAck q
  | .unit _ => c.dropL1 r.place r.size
  | .xchg | .wset => c
  | .load | .msg | .sev => c.reply r.tag ws

/-- R86: the data of a read reply lie in its low bytes; a line comes in several flits, and the step is that of the last. -/
def execReadReplyFlit (inc : BitVec 4) (tag : BitVec 12) (ws : List W64) (s : State) : Out := .next <|
  s.answered 3 inc tag fun r s => s.asIfCore r.q r.l fun c => c.answerTo r ws

/-- R238: a posted store is acknowledged; for a message `w` says whether it was refused (R349). -/
def execWriteAckFlit (inc : BitVec 4) (tag : BitVec 12) (w : W64) (s : State) : Out := .next <|
  s.answered 4 inc tag fun r s => s.asIfCore r.q r.l fun c => c.answerTo r [w]

/-- R219: the reply of an atomic. -/
def execAtomicReplyFlit (inc : BitVec 4) (tag : BitVec 12) (w v : W64) (s : State) : Out := .next <|
  s.answered 5 inc tag fun r s => s.asIfCore r.q r.l fun c => c.answerTo r [w, v]

/-- FSTAT in the record of a saved core follows (R238, R384). -/
def State.saveFstat (s : State) (q l : Nat) : State :=
  match s.find q l with
  | some i =>
    match s.peers[i]? with
    | some c => if c.st = .saved then s.savedPut c (0x300 + 8 * 0x1D) [c.fstat] else s
    | none => s
  | none => s

/-- RSN of a NACK (R238). -/
def nackRsn (down : Bool) (code : Nat) : Nat := if code = 8 then 5 else if down then 2 else 1

/-- R87, R427: a NACK ends a waiting access, is held against a stream element, fails a posted store, is deferred by an engine (R257, R321), or fails a
parcel (R366). -/
def execNackFlit (inc : BitVec 4) (tag : BitVec 12) (code : BitVec 4) (s : State) : Out := .next <|
  s.answered 6 inc tag fun r s =>
    match r.use with
    | .posted =>
      (s.asIfCore r.q r.l fun c => c.failPost r.tag (nackRsn (s.module r.place.peerKey.1).2 code.toNat) r.place.pkg).saveFstat r.q r.l
    | .stream _ => s.asIfCore r.q r.l fun c => c.elementFault r.use code.toNat
    | .streamW _ => s.asIfCore r.q r.l fun c => c.elementFault r.use code.toNat
    | .engine _ _ => s.asIfCore r.q r.l fun c => c.engineGot r.tag none (some code.toNat)
    | .copy q j k pos va => s.asIfCore r.q r.l fun c => c.copyNack q j k pos va code.toNat
    | .mx q row va => s.asIfCore r.q r.l fun c => c.mxNack q row va code.toNat
    | .xchg => s.failAt r.q r.l
    | .unit va => s.asIfCore r.q r.l fun c => c.unitRefused va code.toNat
    | .wset => s
    | .load | .msg | .sev => s.asIfCore r.q r.l fun c => c.refused r.tag code.toNat

/-- The store goes to host memory over this link: that of the function through which its context was created (R403), or one of another module's hub. -/
def Posted.overLink (e : Posted) (link : Nat) : Bool :=
  match e.place with
  | .host _ _ k => k == link
  | .far _ _ _ h _ => h
  | _ => false

/-- R238: a host link error fails a posted store of a core, to host memory. -/
def execHostLinkError (q l : Nat) (e : LinkErr) (s : State) : Out := .next <|
  match ((s.coreAt q l).bind fun c => c.posted[e.nth]?) with
  | none => s
  | some p =>
    if !p.overLink e.link then s else
    let s : State := { s with reqs := s.reqs.filter fun r => !(r.use == .posted && r.tag == p.tag) }
    (s.asIfCore q l fun c => { c with posted := c.posted.eraseIdx e.nth, fstat := fstatFail c.fstat 3 p.place.pkg }).saveFstat q l

/-! ### Modules and time (R87, R88, R362) -/

/-- Posted stores of a core that are outstanding at a module, sent or not, fail at once with RSN 2 (R240). -/
def Core.postedDown (c : Core) (pkg : Nat) : Core :=
  (c.posted.filter fun e => !e.place.here && e.place.peerKey.1 == pkg).foldl (fun c e => c.failPost e.tag 2 e.place.pkg) c

/-- R87, R240: the module is marked down, and every posted store that is outstanding there fails. -/
def execModuleMarkedDown (pkg : Nat) (s : State) : Out :=
  let lost := s.reqs.filter fun r => r.use == .posted && r.place.peerKey.1 == pkg
  let t : State := { s with modules := tmod (0, false) pkg (fun m => (m.1, true)) s.modules, reqs := s.reqs.filter fun r => !lost.contains r }
  .next (lost.foldl (fun t r => t.saveFstat r.q r.l) (t.mapCores (·.postedDown pkg)))

def execModuleRejoin (pkg : Nat) (inc : BitVec 4) (s : State) : Out := .next { s with modules := tset pkg (inc, false) s.modules }

/-- R362: CYC follows the beacon. -/
def execTimeBeacon (w : W64) (s : State) : Out := .next { s.takeFlit 10 0 with cyc := w }

/-! ### Tellers (R221) -/

def execTellerAccept (yard : Nat) (s : State) : Out := .next (s.setTeller yard Teller.accept)

def execTellerExecute (yard : Nat) (s : State) : Out := .next ((s.tellerRun yard).getD s)

/-! ### Memory: the scrubber and the host (R237, R399) -/

/-- A location as the check of its word has it: per 8 bytes (R398). -/
def errWord (e : ErrLoc) : ErrLoc :=
  match e with
  | .loc p o => .loc p (o / 8 * 8)
  | .mem k a => .mem k (a / 8 * 8)
  | .tile p w => .tile p (w / 2 * 2)
  | e => e

/-- The location is one of the die's that R398 checks, its error one that it can have (CXL poison is never corrected), and the finder one that reads it. -/
def errOk (die : Nat) (who : ErrRead) (e : ErrLoc) (err : Nat) : Bool :=
  errDie e == die
    && (match e with | .mem k _ => k == 2 || k == 3 || (k == 4 && err != 1) | _ => true)
    && (match who with
        | .gddr => (match e with | .mem 3 _ => true | _ => false)
        | .die => (match e with | .mem 2 _ => true | _ => false)
        | _ => true)

/-- A soft error strikes a word: 1 one that its code corrects, more one that it cannot; a second one stays what the word has. -/
def State.strike (s : State) (e : ErrLoc) (err : Nat) : State :=
  if err = 0 || s.bad.contains e then s
  else if err = 1 then (if s.soft.contains e then s else { s with soft := s.soft ++ [e] })
  else { s with bad := s.bad ++ [e], soft := s.soft.filter (· != e) }

/-- The physical core nearest to a location (R376); memory has none. -/
def errCore (e : ErrLoc) : Option Nat :=
  match e with
  | .loc p _ | .tile p _ => some p
  | .mem _ _ => none
  | .line n _ _ => some (Config.pkgX * 2 ^ 14 + n % 64 * 2 ^ 8 + n / 64 * 4)

/-- The scrubber or a write-back finds the word as it is: an uncorrectable one is counted and reported and stays as it is, another is corrected (R399). -/
def State.scrub (s : State) (e : ErrLoc) : State :=
  if s.bad.contains e then
    (s.eccCount (errDie e) 0 8).nocore (errDie e) s.unitCtx (errCore e) (errFault e ((errCore e).getD 0)).2
  else s.correct (· == e)

/-- R398 to R400: a soft error strikes a word, or none (`err` 0), and the scrubber or a write-back may find the word as it then is. -/
def execPatrolScrub (die : Nat) (who : ErrRead) (loc : ErrLoc) (err : Nat) (s : State) : Out := .next <|
  let e := errWord loc
  if !errOk die who e err then s else
  let s := s.strike e err
  if who = .nobody then s else s.scrub e

/-- An AtomicOp of the host enters port 3 of the teller of its word (R221); one that it cannot take yet comes again, and so does nothing. -/
def State.hostAmo (s : State) (link op addr : Nat) (x y : W64) : State :=
  match s.tellerNow 3 ⟨op, .mem addr, x, y, 0, 0, 0, 0, true⟩ with
  | some (v, _, _, s) => s.emit (.hostData link (toBytes 8 v.toNat))
  | none => s

/-- R237, R403: one access of the host to device memory at a physical address of the module: a read, a write, or an AtomicOp on a word, FetchAdd, Swap or CAS.
What is not populated reads zero and ignores writes, and an AtomicOp on no word is ignored (log entry 21); an uncorrectable word is not forwarded (R401). -/
def execHostDeviceMemoryAccess (link : Nat) (op : HostOp) (addr len : Nat) (data : List Byte) (s : State) : Out := .next <|
  let here := s.populated (addr / 2 ^ 17)
  match op with
  | .write => if here then { s with mem := Memory.write s.mem addr data } else s
  | .read =>
    if !here then s.emit (.hostData link (List.replicate len 0)) else
    let (ok, s) := s.consume (.mem addr) len
    if ok then s.emit (.hostData link (Memory.read s.mem addr len)) else s
  | .atomic k x y =>
    if 2 < k ∨ addr % 8 ≠ 0 then s
    else if !here then s.emit (.hostData link (List.replicate 8 0)) else
    let (ok, s) := s.consume (.mem addr) 8
    if ok then s.hostAmo link k addr x y else s

/-! ### Steps of one core (R5, R16, R22, R171, R178, R216, R340) -/

/-- R22: the condition of a waiting core may have become true, and it goes on: its instruction is tried again. -/
def execCoreWaitEnd (q l : Nat) (s : State) : Out := .next <|
  s.asIfCore q l fun c => if c.st = .waiting then { c with st := .running } else c

def execStreamFetch (q l n : Nat) (s : State) : Out := .next (s.asCore q l fun s => if s.core.st = .saved then s else s.strFetch (portNo n))

def execStreamElementWrite (q l n : Nat) (s : State) : Out := .next <|
  s.asCore q l fun s => if s.core.strWrite (n % 8) && s.core.st != .saved then s.strDrain1 (portNo n) else s

/-- R178: the probe of core c, a queue and a logical core, is answered, by a victim of this module or by one elsewhere with the entries `far`; or the probe
of a thief on another module reaches c. -/
def execStealProbe (c : Nat × Nat) (side : FarSteal) (s : State) : Out := .next <|
  match side with
  | .answer far => s.asCore c.1 c.2 fun s => s.stealServe.farAnswer far
  | .thief t => s.asCore c.1 c.2 (·.stolenFrom t)

/-- R16: the write set of the stolen task of core c returns; or, with `back`, that of a task that a core elsewhere took from c. -/
def execWriteSetReturn (c : Nat × Nat) (back : Option FarReturn) (s : State) : Out := .next <|
  match back with
  | none => s.asCore c.1 c.2 State.returnWrites
  | some b => s.asCore c.1 c.2 (·.writesBack b)

def execEpisodeComplete (q level dom : Nat) (far : List RemoteArrival) (s : State) : Out := .next (s.completeEpisode q level dom far)

/-- R171: no word came within 256 cycles. -/
def execGangWaitTimeout (q l : Nat) (s : State) : Out := .next <|
  s.asCore q l fun s => if s.core.gangWait.isSome then (s.gangLeave 6).setCore fun c => { c with st := .running } else s

/-- R132: a follower detaches: 1 the oldest buffered word's address is not its PC, 2 its buffer is full, 3 its leader no longer runs. -/
def State.detachFor (s : State) (why : Nat) : State :=
  let c := s.core
  let ok :=
    match why with
    | 1 => match c.fwd with | (a, _) :: _ => a != c.pc && c.gangWait.isNone | [] => false
    | 2 => decide (8 ≤ c.fwd.length)
    | 3 => !s.peers.any fun p => pcStable p.pcid == pcStable c.pcid && p.queue == c.queue && p.pcid % 4 == bf c.gangst 6 2 && (p.st == CoreSt.running || p.st == CoreSt.waiting)
    | _ => false
  if ok then (s.gangLeave why).setCore fun c => { c with st := if c.st = CoreSt.waiting then CoreSt.running else c.st } else s

def execGangDetach (q l why : Nat) (s : State) : Out := .next (s.asCore q l (·.detachFor why))

end Sys2Proof.Machine
end

