-- ==== Sys2Proof/Machine/Auto.lean ====
section
/-!
DEFINITION. What the model does when the schedule names nothing (log entry 1): a core that cannot go on lets its engines, the units that
serve it, the hub's work on its launch, and the other cores of the module go on. Each is one of the steps that the schedule can name.
-/
namespace Sys2Proof.Machine

/-- The passing of time in a step (log entry 4): CYC counts on by at least one. -/
def State.clock (s : State) : State := { s with cyc := s.cyc + 1#64 + Config.cycGap s.tick, tick := s.tick + 1 }

/-- The core can take a step. -/
def Core.live (c : Core) : Bool := c.st == .running || c.st == .waiting

/-- The current core's instruction has to end before the core can be saved (R55, R123): the target of a MOD prefix; a request of it is in flight. -/
def State.mustEnd (s : State) : Bool := s.core.modp.isSome || s.core.far.isSome || s.publishing || s.core.dack.isSome || s.core.wsret.isSome

/-- The first other core with an armed MOD prefix: its target issues with it (R164). -/
def State.armedPeer (s : State) : Option Nat := s.peers.findIdx? fun c => c.modp.isSome && c.st == .running

/-- The turn of another core when nothing is scheduled: each in its time. -/
def State.nextPeer (s : State) : Option Nat :=
  let n := s.peers.length
  if n = 0 ∨ s.tick % 2 = 0 then none else
  let i := s.tick / 2 % n
  match s.peers[i]? with
  | some c => if c.live then some i else none
  | none => none

/-- One step in sixteen is not that of the current core, though it could go on (R22, R352; log entry 1): a core that spins on what another core, or an
engine, has still to do keeps neither from doing it. -/
def State.othersTurn (s : State) : Bool := s.tick % 16 == 15

/-- The other core that has such a step, each in its time. -/
def State.turnPeer (s : State) : Option Nat :=
  match s.peers[s.tick / 32 % s.peers.length]? with
  | some c => if c.live then some (s.tick / 32 % s.peers.length) else none
  | none => none

/-- A piece of work that changes something. -/
def State.tryWork (s : State) (f : State → State) : Option State := let t := f s; if t = s then none else some t

/-- The first of some pieces of work that changes something. -/
def State.firstWork (s : State) (fs : List (State → State)) : Option State := (fs.filterMap s.tryWork).head?

/-- Work of a core's engines: the cochain unit, the matrix unit, the posted stores, the copy FIFO, the steal unit; of a saved core's, nothing (R260,
R324). -/
def State.coreWork (s : State) : Option State :=
  match s.cochWork with
  | some s => some s
  | none =>
  if s.core.st = .saved then none else
  s.firstWork ([State.mxStart, State.mxDone] ++ (if s.core.mx.queue = [] then [] else [State.mxStep])
    ++ [State.drain1, State.cfStart, fun s => if s.core.cfReady then s.cfYard (pcYard s.core.pcid) else s, State.cfFlag, State.returnWrites, State.stealServe])

/-- The same for any core of the module. -/
def State.anyCoreWork (s : State) : Option State :=
  match s.coreWork with
  | some s => some s
  | none => ((upTo s.peers.length).filterMap fun i => ((s.swap i).coreWork).map fun t => t.swap i).head?

/-- Work of the units of yards, dies and contexts: tellers, demand units, publishers. -/
def State.unitWork (s : State) : Option State :=
  s.firstWork (
    (s.yards.map fun y (s : State) => s.setTeller y.1 Teller.accept) ++ (s.yards.map fun y (s : State) => (s.tellerRun y.1).getD s)
    ++ (s.dies.map fun d (s : State) => s.demandServe d.1) ++ s.ctxs.map fun c (s : State) => s.servePublisher c.1)

/-- Episodes and exchanges of launches that lie on this module alone, and their retirement. -/
def State.launchWork (s : State) : Option State :=
  let eps := s.allCores.filterMap fun c => match c.arrival with
    | some a => if a.result = none then some (fun (s : State) => s.completeEpisode c.queue a.level (c.domAt a.level) []) else none
    | none => none
  let alone := s.queues.filter fun u => match u.2.launch with | some a => a.packages.all (· == Config.pkgX) | none => false
  s.firstWork (eps ++ (alone.map fun u (s : State) => s.completeExchange u.1 []) ++ alone.map fun u (s : State) => s.retireLaunch u.1)

/-- R76: a resident core of a folded launch that waits at an episode or exchange is saved. -/
def State.foldSave (s : State) : Option State :=
  (s.allCores.filter s.foldWaits).findSome? fun c => s.tryWork fun s => s.preempt c.queue c.lcn.toNat

/-- R76, R62: a saved core of an active launch comes back on its physical core when that is free: of a folded launch the next runnable one in
ascending SLOT order. -/
def State.backOn (s : State) (q : Nat) (a : Launch) (k : Nat) : Option State :=
  if s.busyCore k then none else (s.nextBack q a k).bind fun l => s.bringBack q l k

/-- The same for any physical core of any launch that holds its slot. -/
def State.comeBack (s : State) : Option State :=
  s.queues.findSome? fun u =>
    match u.2.launch with
    | none => none
    | some a => if !u.2.active || a.stage == 0 then none else (a.hereCores.map (·.2)).dedup.findSome? fun k => s.backOn u.1 a k

/-- Saves and restorations: cores of a launch that has lost its slot (R62), folding (R76), launches that have it again. -/
def State.placeWork (s : State) : Option State :=
  let lost := s.queues.filter fun u => u.2.launch.isSome && !u.2.active
  match s.firstWork (lost.map fun u (s : State) => (s.saveAll u.1).front) with
  | some s => some s
  | none =>
    match s.foldSave with
    | some s => some s
    | none => s.comeBack

/-- Work of an engine or unit that can go on by itself: the state after it. -/
def State.engineWork (s : State) : Option State :=
  match s.anyCoreWork with
  | some s => some s
  | none =>
  match s.unitWork with
  | some s => some s
  | none =>
  match s.launchWork with
  | some s => some s
  | none =>
  match s.nextWake with
  | some (q, x, y) => some (s.wakeRouter q x y)
  | none => s.placeWork

/-- Steps that go on while the compute dies are frozen (R397): those of the hub, the host and the management controller. -/
def hubStep (i : Instr) : Bool :=
  match i with
  | .contextCreate _ _ | .contextDestroy _ | .queueNotify _ _ | .queueErrClear _ | .launchRecord _ | .publishRecord _ | .nopRecord _
  | .publisherServe _ | .launchPlacement _ _ _ | .queueQuantumEnd | .launchRetirement _ | .tlbinv _ _ | .tlbinvDone _ | .hcmdResume _ _
  | .hcmdSkip _ _ | .hcmdKill _ _ | .hcmdAbt _ _ | .frheadWrite _ _ | .faultRecordDelivery | .readbackCoreImage _ _ | .readbackRaceArray _ _
  | .readbackTellerFlush _ _ | .mctpRead8 _ _ | .mctpWrite8 _ _ _ | .freeze _ _ _ | .attest _ _ | .bootstLoad | .ramptelClear
  | .lnkstatClear _ _ | .registerWrite _ _ _ | .powerControlTick _ _ | .coolantHot _ _ | .coolantRecover _ _ | .resetBoot _ _ _ _ _
  | .moduleMarkedDown _ | .hostDeviceMemoryAccess _ _ _ _ _ | .moduleRejoin _ _ | .pwrnowRead | .powerDown => true
  | _ => false

/-- A module without power does nothing but boot again (R411). -/
def bootStep (i : Instr) : Bool :=
  match i with
  | .resetBoot _ _ _ _ _ => true
  | _ => false

end Sys2Proof.Machine
end

