-- ==== Sys2Proof/Machine/Branch.lean ====
section
/-!
DEFINITION. Branches and jumps (R146 to R150), repeat frames (R165, R166), and the hint words (R128).
-/
namespace Sys2Proof.Machine

/-- Address of a branch target: the word's address + 4 * SEXT(off) (R113). -/
def target (pc : W64) {n : Nat} (off : BitVec n) : W64 := pc + (off.signExtend 64 <<< 2)

/-- A conditional branch (R146). -/
def br2 (a b : SReg) (o : BitVec 16) (f : W64 → W64 → Bool) (s : State) : State :=
  s.operands false [a, b] [] fun vs _ s =>
    if f (vs.getD 0 0) (vs.getD 1 0) then s.jump (target s.core.pc o) else s.retire

/-- A branch on a predicate (R147). -/
def brp (p : PReg) (o : BitVec 16) (inv : Bool) (s : State) : State :=
  if s.rp p != inv then s.jump (target s.core.pc o) else s.retire

def execBeq (a b : BitVec 5) (o : BitVec 16) (s : State) : Out := .next (br2 a b o (· == ·) s)
def execBne (a b : BitVec 5) (o : BitVec 16) (s : State) : Out := .next (br2 a b o (· != ·) s)
def execBlt (a b : BitVec 5) (o : BitVec 16) (s : State) : Out := .next (br2 a b o BitVec.slt s)
def execBge (a b : BitVec 5) (o : BitVec 16) (s : State) : Out := .next (br2 a b o (fun x y => !x.slt y) s)
def execBltu (a b : BitVec 5) (o : BitVec 16) (s : State) : Out := .next (br2 a b o BitVec.ult s)
def execBgeu (a b : BitVec 5) (o : BitVec 16) (s : State) : Out := .next (br2 a b o (fun x y => !x.ult y) s)
def execBpt (p : BitVec 3) (o : BitVec 16) (s : State) : Out := .next (brp p o false s)
def execBpf (p : BitVec 3) (o : BitVec 16) (s : State) : Out := .next (brp p o true s)
def execJ (o : BitVec 26) (s : State) : Out := .next (s.jump (target s.core.pc o))

/-- R148: JAL writes s1. -/
def execJal (o : BitVec 26) (s : State) : Out := .next ((s.wr 1#5 (s.core.pc + 4#64)).jump (target s.core.pc o))

/-- R149: a target that is not a multiple of 4 raises CAUSE 0x02 with nothing written. -/
def execJalr (d a : BitVec 5) (i : BitVec 16) (s : State) : Out := .next <|
  s.operands false [a] [d] fun vs s0 s =>
    let t := vs.getD 0 0 + i.signExtend 64
    if t &&& 3#64 ≠ 0#64 then s0.trap 0x02#8 t
    else (s.setCore fun c => c.out d (c.pc + 4#64)).jump t

/-- Open a frame of `len` words and n trips after the current word; with no trip nothing of it runs (R166). -/
def openFrame (len : BitVec 4) (x y z : BitVec 2) (n : Nat) (s : State) : State :=
  let k := if len = 0#4 then 16 else len.toNat
  let base := s.core.pc + 4#64
  if n = 0 then s.goto (base + w64 (4 * k))
  else (s.goto base).setCore fun c => { c with frame := some ⟨base, k, x ++ y ++ z, 0, 0, n - 1⟩ }

def execRpt (n : BitVec 4) (x y z : BitVec 2) (t : BitVec 16) (s : State) : Out := .next (openFrame n x y z t.toNat s)
def execRptr (n : BitVec 4) (x y z : BitVec 2) (b : BitVec 5) (s : State) : Out := .next <|
  s.operands false [b] [] fun vs _ s => openFrame n x y z (bf (vs.getD 0 0) 0 32) s

/-! ### Hints never write architectural state (R128); a position of a shadow, and nothing else -/

def execHnop (_d _a _b : BitVec 5) (_l : BitVec 4) (s : State) : Out := .next s.retire

/-- PREFL may bring a line into the L1 data cache: a far line of a page that the yard TLB already maps with R (R128, R233). -/
def execPrefl (_d a _b : BitVec 5) (_l : BitVec 4) (s : State) : Out := .next <|
  let va := (s.rd a).toNat
  match (s.yard (pcYard s.core.pcid)).tlb.find? (TlbE.hit · (s.ctxOf s.core) va) with
  | some e =>
    if va < winBase ∧ bit e.pte 3 ∧ bf e.pte 50 2 = 0 ∧ !bit e.pte 1 then
      match s.loadHere (.mem (bf e.pte 17 29 * 2 ^ 17 + (if e.big then va % 2 ^ 30 else va % 2 ^ 17)) 0) 1 with
      | .ok (_, s) => s.retire
      | .error _ => s.retire
    else s.retire
  | none => s.retire

/-- PREFD may bring a line into the die cache, which changes no result (R188). -/
def execPrefd (_d _a _b : BitVec 5) (_l : BitVec 4) (s : State) : Out := .next s.retire

/-- SPINH may pause issue: timing only. -/
def execSpinh (_d _a _b : BitVec 5) (_l : BitVec 4) (s : State) : Out := .next s.retire

end Sys2Proof.Machine
end

