-- ==== Sys2Proof/Machine/Cplx.lean ====
section
/-!
DEFINITION. The CPLX instructions (R295 to R299): residency, queries, refinement by edge bisection.
-/
namespace Sys2Proof.Machine

/-- Drop from the stable's complex cache the lines of the record at an address: CLOAD reads the record afresh. -/
def State.dropRec (s : State) (base : Nat) : State :=
  let n := s.ctxOf s.core
  s.setStable (pcStable s.core.pcid) fun t => { t with lines := t.lines.filter fun l => !(l.1.1 == n && l.1.2.1 == base) }

/-- The slot and record of a header (R38). -/
def slotOfHead (base : Nat) (h : List W64) : Slot := ⟨bf (h.getD 0 0) 0 16, bf (h.getD 0 0) 16 16, base, h.take 3⟩
def recOfHead (base : Nat) (h : List W64) (bytes : List Byte) : RecV :=
  let x := slotOfHead base h
  ⟨x.cplx, x.patch, base, x.n, (upTo 4).map x.owned, (upTo 4).map x.total, bytes, [], []⟩

/-- Doublewords of bytes. -/
def dwords (bs : List Byte) (n : Nat) : List W64 := (upTo n).map fun i => w64 (ofBytes ((bs.drop (8 * i)).take 8))

/-- Step 4 of CLOAD (R296): the record at `base` read and checked (R34); the reason of its failure, or its header. -/
def State.loadRec (s : State) (base : Nat) : Except (Nat ⊕ (Byte × W64)) (List W64 × State) :=
  match s.cplxLine base 0 with
  | .error e => .error (.inr e)
  | .ok (bs, s) =>
    let h := dwords bs 8
    let r0 := recOfHead base h bs
    let len := bf (h.getD 6 0) 0 32
    if !headOk base h then .error (.inl 2)
    else if !countsOk r0.n r0.owned r0.total then .error (.inl 3)
    else if !r0.tablesOk len then .error (.inl 4)
    else
      match s.fillLines base 0 (cdiv len 64) with
      | .error e => .error (.inr e)
      | .ok s =>
        match (recOfHead base h (s.recBytes base len)).bodyFail s.core.ncores.toNat with
        | some k => .error (.inl k)
        | none => .ok (h, s)

/-- R296: CLOAD; what its CFENCE has done stays when step 4 fails. -/
def execCload (d a : BitVec 5) (l : BitVec 4) (s : State) : Out := .next <|
  s.operandsL l false [a] [d] fun vs s0 s =>
    let va := (vs.getD 0 0).toNat
    if va % 64 ≠ 0 ∨ winBase ≤ va then s0.trapLT l (cplxTrap 0 0 2) else
    match (s.dropRec va).cplxLine va 0 with
    | .error e => s0.trapLT l (fillTrap 0 0 e)
    | .ok (bs, s) =>
      let dw0 := (dwords bs 1).getD 0 0
      let x := bf dw0 0 16
      let p := bf dw0 16 16
      if (s.core.slotOf x p).isSome then s0.trapLT l (cplxTrap x p 0x0D) else
      match (upTo 4).find? fun i => s.core.slots.getD i none == none with
      | none => s0.trapLT l (cplxTrap x p 0x0C)
      | some k =>
        let s := s.drainAll
        if !s.core.posted.isEmpty then s0.drainAll.waitL l else
        let s := (s.dropRecordLines.dropRec va)
        let fail (t : Trap) : State := ({ s with core := { s.core with ports := s0.core.ports } } : State).trapLT l t
        match s.loadRec va with
        | .error (.inl k) => fail (cplxTrap x p k)
        | .error (.inr e) => fail (fillTrap x p e)
        | .ok (h, s) =>
          (s.setCore fun c => { c with slots := c.slots.set k (some (slotOfHead va h)) }).landL l [.s d (w64 k)]

/-- The patch that an operand names (R295): its ids, and its slot. -/
def Core.named2 (c : Core) (x : W64) : Nat × Nat × Option Slot :=
  let i := bf x 0 16
  let p := bf x 16 16
  (i, p, if bf x 32 32 = 0 then c.slotOf i p else none)

/-- R297: CDROP; it issues when no cochain instruction is queued. -/
def execCdrop (a : BitVec 5) (l : BitVec 4) (s : State) : Out := .next <|
  s.operandsL l false [a] [] fun vs s0 s =>
    match s.core.named2 (vs.getD 0 0) with
    | (i, p, none) => s0.trapLT l (cplxTrap i p 1)
    | (i, p, some _) =>
      let is (o : Option Slot) : Bool := match o with | some x => x.cplx == i && x.patch == p | none => false
      (s.setCore fun c => { c with slots := c.slots.map fun o => if is o then none else o }).landL l []

/-- R297: CQUERY. -/
def execCquery (d a b : BitVec 5) (l : BitVec 4) (s : State) : Out := .next <|
  s.operandsL l false [a, b] [d] fun vs s0 s =>
    let q := vs.getD 1 0
    let sel := bf q 16 2
    let k := bf q 12 2
    let i := bf q 0 12
    let ones : W64 := BitVec.allOnes 64
    let (ci, pi, slot) := s.core.named2 (vs.getD 0 0)
    if q &&& ~~~0x33FFF#64 ≠ 0#64 then s.landL l [.s d ones]
    else if sel = 3 then
      let n := (upTo 4).find? fun n => match s.core.slots.getD n none with | some x => slot == some x | none => false
      s.landL l [.s d (w64 (match n with | some n => n + 1 | none => 0))]
    else
      match slot with
      | none => s0.trapLT l (cplxTrap ci pi 1)
      | some x =>
        if (if sel = 0 then decide (8 ≤ i) else decide (x.total k ≤ i)) then s.landL l [.s d ones] else
        if sel = 0 then
          match s.cplxLine x.base 0 with
          | .error e => s0.trapLT l (fillTrap ci pi e)
          | .ok (bs, s) => s.landL l [.s d ((dwords bs 8).getD i 0)]
        else
        if sel = 2 ∧ i < x.owned k then s.landL l [.s d 0] else
        match s.useRec x (fun r => [(if sel = 1 then r.gidAt k i else r.ghAt k i, 8)]) with
        | .error t => s0.trapLT l t
        | .ok (r, s) => s.landL l [.s d (if sel = 1 then w64 (r.gid k i) else r.ghost k i)]

/-! ### CREF (R298, R299) -/

/-- A fine element (R299): its vertices by ascending id, its id, its parent in the coarse patch, whether it inherits the parent's index, and
its kind and half. -/
structure Fine where
  ids : List Nat
  gid : Nat
  kind : Nat
  half : Bool
  pdeg : Nat
  par : Nat
  keeps : Bool
deriving DecidableEq, Repr

/-- The marked edge of triangle t, if one is. -/
def RecV.markedOf (r : RecV) (mark : Nat → Bool) (t : Nat) : List Nat := ((upTo 3).map (r.facet 2 t)).filter mark

/-- The fine elements of degree k. -/
def RecV.refine (r : RecV) (mark : Nat → Bool) (k : Nat) : List Fine :=
  let B := 2 ^ 39
  let mid (e : Nat) : Nat := B + r.gid 1 e
  let copies := (upTo (r.tot k)).map fun j => (⟨r.ids k j, r.gid k j, 0, false, k, j, true⟩ : Fine)
  let tris := (upTo (r.tot 2)).filterMap fun t =>
    match r.markedOf mark t with
    | e :: _ =>
      let es := r.ids 1 e
      some (t, e, es.getD 0 0, es.getD 1 0, ((r.ids 2 t).filter fun v => !es.contains v).headD 0)
    | [] => none
  match k with
  | 0 => copies ++ ((upTo (r.tot 1)).filter mark).map fun e => ⟨[mid e], mid e, 1, false, 1, e, false⟩
  | 1 =>
    (copies.filter fun f => !mark f.par) ++
    ((upTo (r.tot 1)).filter mark).flatMap (fun e =>
      let es := r.ids 1 e
      [⟨[es.getD 0 0, mid e], B + 2 * r.gid 1 e, 2, false, 1, e, true⟩, ⟨[es.getD 1 0, mid e], B + 2 * r.gid 1 e + 1, 2, true, 1, e, false⟩]) ++
    tris.map fun (t, e, _, _, c) => ⟨[c, mid e], B + 2 ^ 38 + r.gid 2 t, 3, false, 2, t, false⟩
  | _ =>
    (copies.filter fun f => r.markedOf mark f.par == []) ++
    tris.flatMap fun (t, e, a, b, c) =>
      [⟨sortNat [a, c, mid e], B + 2 * r.gid 2 t, 3, false, 2, t, true⟩, ⟨sortNat [b, c, mid e], B + 2 * r.gid 2 t + 1, 3, false, 2, t, false⟩]

/-- Insert by a key, ascending. -/
def insertBy (f : Fine → Nat) (x : Fine) : List Fine → List Fine
  | [] => [x]
  | y :: ys => if f y ≤ f x then y :: insertBy f x ys else x :: y :: ys
def sortBy (f : Fine → Nat) (l : List Fine) : List Fine := l.foldl (fun a x => insertBy f x a) []

/-- The fine elements of degree k by local index (R299), the owned ones first, and how many those are. -/
def RecV.fineList (r : RecV) (mark : Nat → Bool) (k : Nat) : List Fine × Nat :=
  let all := r.refine mark k
  let own (f : Fine) : Bool := decide (f.par < r.own f.pdeg)
  let order (p : Fine → Bool) : List Fine :=
    sortBy (·.par) (all.filter fun f => p f && f.keeps) ++ sortBy (·.gid) (all.filter fun f => p f && !f.keeps)
  let o := order own
  (o ++ order fun f => !own f, o.length)

/-- Ghost entry of a fine ghost (R299). -/
def RecV.fineGhost (r : RecV) (f : Fine) : W64 :=
  let g := r.ghost f.pdeg f.par
  if f.keeps then g else w64 (bf g 0 26 + 0xFFF * 2 ^ 26)

/-- FP32 bits of the RNE mean; of coordinates that stores have made infinite or NaN, as R153 and R90 give the sum. -/
def meanBits (x y : Nat) : Nat := (fp32.round 0#2 0 false (half (sumTerms false [fp32.read x, fp32.read y]).1)).1

/-- A list of 32-bit words packed into doublewords, zero at the end. -/
def packWords : List Nat → List W64
  | [] => []
  | [a] => [w64 a]
  | a :: b :: r => w64 (a + b * 2 ^ 32) :: packWords r

/-- The output record of CREF: header and tables in the order of R33 (log entry 15). The entries of a fine element are free, from `u`, where stores have made
its parent in the source record malformed (R40; log entry 7). -/
def RecV.output (r : RecV) (mark : Nat → Bool) (newCplx : Nat) (u : Nat → W64) : List W64 :=
  let free (t : Nat) (l : List (Fine × W64)) : List W64 :=
    l.zipIdx.map fun x => if r.isBad x.1.1.pdeg x.1.1.par then u (2 ^ 20 * t + x.2) else x.1.2
  let words (t : Nat) (l : List (Fine × Nat)) : List W64 := packWords ((free t (l.map fun x => (x.1, w64 x.2))).map fun w => bf w 0 32)
  let degs := upTo (r.n + 1)
  let ls := degs.map fun k => r.fineList mark k
  let fl (k : Nat) : List Fine := (ls.getD k ([], 0)).1
  let own (k : Nat) : Nat := (ls.getD k ([], 0)).2
  let find (k : Nat) (ids : List Nat) : Nat := (fl k).findIdx fun f => f.ids == ids
  let inc (k : Nat) (f : Fine) : W64 :=
    w64 (((upTo (k + 1)).foldl (fun a i => a + find (k - 1) (f.ids.eraseIdx i) * 2 ^ (12 * i)) 0) + 2 * 2 ^ 48)
  let rm (f : Fine) : W64 := w64 (f.half.toNat * 2 ^ 16 + f.kind * 2 ^ 14 + f.pdeg * 2 ^ 12 + f.par)
  let met (f : Fine) : Nat := if f.kind = 0 then r.metric f.pdeg f.par else 0x3F800000
  let crd (f : Fine) : List Nat := (upTo 3).map fun x =>
    if f.kind = 0 then r.crd f.par x else let vs := r.verts 1 f.par; meanBits (r.crd (vs.getD 0 0) x) (r.crd (vs.getD 1 0) x)
  let all := degs.flatMap fl
  let tInc := free 1 ((degs.drop 1).flatMap fun k => (fl k).map fun f => (f, inc k f))
  let tGid := free 2 (all.map fun f => (f, w64 f.gid))
  let tGh := free 3 (degs.flatMap fun k => ((fl k).drop (own k)).map fun f => (f, r.fineGhost f))
  let tMet := words 4 (all.map fun f => (f, met f))
  let tCrd := words 5 ((fl 0).flatMap fun f => (crd f).map fun x => (f, x))
  let tRm := free 6 (all.map fun f => (f, rm f))
  let o1 := 64 + 8 * tInc.length
  let o2 := o1 + 8 * tGid.length
  let o3 := o2 + 8 * tGh.length
  let o4 := o3 + 8 * tMet.length
  let o5 := o4 + 8 * tCrd.length
  let counts (f : Nat → Nat) : W64 := w64 (degs.foldl (fun a k => a + f k * 2 ^ (13 * k)) 0)
  [w64 (2 ^ 40 + 2 ^ 36 + r.n * 2 ^ 32 + r.patch * 2 ^ 16 + newCplx), counts own, counts fun k => (fl k).length,
    w64 (o1 * 2 ^ 32 + 64), w64 (o3 * 2 ^ 32 + o2), w64 (o5 * 2 ^ 32 + o4), w64 (o5 + 8 * tRm.length), 0]
    ++ tInc ++ tGid ++ tGh ++ tMet ++ tCrd ++ tRm

/-- The first code of R298 that applies, given the descriptor's doublewords; `none` when CREF writes its record. -/
def crefCode (c : Core) (r : RecV) (dws : List W64) (mark : Nat → Bool) (out : List W64) : Option Nat :=
  let d (i : Nat) : W64 := dws.getD i 0
  let any (k : Nat) (p : Nat → Bool) : Bool := (upTo (r.tot k)).any p
  if bf (d 0) 48 16 ≠ 0 ∨ bf (d 2) 18 14 ≠ 0 ∨ d 3 ≠ 0#64 ∨ (d 1).toNat % 64 ≠ 0 ∨ c.lmin < bf (d 2) 0 18 + cdiv (r.tot 1) 8 then some 1
  else if r.n = 0 ∨ r.n = 3 ∨ r.rmapOn then some 2
  else if any 2 fun t => decide (2 ≤ (r.markedOf mark t).length) then some 3
  else if any 1 (fun e => mark e && decide (2 ^ 37 ≤ r.gid 1 e)) || any 2 (fun t => r.markedOf mark t != [] && decide (2 ^ 38 ≤ r.gid 2 t)) then some 4
  else if (upTo 3).any fun k => decide (4096 < (r.fineList mark k).1.length) then some 5
  else if bf (d 2) 32 32 < 8 * out.length then some 6
  else if r.degs.any fun k => any k fun j => decide (2 ^ 39 ≤ r.gid k j) then some 7
  else none

/-- Writes of the current core's CREF that other modules have not acknowledged. -/
def State.unitWaits (s : State) : Bool :=
  s.reqs.any fun r => r.q == s.core.queue && r.l == s.core.lcn.toNat && (match r.use with | .unit _ => true | _ => false)

/-- Step 2 of CREF: the record leaves, behind the core's earlier stores, and CREF completes when it is performed (R298); `s0` is the state before the
instruction, `va` its descriptor. -/
def State.crefWrite (s s0 : State) (l : BitVec 4) (d : SReg) (va out : W64) (ws : List W64) : State :=
  let s := s.drainAll
  if !s.core.posted.isEmpty then s0.drainAll.waitL l else
  match s.unitPut out ws with
  | .error f => s0.trapL l f.1 f.2
  | .ok s =>
    if !s.unitWaits then s.landL l [.s d (w64 (8 * ws.length))] else
    (s.setCore fun c => { c with ports := s0.core.ports, far := some ⟨0, va.toNat, (0, 0, 0), false, [], false, some [w64 (8 * ws.length)], none⟩ }).waitL l

/-- R298, R299: CREF. Its descriptor and its mask are read behind the core's own stores (R229). -/
def execCref (d a : BitVec 5) (l : BitVec 4) (s : State) : Out := .next <|
  s.operandsL l false [a] [d] fun vs s0 s =>
    let va := vs.getD 0 0
    let fault (f : Byte × W64) : State := s0.trapL l f.1 f.2
    match s0.core.far.filter (·.va == va.toNat) with
    | some f =>
      if s.unitWaits then s0.waitL l else
      let x := (f.reply.getD []).getD 0 0
      (match f.nack with
       | some n => fault (nackFault .store x n)
       | none => s.landL l [.s d x])
    | none =>
    if !s.core.isOwn va.toNat then fault (xFault .load va 6) else
    let s := if s.core.ownPosted then s.drainAll else s
    if s.core.ownPosted then s0.drainAll.waitL l else
    match s.unitDws va 4 with
    | .error f => fault f
    | .ok (dws, s) =>
      let dw0 := dws.getD 0 0
      match s.core.slotOf (bf dw0 0 16) (bf dw0 16 16) with
      | none => s0.trapLT l (cplxTrap (bf dw0 0 16) (bf dw0 16 16) 1)
      | some x =>
        match s.useRec x (fun r => r.tables) with
        | .error t => s0.trapLT l t
        | .ok (r, s) =>
          let m := bf (dws.getD 2 0) 0 18
          let mark (e : Nat) : Bool := (s.core.locByte (m + e / 8)).toNat / 2 ^ (e % 8) % 2 == 1
          let small := r.n == 1 || r.n == 2
          let out := if small then r.output mark (bf dw0 32 16) (Config.freeBits s.tick) else []
          match crefCode s.core r dws mark out with
          | some k => s.landL l [.s d (w64 k)]
          | none =>
            let o := dws.getD 1 0
            if winBase ≤ o.toNat then fault (xFault .store o (match s.xlat false .store o with | .error k => k | .ok _ => 6)) else
            s.crefWrite s0 l d va o out

end Sys2Proof.Machine
end

