-- ==== Sys2Proof/Machine/Fp.lean ====
section
/-!
DEFINITION. The scalar floating-point instructions (R152 to R161).
-/
namespace Sys2Proof.Machine

/-- FPOP (R152): exact operation, MOD or plain rounding, flags and the SRBASE advance; `draws` says whether it draws in SR mode (R161),
`mac` that s[d] is its addend (R154). -/
def fpop (d a b : SReg) (la : BitVec 4) (draws mac : Bool) (f : Bool → Val → Val → Val → Val × Fl) (s : State) : State :=
  s.operandsL la mac [a, b] [d] fun vs _ s =>
    let c := s.core
    let A := f32 (vs.getD 0 0)
    let B := f32 (vs.getD 1 0)
    let C := f32 (c.rd d)
    let mode := c.frmMode
    let (u, c1) := if draws || c.modp.isSome then c.drawFp else (0, c)
    let rd := mode == 2#2
    let (r, fl) :=
      match c.modp with
      | none =>
        let (v, f1) := f rd A B C
        let (r, f2) := fp32.round mode u false v
        (r, f1.or f2)
      | some m =>
        let (v, f1) := f rd (m.onAV A) (m.onBV B) C
        let (r, f2) := fp32.round mode u m.sat (m.onV (f32 (c.bounds m).1) (f32 (c.bounds m).2) v)
        (r, f1.or f2)
    ({ s with core := c1.raise fl }).landL la [.s d (w64 r)]

/-- A one-operand instruction that MOD cannot precede: result bits and flags from the source register, mode and draw. -/
def fp1 (d a : SReg) (la : BitVec 4) (draws : Bool) (f : RMode → Nat → W64 → Nat × Fl) (s : State) : State :=
  s.operandsL la false [a] [d] fun vs _ s =>
    let c := s.core
    let (u, c1) := if draws then c.drawFp else (0, c)
    let (r, fl) := f c.frmMode u (vs.getD 0 0)
    ({ s with core := c1.raise fl }).landL la [.s d (w64 r)]

/-- FRND (R156). -/
def frndV (mode : RMode) (u : Nat) (v : Val) : Nat × Fl :=
  match v with
  | .fin s x =>
    let (r, nx) := roundAt s x 0 mode u
    ((fp32.round 0#2 0 false (.fin s (.dy r 0))).1, { nx := nx })
  | w => ((fp32.round 0#2 0 false w.quiet).1, { nv := w.isSnan })

/-- FCLASS (R157): which of the ten classes. -/
def fclassV (v : Val) : Nat :=
  match v with
  | .nan _ _ => if v.isSnan then 8 else 9
  | .inf s => if s then 0 else 7
  | .fin s x =>
    if x.isZero then (if s then 3 else 4)
    else if x.lg < -126 then (if s then 2 else 5) else (if s then 1 else 6)

/-- Conversion between floating-point formats (R101, R158). -/
def cvtFp (src dst : FpFmt) (mode : RMode) (u : Nat) (x : W64) : Nat × Fl :=
  let v := src.read (bf x 0 (1 + src.eb + src.fb))
  let (r, fl) := dst.round mode u false v.quiet
  (r, fl.or { nv := v.isSnan })

def execFadd (d a b : BitVec 5) (l : BitVec 4) (s : State) : Out := .next (fpop d a b l true false (fun rd x y _ => addV rd x y) s)
def execFsub (d a b : BitVec 5) (l : BitVec 4) (s : State) : Out := .next (fpop d a b l true false (fun rd x y _ => subV rd x y) s)
def execFmul (d a b : BitVec 5) (l : BitVec 4) (s : State) : Out := .next (fpop d a b l true false (fun _ x y _ => mulV x y) s)
def execFdiv (d a b : BitVec 5) (l : BitVec 4) (s : State) : Out := .next (fpop d a b l true false (fun _ x y _ => divV x y) s)
def execFsqrt (d a : BitVec 5) (l : BitVec 4) (s : State) : Out := .next (fpop d a 0#5 l true false (fun _ x _ _ => sqrtV x) s)
def execFmac (d a b : BitVec 5) (l : BitVec 4) (s : State) : Out := .next (fpop d a b l true true (fun rd x y z => fmaV rd false x y z) s)
def execFmin (d a b : BitVec 5) (l : BitVec 4) (s : State) : Out := .next (fpop d a b l false false (fun _ x y _ => minV x y) s)
def execFmax (d a b : BitVec 5) (l : BitVec 4) (s : State) : Out := .next (fpop d a b l false false (fun _ x y _ => maxV x y) s)
def execFrnd (d a : BitVec 5) (l : BitVec 4) (s : State) : Out := .next (fp1 d a l true (fun mode u x => frndV mode u (f32 x)) s)
def execFclass (d a : BitVec 5) (l : BitVec 4) (s : State) : Out := .next (fp1 d a l false (fun _ _ x => (2 ^ fclassV (f32 x), .none)) s)
def execFcvtWS (d a : BitVec 5) (l : BitVec 4) (s : State) : Out := .next <|
  fp1 d a l true (fun mode u x =>
    let (r, fl) := satMant 0 (-2 ^ 31) (2 ^ 31 - 1) false mode u (f32 x)
    (mantBits 32 r, fl)) s
def execFcvtSW (d a : BitVec 5) (l : BitVec 4) (s : State) : Out := .next <|
  fp1 d a l true (fun mode u x => fp32.round mode u false (.int (sext (bf x 0 32) 32) 0)) s
def execFcvtSBf (d a : BitVec 5) (l : BitVec 4) (s : State) : Out := .next (fp1 d a l true (cvtFp bf16 fp32) s)
def execFcvtBfS (d a : BitVec 5) (l : BitVec 4) (s : State) : Out := .next (fp1 d a l true (cvtFp fp32 bf16) s)
def execFcvtSH (d a : BitVec 5) (l : BitVec 4) (s : State) : Out := .next (fp1 d a l true (cvtFp fp16 fp32) s)
def execFcvtHS (d a : BitVec 5) (l : BitVec 4) (s : State) : Out := .next (fp1 d a l true (cvtFp fp32 fp16) s)
def execFcvtSE4 (d a : BitVec 5) (l : BitVec 4) (s : State) : Out := .next (fp1 d a l true (cvtFp e4m3 fp32) s)
def execFcvtE4S (d a : BitVec 5) (l : BitVec 4) (s : State) : Out := .next (fp1 d a l true (cvtFp fp32 e4m3) s)
def execFcvtSE5 (d a : BitVec 5) (l : BitVec 4) (s : State) : Out := .next (fp1 d a l true (cvtFp e5m2 fp32) s)
def execFcvtE5S (d a : BitVec 5) (l : BitVec 4) (s : State) : Out := .next (fp1 d a l true (cvtFp fp32 e5m2) s)

end Sys2Proof.Machine
end

