-- ==== Sys2Proof/Machine/Scalar.lean ====
section
/-!
DEFINITION. The integer, immediate, predicate and Mint instructions (R137 to R145, R162, R163).
-/
namespace Sys2Proof.Machine

/-! ### Shared shapes -/

/-- A two-operand integer instruction (R137). -/
def int2 (d a b : SReg) (plain : W64 → W64 → W64) (uns : Bool) (f : Int → Int → Int) (s : State) : State :=
  s.operands false [a, b] [d] fun vs _ s => s.finish d (s.core.intResult plain uns f (vs.getD 0 0) (vs.getD 1 0))

/-- A long-latency integer instruction (R116, R137). -/
def int2L (d a b : SReg) (la : BitVec 4) (plain : W64 → W64 → W64) (uns : Bool) (f : Int → Int → Int) (s : State) : State :=
  s.operandsL la false [a, b] [d] fun vs _ s =>
    s.landL la [.s d (s.core.intResult plain uns f (vs.getD 0 0) (vs.getD 1 0))]

/-- A one-operand integer instruction (R137, R142). -/
def int1 (d a : SReg) (f : W64 → W64) (s : State) : State :=
  s.operands false [a] [d] fun vs _ s => s.finish d (f (vs.getD 0 0))

/-- A predicate instruction on two scalars (R144). -/
def cmp2 (p : PReg) (a b : SReg) (f : W64 → W64 → Bool) (s : State) : State :=
  s.operands false [a, b] [] fun vs _ s => (s.wp p (f (vs.getD 0 0) (vs.getD 1 0))).retire

/-- An FP32 comparison with its flags (R145). -/
def fcmp2 (p : PReg) (a b : SReg) (f : Val → Val → Bool × Fl) (s : State) : State :=
  s.operands false [a, b] [] fun vs _ s =>
    let (r, fl) := f (f32 (vs.getD 0 0)) (f32 (vs.getD 1 0))
    ((s.setCore (·.raise fl)).wp p r).retire

/-- A predicate instruction on two predicates (R144). -/
def pred2 (p a b : PReg) (f : Bool → Bool → Bool) (s : State) : State := (s.wp p (f (s.rp a) (s.rp b))).retire

/-! ### Results (R137 to R143) -/

/-- The amount of a shift or rotate (R138). -/
def amt (y : W64) : Nat := bf y 0 6

/-- The amount, of an operand that MOD may have changed. -/
def amtI (y : Int) : Nat := amt (i64 y)

def sllW (x y : W64) : W64 := x <<< amt y
def srlW (x y : W64) : W64 := x >>> amt y
def sraW (x y : W64) : W64 := x.sshiftRight (amt y)
def rolW (x y : W64) : W64 := x.rotateLeft (amt y)
def rorW (x y : W64) : W64 := x.rotateRight (amt y)
def sltW (x y : W64) : W64 := b64 (x.slt y)
def sltuW (x y : W64) : W64 := b64 (x.ult y)
def minW (x y : W64) : W64 := if x.slt y then x else y
def maxW (x y : W64) : W64 := if x.slt y then y else x
def minuW (x y : W64) : W64 := if x.ult y then x else y
def maxuW (x y : W64) : W64 := if x.ult y then y else x
def mulhW (x y : W64) : W64 := i64 ((x.toInt * y.toInt).fdiv (2 ^ 64))
def mulhuW (x y : W64) : W64 := w64 (x.toNat * y.toNat / 2 ^ 64)

/-- R139: division never traps. -/
def divW (x y : W64) : W64 := if y = 0#64 then BitVec.allOnes 64 else i64 (x.toInt.tdiv y.toInt)
def divuW (x y : W64) : W64 := if y = 0#64 then BitVec.allOnes 64 else x / y
def remW (x y : W64) : W64 := if y = 0#64 then x else i64 (x.toInt.tmod y.toInt)
def remuW (x y : W64) : W64 := if y = 0#64 then x else x % y

/-- Leading zeros of the low n bits. -/
def clzGo (x : W64) : Nat → Nat
  | 0 => 0
  | n + 1 => if x.getLsbD n then 0 else clzGo x n + 1

/-- Trailing zeros from bit `i` on, over n bits. -/
def ctzGo (x : W64) (i : Nat) : Nat → Nat
  | 0 => 0
  | n + 1 => if x.getLsbD i then 0 else ctzGo x (i + 1) n + 1

def clzW (x : W64) : W64 := w64 (clzGo x 64)
def ctzW (x : W64) : W64 := w64 (ctzGo x 0 64)
def popcW (x : W64) : W64 := w64 ((upTo 64).countP x.getLsbD)
def bswapW (x : W64) : W64 := w64 (ofBytes (toBytes 8 x.toNat).reverse)
def sextW (n : Nat) (x : W64) : W64 := (x.setWidth n).signExtend 64
def zextW (n : Nat) (x : W64) : W64 := (x.setWidth n).setWidth 64
def sxImm (i : BitVec 16) : W64 := i.signExtend 64
def zxImm (i : BitVec 16) : W64 := i.setWidth 64
def luiW (i : BitVec 16) : W64 := ((i ++ 0#16 : BitVec 32)).signExtend 64
def inshW (x : W64) (i : BitVec 16) : W64 := (x <<< 16) ||| zxImm i

/-- An exact value of the bitwise and right-shifting operations under MOD: the 64-bit result read as signed (R141). -/
def viaW (f : W64 → W64 → W64) (x y : Int) : Int := (f (i64 x) (i64 y)).toInt

/-! ### INT -/

def execAdd (d a b : BitVec 5) (s : State) : Out := .next (int2 d a b (· + ·) false (· + ·) s)
def execSub (d a b : BitVec 5) (s : State) : Out := .next (int2 d a b (· - ·) false (· - ·) s)
def execAnd (d a b : BitVec 5) (s : State) : Out := .next (int2 d a b (· &&& ·) false (viaW (· &&& ·)) s)
def execOr (d a b : BitVec 5) (s : State) : Out := .next (int2 d a b (· ||| ·) false (viaW (· ||| ·)) s)
def execXor (d a b : BitVec 5) (s : State) : Out := .next (int2 d a b (· ^^^ ·) false (viaW (· ^^^ ·)) s)
def execAndn (d a b : BitVec 5) (s : State) : Out := .next (int2 d a b (fun x y => x &&& ~~~y) false (viaW fun x y => x &&& ~~~y) s)
def execOrn (d a b : BitVec 5) (s : State) : Out := .next (int2 d a b (fun x y => x ||| ~~~y) false (viaW fun x y => x ||| ~~~y) s)
def execSll (d a b : BitVec 5) (s : State) : Out := .next (int2 d a b sllW false (fun x y => x * 2 ^ amtI y) s)
def execSrl (d a b : BitVec 5) (s : State) : Out := .next (int2 d a b srlW false (viaW srlW) s)
def execSra (d a b : BitVec 5) (s : State) : Out := .next (int2 d a b sraW false (viaW sraW) s)
def execRol (d a b : BitVec 5) (s : State) : Out := .next (int2 d a b rolW false (viaW rolW) s)
def execRor (d a b : BitVec 5) (s : State) : Out := .next (int2 d a b rorW false (viaW rorW) s)
def execSlt (d a b : BitVec 5) (s : State) : Out := .next (int2 d a b sltW false (fun x y => if x < y then 1 else 0) s)
def execSltu (d a b : BitVec 5) (s : State) : Out := .next (int2 d a b sltuW true (fun x y => if x < y then 1 else 0) s)
def execMin (d a b : BitVec 5) (s : State) : Out := .next (int2 d a b minW false Min.min s)
def execMax (d a b : BitVec 5) (s : State) : Out := .next (int2 d a b maxW false Max.max s)
def execMinu (d a b : BitVec 5) (s : State) : Out := .next (int2 d a b minuW true Min.min s)
def execMaxu (d a b : BitVec 5) (s : State) : Out := .next (int2 d a b maxuW true Max.max s)
def execMul (d a b : BitVec 5) (l : BitVec 4) (s : State) : Out := .next (int2L d a b l (· * ·) false (· * ·) s)
def execMulh (d a b : BitVec 5) (l : BitVec 4) (s : State) : Out := .next (int2L d a b l mulhW false (viaW mulhW) s)
def execMulhu (d a b : BitVec 5) (l : BitVec 4) (s : State) : Out := .next (int2L d a b l mulhuW true (viaW mulhuW) s)
def execDiv (d a b : BitVec 5) (l : BitVec 4) (s : State) : Out := .next (int2L d a b l divW false (viaW divW) s)
def execDivu (d a b : BitVec 5) (l : BitVec 4) (s : State) : Out := .next (int2L d a b l divuW true (viaW divuW) s)
def execRem (d a b : BitVec 5) (l : BitVec 4) (s : State) : Out := .next (int2L d a b l remW false (viaW remW) s)
def execRemu (d a b : BitVec 5) (l : BitVec 4) (s : State) : Out := .next (int2L d a b l remuW true (viaW remuW) s)
def execClz (d a : BitVec 5) (s : State) : Out := .next (int1 d a clzW s)
def execCtz (d a : BitVec 5) (s : State) : Out := .next (int1 d a ctzW s)
def execPopc (d a : BitVec 5) (s : State) : Out := .next (int1 d a popcW s)
def execBswap (d a : BitVec 5) (s : State) : Out := .next (int1 d a bswapW s)
def execSextb (d a : BitVec 5) (s : State) : Out := .next (int1 d a (sextW 8) s)
def execSexth (d a : BitVec 5) (s : State) : Out := .next (int1 d a (sextW 16) s)
def execSextw (d a : BitVec 5) (s : State) : Out := .next (int1 d a (sextW 32) s)
def execZextb (d a : BitVec 5) (s : State) : Out := .next (int1 d a (zextW 8) s)
def execZexth (d a : BitVec 5) (s : State) : Out := .next (int1 d a (zextW 16) s)
def execZextw (d a : BitVec 5) (s : State) : Out := .next (int1 d a (zextW 32) s)

/-- R140: s[d] keeps its value when s[a] is zero. -/
def execCsel (d a b : BitVec 5) (s : State) : Out := .next <|
  s.operands true [a, b] [d] fun vs _ s =>
    s.finish d (if vs.getD 0 0 = 0#64 then s.rd d else vs.getD 1 0)

/-! ### Immediates (R142, R143) -/

def execAddi (d a : BitVec 5) (i : BitVec 16) (s : State) : Out := .next (int1 d a (· + sxImm i) s)
def execAndi (d a : BitVec 5) (i : BitVec 16) (s : State) : Out := .next (int1 d a (· &&& zxImm i) s)
def execOri (d a : BitVec 5) (i : BitVec 16) (s : State) : Out := .next (int1 d a (· ||| zxImm i) s)
def execXori (d a : BitVec 5) (i : BitVec 16) (s : State) : Out := .next (int1 d a (· ^^^ zxImm i) s)
def execSlti (d a : BitVec 5) (i : BitVec 16) (s : State) : Out := .next (int1 d a (sltW · (sxImm i)) s)
def execSltiu (d a : BitVec 5) (i : BitVec 16) (s : State) : Out := .next (int1 d a (sltuW · (sxImm i)) s)
def execSlli (d a : BitVec 5) (n : BitVec 6) (s : State) : Out := .next (int1 d a (sllW · (n.setWidth 64)) s)
def execSrli (d a : BitVec 5) (n : BitVec 6) (s : State) : Out := .next (int1 d a (srlW · (n.setWidth 64)) s)
def execSrai (d a : BitVec 5) (n : BitVec 6) (s : State) : Out := .next (int1 d a (sraW · (n.setWidth 64)) s)
def execRori (d a : BitVec 5) (n : BitVec 6) (s : State) : Out := .next (int1 d a (rorW · (n.setWidth 64)) s)
def execLui (d : BitVec 5) (i : BitVec 16) (s : State) : Out := .next <|
  s.operands false [] [d] fun _ _ s => s.finish d (luiW i)
def execInsh (d a : BitVec 5) (i : BitVec 16) (s : State) : Out := .next (int1 d a (inshW · i) s)

/-! ### CMPP (R144, R145) -/

def fceqV (x y : Val) : Bool × Fl :=
  (!x.isNan && !y.isNan && cmpV x y == .eq, { nv := x.isSnan || y.isSnan })
def fcltV (x y : Val) : Bool × Fl :=
  (!x.isNan && !y.isNan && cmpV x y == .lt, { nv := x.isNan || y.isNan })
def fcleV (x y : Val) : Bool × Fl :=
  (!x.isNan && !y.isNan && cmpV x y != .gt, { nv := x.isNan || y.isNan })
def fcunV (x y : Val) : Bool × Fl := (x.isNan || y.isNan, { nv := x.isSnan || y.isSnan })

def execCeq (p : BitVec 3) (a b : BitVec 5) (s : State) : Out := .next (cmp2 p a b (· == ·) s)
def execCne (p : BitVec 3) (a b : BitVec 5) (s : State) : Out := .next (cmp2 p a b (· != ·) s)
def execClt (p : BitVec 3) (a b : BitVec 5) (s : State) : Out := .next (cmp2 p a b BitVec.slt s)
def execCltu (p : BitVec 3) (a b : BitVec 5) (s : State) : Out := .next (cmp2 p a b BitVec.ult s)
def execCge (p : BitVec 3) (a b : BitVec 5) (s : State) : Out := .next (cmp2 p a b (fun x y => !x.slt y) s)
def execCgeu (p : BitVec 3) (a b : BitVec 5) (s : State) : Out := .next (cmp2 p a b (fun x y => !x.ult y) s)
def execFceq (p : BitVec 3) (a b : BitVec 5) (s : State) : Out := .next (fcmp2 p a b fceqV s)
def execFclt (p : BitVec 3) (a b : BitVec 5) (s : State) : Out := .next (fcmp2 p a b fcltV s)
def execFcle (p : BitVec 3) (a b : BitVec 5) (s : State) : Out := .next (fcmp2 p a b fcleV s)
def execFcun (p : BitVec 3) (a b : BitVec 5) (s : State) : Out := .next (fcmp2 p a b fcunV s)
def execPand (p a b : BitVec 3) (s : State) : Out := .next (pred2 p a b (· && ·) s)
def execPor (p a b : BitVec 3) (s : State) : Out := .next (pred2 p a b (· || ·) s)
def execPxor (p a b : BitVec 3) (s : State) : Out := .next (pred2 p a b (· != ·) s)
def execPandn (p a b : BitVec 3) (s : State) : Out := .next (pred2 p a b (fun x y => x && !y) s)
def execPtos (p : BitVec 3) (a : BitVec 5) (s : State) : Out := .next <|
  s.operands false [a] [] fun vs _ s => (s.wp p (vs.getD 0 0 != 0#64)).retire
def execSbitp (p : BitVec 3) (a b : BitVec 5) (s : State) : Out := .next (cmp2 p a b (fun x y => x.getLsbD (amt y)) s)

/-! ### MINT and MINTK (R162, R163) -/

def execMint (d a b : BitVec 5) (s : State) : Out := .next (int2 d a b mint false (viaW mint) s)

def execMintk (a : BitVec 5) (s : State) : Out := .next <|
  s.operands false [a] [] fun vs _ s =>
    let x := vs.getD 0 0
    (s.setCore fun c => { c with streamid := x, mintkey := mint c.jobseed x }).retire

end Sys2Proof.Machine
end

