-- ==== Sys2Proof/Machine/Dispatch.lean ====
section
/-!
DEFINITION. The meaning of every instruction: one arm per constructor of Instr.
-/
namespace Sys2Proof.Machine

def exec (i : Instr) (s : State) : Host.Outcome State Fault Refusal :=
  match i with
  | .nop => Sys2Proof.Machine.execNop s
  | .brk n => Sys2Proof.Machine.execBrk n s
  | .crr d h l => Sys2Proof.Machine.execCrr d h l s
  | .crw h a l => Sys2Proof.Machine.execCrw h a l s
  | .crs h a l => Sys2Proof.Machine.execCrs h a l s
  | .crc h a l => Sys2Proof.Machine.execCrc h a l s
  | .publish d a b => Sys2Proof.Machine.execPublish d a b s
  | .add d a b => Sys2Proof.Machine.execAdd d a b s
  | .sub d a b => Sys2Proof.Machine.execSub d a b s
  | .and d a b => Sys2Proof.Machine.execAnd d a b s
  | .or d a b => Sys2Proof.Machine.execOr d a b s
  | .xor d a b => Sys2Proof.Machine.execXor d a b s
  | .andn d a b => Sys2Proof.Machine.execAndn d a b s
  | .orn d a b => Sys2Proof.Machine.execOrn d a b s
  | .sll d a b => Sys2Proof.Machine.execSll d a b s
  | .srl d a b => Sys2Proof.Machine.execSrl d a b s
  | .sra d a b => Sys2Proof.Machine.execSra d a b s
  | .rol d a b => Sys2Proof.Machine.execRol d a b s
  | .ror d a b => Sys2Proof.Machine.execRor d a b s
  | .slt d a b => Sys2Proof.Machine.execSlt d a b s
  | .sltu d a b => Sys2Proof.Machine.execSltu d a b s
  | .min d a b => Sys2Proof.Machine.execMin d a b s
  | .max d a b => Sys2Proof.Machine.execMax d a b s
  | .minu d a b => Sys2Proof.Machine.execMinu d a b s
  | .maxu d a b => Sys2Proof.Machine.execMaxu d a b s
  | .mul d a b l => Sys2Proof.Machine.execMul d a b l s
  | .mulh d a b l => Sys2Proof.Machine.execMulh d a b l s
  | .mulhu d a b l => Sys2Proof.Machine.execMulhu d a b l s
  | .div d a b l => Sys2Proof.Machine.execDiv d a b l s
  | .divu d a b l => Sys2Proof.Machine.execDivu d a b l s
  | .rem d a b l => Sys2Proof.Machine.execRem d a b l s
  | .remu d a b l => Sys2Proof.Machine.execRemu d a b l s
  | .clz d a => Sys2Proof.Machine.execClz d a s
  | .ctz d a => Sys2Proof.Machine.execCtz d a s
  | .popc d a => Sys2Proof.Machine.execPopc d a s
  | .bswap d a => Sys2Proof.Machine.execBswap d a s
  | .sextb d a => Sys2Proof.Machine.execSextb d a s
  | .sexth d a => Sys2Proof.Machine.execSexth d a s
  | .sextw d a => Sys2Proof.Machine.execSextw d a s
  | .zextb d a => Sys2Proof.Machine.execZextb d a s
  | .zexth d a => Sys2Proof.Machine.execZexth d a s
  | .zextw d a => Sys2Proof.Machine.execZextw d a s
  | .csel d a b => Sys2Proof.Machine.execCsel d a b s
  | .addi d a imm => Sys2Proof.Machine.execAddi d a imm s
  | .andi d a imm => Sys2Proof.Machine.execAndi d a imm s
  | .ori d a imm => Sys2Proof.Machine.execOri d a imm s
  | .xori d a imm => Sys2Proof.Machine.execXori d a imm s
  | .slti d a imm => Sys2Proof.Machine.execSlti d a imm s
  | .sltiu d a imm => Sys2Proof.Machine.execSltiu d a imm s
  | .slli d a n => Sys2Proof.Machine.execSlli d a n s
  | .srli d a n => Sys2Proof.Machine.execSrli d a n s
  | .srai d a n => Sys2Proof.Machine.execSrai d a n s
  | .rori d a n => Sys2Proof.Machine.execRori d a n s
  | .lui d imm => Sys2Proof.Machine.execLui d imm s
  | .insh d a imm => Sys2Proof.Machine.execInsh d a imm s
  | .ceq p a b => Sys2Proof.Machine.execCeq p a b s
  | .cne p a b => Sys2Proof.Machine.execCne p a b s
  | .clt p a b => Sys2Proof.Machine.execClt p a b s
  | .cltu p a b => Sys2Proof.Machine.execCltu p a b s
  | .cge p a b => Sys2Proof.Machine.execCge p a b s
  | .cgeu p a b => Sys2Proof.Machine.execCgeu p a b s
  | .fceq p a b => Sys2Proof.Machine.execFceq p a b s
  | .fclt p a b => Sys2Proof.Machine.execFclt p a b s
  | .fcle p a b => Sys2Proof.Machine.execFcle p a b s
  | .fcun p a b => Sys2Proof.Machine.execFcun p a b s
  | .pand p a b => Sys2Proof.Machine.execPand p a b s
  | .por p a b => Sys2Proof.Machine.execPor p a b s
  | .pxor p a b => Sys2Proof.Machine.execPxor p a b s
  | .pandn p a b => Sys2Proof.Machine.execPandn p a b s
  | .ptos p a => Sys2Proof.Machine.execPtos p a s
  | .sbitp p a b => Sys2Proof.Machine.execSbitp p a b s
  | .beq a b o => Sys2Proof.Machine.execBeq a b o s
  | .bne a b o => Sys2Proof.Machine.execBne a b o s
  | .blt a b o => Sys2Proof.Machine.execBlt a b o s
  | .bge a b o => Sys2Proof.Machine.execBge a b o s
  | .bltu a b o => Sys2Proof.Machine.execBltu a b o s
  | .bgeu a b o => Sys2Proof.Machine.execBgeu a b o s
  | .bpt p o => Sys2Proof.Machine.execBpt p o s
  | .bpf p o => Sys2Proof.Machine.execBpf p o s
  | .j o => Sys2Proof.Machine.execJ o s
  | .jal o => Sys2Proof.Machine.execJal o s
  | .jalr d a imm => Sys2Proof.Machine.execJalr d a imm s
  | .rpt n x y z t => Sys2Proof.Machine.execRpt n x y z t s
  | .rptr n x y z b => Sys2Proof.Machine.execRptr n x y z b s
  | .fadd d a b l => Sys2Proof.Machine.execFadd d a b l s
  | .fsub d a b l => Sys2Proof.Machine.execFsub d a b l s
  | .fmul d a b l => Sys2Proof.Machine.execFmul d a b l s
  | .fdiv d a b l => Sys2Proof.Machine.execFdiv d a b l s
  | .fsqrt d a l => Sys2Proof.Machine.execFsqrt d a l s
  | .fmac d a b l => Sys2Proof.Machine.execFmac d a b l s
  | .fmin d a b l => Sys2Proof.Machine.execFmin d a b l s
  | .fmax d a b l => Sys2Proof.Machine.execFmax d a b l s
  | .frnd d a l => Sys2Proof.Machine.execFrnd d a l s
  | .fclass d a l => Sys2Proof.Machine.execFclass d a l s
  | .fcvtWS d a l => Sys2Proof.Machine.execFcvtWS d a l s
  | .fcvtSW d a l => Sys2Proof.Machine.execFcvtSW d a l s
  | .fcvtSBf d a l => Sys2Proof.Machine.execFcvtSBf d a l s
  | .fcvtBfS d a l => Sys2Proof.Machine.execFcvtBfS d a l s
  | .fcvtSH d a l => Sys2Proof.Machine.execFcvtSH d a l s
  | .fcvtHS d a l => Sys2Proof.Machine.execFcvtHS d a l s
  | .fcvtSE4 d a l => Sys2Proof.Machine.execFcvtSE4 d a l s
  | .fcvtE4S d a l => Sys2Proof.Machine.execFcvtE4S d a l s
  | .fcvtSE5 d a l => Sys2Proof.Machine.execFcvtSE5 d a l s
  | .fcvtE5S d a l => Sys2Proof.Machine.execFcvtE5S d a l s
  | .ldb d a o l => Sys2Proof.Machine.execLdb d a o l s
  | .ldbu d a o l => Sys2Proof.Machine.execLdbu d a o l s
  | .ldh d a o l => Sys2Proof.Machine.execLdh d a o l s
  | .ldhu d a o l => Sys2Proof.Machine.execLdhu d a o l s
  | .ldw d a o l => Sys2Proof.Machine.execLdw d a o l s
  | .ldwu d a o l => Sys2Proof.Machine.execLdwu d a o l s
  | .ldd d a o l => Sys2Proof.Machine.execLdd d a o l s
  | .stb d a o l => Sys2Proof.Machine.execStb d a o l s
  | .sth d a o l => Sys2Proof.Machine.execSth d a o l s
  | .stw d a o l => Sys2Proof.Machine.execStw d a o l s
  | .std d a o l => Sys2Proof.Machine.execStd d a o l s
  | .st64 d a o l => Sys2Proof.Machine.execSt64 d a o l s
  | .stfl d a o l => Sys2Proof.Machine.execStfl d a o l s
  | .ldf d a o l => Sys2Proof.Machine.execLdf d a o l s
  | .ldfe d a o l => Sys2Proof.Machine.execLdfe d a o l s
  | .fetest d a o l => Sys2Proof.Machine.execFetest d a o l s
  | .feclr a o l => Sys2Proof.Machine.execFeclr a o l s
  | .amoadd d a b r l => Sys2Proof.Machine.execAmoadd d a b r l s
  | .amoswp d a b r l => Sys2Proof.Machine.execAmoswp d a b r l s
  | .amocas d a b r l => Sys2Proof.Machine.execAmocas d a b r l s
  | .amomin d a b r l => Sys2Proof.Machine.execAmomin d a b r l s
  | .amomax d a b r l => Sys2Proof.Machine.execAmomax d a b r l s
  | .amominu d a b r l => Sys2Proof.Machine.execAmominu d a b r l s
  | .amomaxu d a b r l => Sys2Proof.Machine.execAmomaxu d a b r l s
  | .amoand d a b r l => Sys2Proof.Machine.execAmoand d a b r l s
  | .amoor d a b r l => Sys2Proof.Machine.execAmoor d a b r l s
  | .amoxor d a b r l => Sys2Proof.Machine.execAmoxor d a b r l s
  | .redx a b r l => Sys2Proof.Machine.execRedx a b r l s
  | .redq a b r l => Sys2Proof.Machine.execRedq a b r l s
  | .redget d a b r l => Sys2Proof.Machine.execRedget d a b r l s
  | .redclr a r l => Sys2Proof.Machine.execRedclr a r l s
  | .send d a b => Sys2Proof.Machine.execSend d a b s
  | .recv d => Sys2Proof.Machine.execRecv d s
  | .recvp d => Sys2Proof.Machine.execRecvp d s
  | .tkpush d a b => Sys2Proof.Machine.execTkpush d a b s
  | .tkpop d => Sys2Proof.Machine.execTkpop d s
  | .tkdone => Sys2Proof.Machine.execTkdone s
  | .gang a => Sys2Proof.Machine.execGang a s
  | .ungang => Sys2Proof.Machine.execUngang s
  | .bar l => Sys2Proof.Machine.execBar l s
  | .vote d a o l => Sys2Proof.Machine.execVote d a o l s
  | .phase l => Sys2Proof.Machine.execPhase l s
  | .wfe d a => Sys2Proof.Machine.execWfe d a s
  | .sev a b => Sys2Proof.Machine.execSev a b s
  | .waitt d a => Sys2Proof.Machine.execWaitt d a s
  | .fence d v w => Sys2Proof.Machine.execFence d v w s
  | .cfence => Sys2Proof.Machine.execCfence s
  | .cpy d a l => Sys2Proof.Machine.execCpy d a l s
  | .cpynb d a l => Sys2Proof.Machine.execCpynb d a l s
  | .cpyq d l => Sys2Proof.Machine.execCpyq d l s
  | .dpost a b l => Sys2Proof.Machine.execDpost a b l s
  | .xchg d a b l => Sys2Proof.Machine.execXchg d a b l s
  | .calq d a l => Sys2Proof.Machine.execCalq d a l s
  | .gather d a l => Sys2Proof.Machine.execGather d a l s
  | .scatter d a l => Sys2Proof.Machine.execScatter d a l s
  | .dispatch d a l => Sys2Proof.Machine.execDispatch d a l s
  | .combine d a l => Sys2Proof.Machine.execCombine d a l s
  | .sbind n => Sys2Proof.Machine.execSbind n s
  | .sfree n => Sys2Proof.Machine.execSfree n s
  | .sdrain n => Sys2Proof.Machine.execSdrain n s
  | .sstat d n => Sys2Proof.Machine.execSstat d n s
  | .accrd t a b l => Sys2Proof.Machine.execAccrd t a b l s
  | .accwr t a b l => Sys2Proof.Machine.execAccwr t a b l s
  | .mxwait d a l => Sys2Proof.Machine.execMxwait d a l s
  | .mxseq d l => Sys2Proof.Machine.execMxseq d l s
  | .vadd d a b g l => Sys2Proof.Machine.execVadd d a b g l s
  | .vsub d a b g l => Sys2Proof.Machine.execVsub d a b g l s
  | .vmul d a b g l => Sys2Proof.Machine.execVmul d a b g l s
  | .vdiv d a b g l => Sys2Proof.Machine.execVdiv d a b g l s
  | .vmin d a b g l => Sys2Proof.Machine.execVmin d a b g l s
  | .vmax d a b g l => Sys2Proof.Machine.execVmax d a b g l s
  | .vfma d a b g l => Sys2Proof.Machine.execVfma d a b g l s
  | .vfms d a b g l => Sys2Proof.Machine.execVfms d a b g l s
  | .vand d a b g l => Sys2Proof.Machine.execVand d a b g l s
  | .vor d a b g l => Sys2Proof.Machine.execVor d a b g l s
  | .vxor d a b g l => Sys2Proof.Machine.execVxor d a b g l s
  | .vcgt d a b g l => Sys2Proof.Machine.execVcgt d a b g l s
  | .vcge d a b g l => Sys2Proof.Machine.execVcge d a b g l s
  | .vceq d a b g l => Sys2Proof.Machine.execVceq d a b g l s
  | .vsel d a b g l => Sys2Proof.Machine.execVsel d a b g l s
  | .vmov d a g l => Sys2Proof.Machine.execVmov d a g l s
  | .vsqrt d a g l => Sys2Proof.Machine.execVsqrt d a g l s
  | .vrcp d a g l => Sys2Proof.Machine.execVrcp d a g l s
  | .vrsq d a g l => Sys2Proof.Machine.execVrsq d a g l s
  | .vexp2 d a g l => Sys2Proof.Machine.execVexp2 d a g l s
  | .vlog2 d a g l => Sys2Proof.Machine.execVlog2 d a g l s
  | .vcvt d a g l => Sys2Proof.Machine.execVcvt d a g l s
  | .vadds d a v g l => Sys2Proof.Machine.execVadds d a v g l s
  | .vsubs d a v g l => Sys2Proof.Machine.execVsubs d a v g l s
  | .vmuls d a v g l => Sys2Proof.Machine.execVmuls d a v g l s
  | .vfmas d a v g l => Sys2Proof.Machine.execVfmas d a v g l s
  | .vmins d a v g l => Sys2Proof.Machine.execVmins d a v g l s
  | .vmaxs d a v g l => Sys2Proof.Machine.execVmaxs d a v g l s
  | .vfill d v g l => Sys2Proof.Machine.execVfill d v g l s
  | .vgete a v g l => Sys2Proof.Machine.execVgete a v g l s
  | .vpute d v g l => Sys2Proof.Machine.execVpute d v g l s
  | .vsum a v g l => Sys2Proof.Machine.execVsum a v g l s
  | .vdot b a v g l => Sys2Proof.Machine.execVdot b a v g l s
  | .vmaxr a v g l => Sys2Proof.Machine.execVmaxr a v g l s
  | .vminr a v g l => Sys2Proof.Machine.execVminr a v g l s
  | .topk d a v g l => Sys2Proof.Machine.execTopk d a v g l s
  | .cmpr48 d a v g l => Sys2Proof.Machine.execCmpr48 d a v g l s
  | .vdec48 d a v g l => Sys2Proof.Machine.execVdec48 d a v g l s
  | .vrand d v g l => Sys2Proof.Machine.execVrand d v g l s
  | .kdef d v g l => Sys2Proof.Machine.execKdef d v g l s
  | .kst a v g l => Sys2Proof.Machine.execKst a v g l s
  | .kget a v g l => Sys2Proof.Machine.execKget a v g l s
  | .kset d a v g l => Sys2Proof.Machine.execKset d a v g l s
  | .kview d a v g l => Sys2Proof.Machine.execKview d a v g l s
  | .dext d a g l => Sys2Proof.Machine.execDext d a g l s
  | .dbnd d a g l => Sys2Proof.Machine.execDbnd d a g l s
  | .hstar d a g l => Sys2Proof.Machine.execHstar d a g l s
  | .hstari d a g l => Sys2Proof.Machine.execHstari d a g l s
  | .wedge d a b g l => Sys2Proof.Machine.execWedge d a b g l s
  | .interp d a b g l => Sys2Proof.Machine.execInterp d a b g l s
  | .prolong d a g l => Sys2Proof.Machine.execProlong d a g l s
  | .gathi d a b g l => Sys2Proof.Machine.execGathi d a b g l s
  | .scati d a b g l => Sys2Proof.Machine.execScati d a b g l s
  | .cload d a l => Sys2Proof.Machine.execCload d a l s
  | .cdrop a l => Sys2Proof.Machine.execCdrop a l s
  | .cquery d a b l => Sys2Proof.Machine.execCquery d a b l s
  | .cref d a l => Sys2Proof.Machine.execCref d a l s
  | .tracq d l => Sys2Proof.Machine.execTracq d l s
  | .trrel l => Sys2Proof.Machine.execTrrel l s
  | .trload a b l => Sys2Proof.Machine.execTrload a b l s
  | .trset a b l => Sys2Proof.Machine.execTrset a b l s
  | .trgo d l => Sys2Proof.Machine.execTrgo d l s
  | .trget a b l => Sys2Proof.Machine.execTrget a b l s
  | .trrst l => Sys2Proof.Machine.execTrrst l s
  | .mint d a b => Sys2Proof.Machine.execMint d a b s
  | .mintk a => Sys2Proof.Machine.execMintk a s
  | .mod t k a n b m e r => Sys2Proof.Machine.execMod t k a n b m e r s
  | .hnop d a b l => Sys2Proof.Machine.execHnop d a b l s
  | .prefl d a b l => Sys2Proof.Machine.execPrefl d a b l s
  | .prefd d a b l => Sys2Proof.Machine.execPrefd d a b l s
  | .spinh d a b l => Sys2Proof.Machine.execSpinh d a b l s
  | .longLatencyComplete q l => Sys2Proof.Machine.execLongLatencyComplete q l s
  | .coreWaitEnd q l => Sys2Proof.Machine.execCoreWaitEnd q l s
  | .contextCreate slot link => Sys2Proof.Machine.execContextCreate slot link s
  | .contextDestroy slot => Sys2Proof.Machine.execContextDestroy slot s
  | .queueNotify q tail => Sys2Proof.Machine.execQueueNotify q tail s
  | .queueErrClear q => Sys2Proof.Machine.execQueueErrClear q s
  | .launchRecord q => Sys2Proof.Machine.execLaunchRecord q s
  | .publishRecord q => Sys2Proof.Machine.execPublishRecord q s
  | .nopRecord q => Sys2Proof.Machine.execNopRecord q s
  | .publisherServe slot => Sys2Proof.Machine.execPublisherServe slot s
  | .launchPlacement q x y => Sys2Proof.Machine.execLaunchPlacement q x y s
  | .wakeFlit q x y => Sys2Proof.Machine.execWakeFlit q x y s
  | .queueQuantumEnd => Sys2Proof.Machine.execQueueQuantumEnd s
  | .launchRetirement q => Sys2Proof.Machine.execLaunchRetirement q s
  | .tlbinv slot w => Sys2Proof.Machine.execTlbinv slot w s
  | .tlbinvDone slot => Sys2Proof.Machine.execTlbinvDone slot s
  | .hcmdResume slot w => Sys2Proof.Machine.execHcmdResume slot w s
  | .hcmdSkip slot w => Sys2Proof.Machine.execHcmdSkip slot w s
  | .hcmdKill slot w => Sys2Proof.Machine.execHcmdKill slot w s
  | .hcmdAbt slot w => Sys2Proof.Machine.execHcmdAbt slot w s
  | .frheadWrite slot w => Sys2Proof.Machine.execFrheadWrite slot w s
  | .faultRecordDelivery => Sys2Proof.Machine.execFaultRecordDelivery s
  | .readbackCoreImage slot w => Sys2Proof.Machine.execReadbackCoreImage slot w s
  | .readbackRaceArray slot w => Sys2Proof.Machine.execReadbackRaceArray slot w s
  | .readbackTellerFlush slot w => Sys2Proof.Machine.execReadbackTellerFlush slot w s
  | .mctpRead8 h off => Sys2Proof.Machine.execMctpRead8 h off s
  | .mctpWrite8 h off data => Sys2Proof.Machine.execMctpWrite8 h off data s
  | .freeze h addr len => Sys2Proof.Machine.execFreeze h addr len s
  | .attest h nonce => Sys2Proof.Machine.execAttest h nonce s
  | .bootstLoad => Sys2Proof.Machine.execBootstLoad s
  | .ramptelClear => Sys2Proof.Machine.execRamptelClear s
  | .lnkstatClear side pos => Sys2Proof.Machine.execLnkstatClear side pos s
  | .registerWrite bar off w => Sys2Proof.Machine.execRegisterWrite bar off w s
  | .powerControlTick avg peak => Sys2Proof.Machine.execPowerControlTick avg peak s
  | .coolantHot temp flow => Sys2Proof.Machine.execCoolantHot temp flow s
  | .coolantRecover temp flow => Sys2Proof.Machine.execCoolantRecover temp flow s
  | .resetBoot image train gd cx w => Sys2Proof.Machine.execResetBoot image train gd cx w s
  | .patrolScrub die who loc err => Sys2Proof.Machine.execPatrolScrub die who loc err s
  | .laneTraining side pos pol rev => Sys2Proof.Machine.execLaneTraining side pos pol rev s
  | .laneTrainingTimeout side pos => Sys2Proof.Machine.execLaneTrainingTimeout side pos s
  | .laneDown side pos => Sys2Proof.Machine.execLaneDown side pos s
  | .edgeFrameReceive side pos sym again f => Sys2Proof.Machine.execEdgeFrameReceive side pos sym again f s
  | .routerCycle r lost => Sys2Proof.Machine.execRouterCycle r lost s
  | .readRequestFlit r => Sys2Proof.Machine.execReadRequestFlit r s
  | .writeRequestFlit r data full => Sys2Proof.Machine.execWriteRequestFlit r data full s
  | .atomicRequestFlit r op x y origin => Sys2Proof.Machine.execAtomicRequestFlit r op x y origin s
  | .readReplyFlit inc tag ws => Sys2Proof.Machine.execReadReplyFlit inc tag ws s
  | .writeAckFlit inc tag w => Sys2Proof.Machine.execWriteAckFlit inc tag w s
  | .atomicReplyFlit inc tag w v => Sys2Proof.Machine.execAtomicReplyFlit inc tag w v s
  | .nackFlit inc tag code => Sys2Proof.Machine.execNackFlit inc tag code s
  | .messageFlit r mtag lcn x y => Sys2Proof.Machine.execMessageFlit r mtag lcn x y s
  | .copyDataFlit f core addr w mask => Sys2Proof.Machine.execCopyDataFlit f core addr w mask s
  | .timeBeacon w => Sys2Proof.Machine.execTimeBeacon w s
  | .remoteCompletionFlag f core addr w => Sys2Proof.Machine.execRemoteCompletionFlag f core addr w s
  | .moduleMarkedDown pkg => Sys2Proof.Machine.execModuleMarkedDown pkg s
  | .tellerAccept yard => Sys2Proof.Machine.execTellerAccept yard s
  | .tellerExecute yard => Sys2Proof.Machine.execTellerExecute yard s
  | .copyRequestStart q l => Sys2Proof.Machine.execCopyRequestStart q l s
  | .copyBeat yard => Sys2Proof.Machine.execCopyBeat yard s
  | .copyFlagPost q l => Sys2Proof.Machine.execCopyFlagPost q l s
  | .matrixCommandStart q l => Sys2Proof.Machine.execMatrixCommandStart q l s
  | .matrixKStep q l => Sys2Proof.Machine.execMatrixKStep q l s
  | .matrixCommandComplete q l => Sys2Proof.Machine.execMatrixCommandComplete q l s
  | .rampWindowBoundary => Sys2Proof.Machine.execRampWindowBoundary s
  | .cochainArbitrate stable => Sys2Proof.Machine.execCochainArbitrate stable s
  | .cochainComplete q l => Sys2Proof.Machine.execCochainComplete q l s
  | .streamFetch q l n => Sys2Proof.Machine.execStreamFetch q l n s
  | .streamElementWrite q l n => Sys2Proof.Machine.execStreamElementWrite q l n s
  | .stealProbe c side => Sys2Proof.Machine.execStealProbe c side s
  | .writeSetReturn c back => Sys2Proof.Machine.execWriteSetReturn c back s
  | .episodeComplete q level dom far => Sys2Proof.Machine.execEpisodeComplete q level dom far s
  | .dpostServe die => Sys2Proof.Machine.execDpostServe die s
  | .calendarCompute q far ready => Sys2Proof.Machine.execCalendarCompute q far ready s
  | .standbyCalendarSend q => Sys2Proof.Machine.execStandbyCalendarSend q s
  | .calendarTake q standby cal => Sys2Proof.Machine.execCalendarTake q standby cal s
  | .circuitPhaseStart q imm => Sys2Proof.Machine.execCircuitPhaseStart q imm s
  | .circuitSendEnd q imm => Sys2Proof.Machine.execCircuitSendEnd q imm s
  | .circuitPhaseEnd q imm => Sys2Proof.Machine.execCircuitPhaseEnd q imm s
  | .residueSend q => Sys2Proof.Machine.execResidueSend q s
  | .exchangeComplete q far => Sys2Proof.Machine.execExchangeComplete q far s
  | .preemptionSave q l => Sys2Proof.Machine.execPreemptionSave q l s
  | .restoration q l pcid => Sys2Proof.Machine.execRestoration q l pcid s
  | .gangWaitTimeout q l => Sys2Proof.Machine.execGangWaitTimeout q l s
  | .gangDetach q l why => Sys2Proof.Machine.execGangDetach q l why s
  | .illegalInstruction w => Sys2Proof.Machine.execIllegalInstruction w s
  | .fetchFault => Sys2Proof.Machine.execFetchFault s
  | .hostDeviceMemoryAccess link op addr len data => Sys2Proof.Machine.execHostDeviceMemoryAccess link op addr len data s
  | .moduleRejoin pkg inc => Sys2Proof.Machine.execModuleRejoin pkg inc s
  | .hostLinkError q l e => Sys2Proof.Machine.execHostLinkError q l e s
  | .pwrnowRead => Sys2Proof.Machine.execPwrnowRead s
  | .powerDown => Sys2Proof.Machine.execPowerDown s

end Sys2Proof.Machine
end

