-- ==== Sys2Proof/Machine/Step.lean ====
section
/-!
DEFINITION. One step of the module: the next instruction of the current core, or what the schedule names (log entry 1).
-/
namespace Sys2Proof.Machine

/-- The current core issues and executes one word (R164), or finds that it may not issue it yet: then the second part holds. -/
def issueStep (s : State) : Out × Bool :=
  match s.issue with
  | .run i s => (exec i s, false)
  | .illegal w s => (execIllegalInstruction w s, false)
  | .noWord s => (execFetchFault s, false)
  | .done s => (.next s, false)
  | .stall s => (.next s, true)

/-- A turn of the current core: an L that waits with its shadow open tries again first (R119), and a word issues; a core that has lost its slot issues none. -/
def coreTurn (s : State) : Out × Bool :=
  match s.retryL with
  | none => if s.core.retrying && s.evicted then (.next s, true) else issueStep s
  | some (i, t) =>
    match exec i t with
    | .next t => let u := s.retried t; if u.core.retrying && !u.evicted then issueStep u else (.next u, false)
    | o => (o, false)

/-- The same without the mark. -/
def coreStep (s : State) : Out := (coreTurn s).1

/-- The current core may take a turn: it runs or waits, and it holds its slot or has an instruction to end before its save (R55, R62, R123). -/
def State.mayTurn (s : State) : Bool := s.core.live && (!s.evicted || s.mustEnd)

/-- Core n of the others takes a step. -/
def peerStep (n : Nat) (s : State) : Out :=
  let t := s.swap n
  if !t.mayTurn then .next s else
  match coreStep t with
  | .next t => .next (t.swap n)
  | .fault f => .fault f
  | .refused r => .refused r

/-- A posted store of the current core (0) or of another (n + 1) is performed. -/
def storeTurn (n : Nat) (s : State) : State := if n = 0 then s.drain1 else (s.swap (n - 1)).drain1.swap (n - 1)

/-- A step of a module that is frozen or without power: only the hub's steps, or a boot, have an effect. -/
def stoppedStep (s : State) : Out :=
  match s.sched with
  | .event i :: r => if bootStep i || (s.powered && hubStep i) then exec i { s with sched := r } else .next { s with sched := r }
  | _ :: r => .next { s with sched := r }
  | [] => if s.powered then .next s else .fault .poweredOff

/-- The current core does not go on: the work of an engine, another core, or the instruction that waits. -/
def idleStep (s : State) : Out :=
  match s.engineWork with
  | some s => .next s
  | none =>
    match s.nextPeer with
    | some n => peerStep n s
    | none => if s.core.st = .waiting && s.mayTurn then coreStep s else .next s

/-- A step that belongs to the others: in turn of another core and of an engine; none where neither has anything to do. -/
def backTurn (s : State) : Option Out :=
  if !s.othersTurn then none
  else if s.tick % 32 = 15 then s.turnPeer.map (peerStep · s)
  else s.engineWork.map .next

/-- A step of a module that runs: the target of a MOD prefix, else what the schedule names, else the current core when it runs, else the work of
an engine, another core, or the instruction that waits. -/
def runStep (s : State) : Out :=
  if s.core.modp.isSome && s.core.st = .running then coreStep s else
  match s.armedPeer with
  | some n => peerStep n s
  | none =>
    match s.sched with
    | .event i :: r => exec i { s with sched := r }
    | .core n :: r => peerStep n { s with sched := r }
    | .store n :: r => .next (storeTurn n { s with sched := r })
    | [] =>
      if s.core.st = .running && s.mayTurn then
        match backTurn s with
        | some o => o
        | none =>
          match coreTurn s with
          | (.next t, true) => idleStep t
          | (o, _) => o
      else idleStep s

/-- One step. -/
def step (s0 : State) : Host.Outcome State Fault Refusal :=
  let s := s0.clock
  if s.frozen || !s.powered then stoppedStep s else runStep s

/-- The context, queue and launch that hold the core while a word is placed under its PC (log entry 12). -/
def fetchLaunch : Launch :=
  ⟨0, 0, 0, 1, 1, false, 0, 262144, 0, 0, [], 0x3F000, 0x1000, 0, 0, [], [], [], 0, [w64 (2 ^ 40)], [], 2, 1, [], 0, [], none, false, []⟩

/-- The word placed as a sealed object at the PC of the current core, which runs (log entry 12). -/
def State.withFetchWord (s : State) (nbits w : Nat) : State :=
  if nbits ≠ 32 then s else
  let o : CodeObj := ⟨0, 1, [BitVec.ofNat 32 w]⟩
  let c : Core := { s.core with st := .running, queue := 0, pc := 0, obj := none, latch := none, lcn := 0, ncores := 4 }
  { s with
    core := c, sched := [], powered := true, frozen := false,
    ctxs := [(0, { Ctx.reset with st := 2, objs := [o] })], queues := [(0, { Queue.reset with active := true, launch := some fetchLaunch })] }

end Sys2Proof.Machine
end

