-- ==== Sys2Proof/Safety.lean ====
section
/-!
DEFINITION. What counts as a safe run: the invariant that every step keeps, and steps that do not stop.
-/
namespace Sys2Proof

open Machine

/-! ### What statements say of a state before a step -/

/-- No MOD prefix is armed, and no field of the list names a bound stream port. -/
def Safety.plain (s : State) (fs : List SReg) : Bool := s.core.modp.isNone && fs.all fun r => (s.core.port? r).isNone

/-- Nothing is outstanding in the core: no posted store, no bound port, no queued work of the cochain unit, the matrix unit or the copy FIFO, no
pending engine fault, no request to another module, no instruction that waits with its shadow open. -/
def Safety.settled (s : State) : Bool :=
  s.core.posted.isEmpty && s.core.ports.toList.all (!·.bound) && s.core.cq.isEmpty && s.core.mx.queue.isEmpty && s.core.mx.left.isEmpty && s.core.cf.pending.isEmpty
    && s.core.cfTrap.isNone && s.core.mxTrap.isNone && s.core.far.isNone && !s.core.retrying

/-- The next step is one of the current core: the module runs, the core runs and holds its slot, and an armed prefix, or nothing scheduled, gives it
the turn, which is not that of the others (log entry 1). -/
def Safety.coreTurn (s : State) : Bool :=
  s.powered && !s.frozen && s.core.st == .running
    && (s.core.modp.isSome || (s.armedPeer.isNone && s.sched.isEmpty && !s.evicted && !s.clock.othersTurn))

/-- The core fetches for itself, in no gang, and no shadow, queued cochain instruction or owed trap bears on the word at its PC. -/
def Safety.direct (s : State) : Bool :=
  s.core.latch.isNone && gangRole s.core.gangst == 0 && s.core.shadow.isNone && s.core.cq.isEmpty && s.core.owedHere.isNone

/-- And no frame. -/
def Safety.straight (s : State) : Bool := Safety.direct s && s.core.frame.isNone

/-- The state in which the word w of the object o, which a step of s has fetched, issues: CYC has moved on, the fetch has been translated, and the word is at
hand. -/
def Safety.atHand (s : State) (w : W32) (o : CodeObj) : State :=
  s.clock.fetchTlb.setCore fun c => { c with obj := some o.id, latch := some w }

/-! ### What statements say of the state after a step -/

/-- Every byte of memory reads as before: module memory, host memory, and the local memory of every core of the module. -/
def Safety.sameBytes (s t : State) : Prop :=
  (∀ a, Memory.get t.mem a = Memory.get s.mem a) ∧ (∀ a, Memory.get t.hostMem a = Memory.get s.hostMem a) ∧
  (∀ o, t.core.locByte o = s.core.locByte o) ∧ ∀ (i o : Nat), (t.peers[i]?).map (Core.locByte · o) = (s.peers[i]?).map (Core.locByte · o)

/-- The core without its place in the program: the program counter with the fetch unit's bounds and the word at hand, running or waiting, the
armed prefix, the repeat frame with RPTST.V, and the marks of an instruction that waits or was resumed, SHDONE.V among them. -/
def Safety.sansPc (c : Core) : Core :=
  { c with pc := 0, st := .idle, obj := none, latch := none, modp := none, frame := none, resume := none, far := none, gangWait := none,
           shdone := clrBit c.shdone 31, rptst := clrBit c.rptst 63 }

/-- Nothing outside the current core has changed. -/
def Safety.elsewhere (s t : State) : Prop := { t with core := s.core } = s

/-- FRAME of an instruction that writes scalar register d at most: every other scalar register, every predicate, handle, tile, special register
and engine of the core, everything outside the core and every byte of memory are as before; the core's place in the program may change. -/
def Safety.frameS (s t : State) (d : SReg) : Prop :=
  (∀ r, r ≠ d → t.rd r = s.rd r) ∧ Safety.sansPc { t.core with s := s.core.s } = Safety.sansPc s.core ∧ Safety.elsewhere s t ∧ Safety.sameBytes s t

/-- The same for an instruction that writes predicate p at most. -/
def Safety.frameP (s t : State) (p : PReg) : Prop :=
  (∀ r, r ≠ p → t.rp r = s.rp r) ∧ Safety.sansPc { t.core with p := s.core.p } = Safety.sansPc s.core ∧ Safety.elsewhere s t ∧ Safety.sameBytes s t

/-- The same for an instruction that writes no register. -/
def Safety.frame0 (s t : State) : Prop :=
  Safety.sansPc t.core = Safety.sansPc s.core ∧ Safety.elsewhere s t ∧ Safety.sameBytes s t

/-- The canonical form of every memory of the module. -/
def Safety.memInv (s : State) : Prop :=
  Memory.wf s.mem = true ∧ Memory.wf s.hostMem = true ∧ Memory.wf s.core.lmem = true ∧ ∀ c ∈ s.peers, Memory.wf c.lmem = true

/-- A step that gives a next state: neither a fault nor a refusal. -/
def Safety.runs (s : State) : Prop := ∃ t, step s = .next t

end Sys2Proof
end

