-- ==== Sys2Proof/Certificates/Slice0/Obligations.lean ====
section
/-!
DEFINITION. The statements for the provers. Where a statement says that an instruction ends in `(s.wr d v).retire` or in `s.landL l ws`, the
statements Retire and LandOrShadow say what that is.
-/
open Sys2Proof Sys2Proof.Machine Host

/-! ### Registers, completion, shadows, traps -/

/-- R114: s0 reads zero and p0 true, and both ignore writes; any other register reads what was written last, and no other changes. -/
def Obligations.RegisterFiles : Prop :=
  ∀ (s : State) (r q : SReg) (v : W64) (p u : PReg) (b : Bool) (k j : KReg) (h : Handle),
    s.rd 0#5 = 0#64 ∧ s.rp 0#3 = true ∧ s.wr 0#5 v = s ∧ s.wp 0#3 b = s ∧
    (r ≠ 0#5 → (s.wr r v).rd r = v) ∧ (q ≠ r → (s.wr r v).rd q = s.rd q) ∧
    (p ≠ 0#3 → (s.wp p b).rp p = b) ∧ (u ≠ p → (s.wp p b).rp u = s.rp u) ∧
    (s.wk k h).rk k = h ∧ (j ≠ k → (s.wk k h).rk j = s.rk j)

/-- R117 to R119, R121, R166, R168: an instruction that completes outside a shadow: the core runs on at the next word in sequence, or at the next position or
trip of an open frame, and RPTST.V is 0 after the frame's last word. A position of an open shadow completes: before the last one, and after it while L is still
short of its trap point, the shadow only counts it; after the last one L's writes land, and the overflow trap that L left for its next instruction is taken
there (R104), or L's own trap is taken with EPC at L. -/
def Obligations.Retire : Prop :=
  (∀ s : State, s.core.shadow = none →
    s.retire.core.st = .running ∧ Safety.frame0 s s.retire ∧
    (match s.core.frame with
     | none => s.retire.core.pc = s.core.pc + 4#64 ∧ s.retire.core.frame = none
     | some f =>
       if f.pos + 1 < f.len then s.retire.core.pc = s.core.pc + 4#64 ∧ s.retire.core.frame = some { f with pos := f.pos + 1 }
       else if f.left ≠ 0 then
         s.retire.core.pc = f.base ∧ s.retire.core.frame = some { f with pos := 0, iter := f.iter + 1, left := f.left - 1 }
       else s.retire.core.pc = s.core.pc + 4#64 ∧ s.retire.core.frame = none ∧ bit s.retire.core.rptst 63 = false)) ∧
  ∀ (s : State) (sh : Shadow), s.core.shadow = some sh →
    (sh.pos + 1 < sh.len ∨ sh.retry.isSome = true →
      s.retire.core.shadow = some { sh with pos := sh.pos + 1, fin := sh.fin ||| (1#15 <<< sh.pos) } ∧
      s.retire.core.st = .running ∧ s.retire.core.s = s.core.s ∧ s.retire.core.p = s.core.p ∧ s.retire.core.k = s.core.k ∧
      Safety.elsewhere s s.retire ∧ Safety.sameBytes s s.retire) ∧
    (sh.len ≤ sh.pos + 1 → sh.retry = none → sh.held = none → s.core.raw = false → ∀ r v, sh.writes = [.s r v] → s.core.port? r = none →
      s.retire.core.shadow = none ∧ (r ≠ 0#5 → s.retire.rd r = v) ∧ bit s.retire.core.shdone 31 = false ∧
      (∀ q, q ≠ r → s.retire.rd q = s.rd q) ∧ s.retire.core.p = s.core.p ∧ s.retire.core.k = s.core.k ∧
      (sh.ovf = none → sh.trap = none → s.retire.core.st = .running) ∧
      ∀ u, sh.ovf = some u → s.retire.core.st = .trapped ∧ s.retire.core.cause = 0x09 ∧ s.retire.core.tval = u ∧
        (s.core.frame = none → s.retire.core.epc = s.core.pc + 4#64)) ∧
    (sh.len ≤ sh.pos + 1 → sh.retry = none → ∀ t, sh.held = some t →
      s.retire.core.st = .trapped ∧ s.retire.core.epc = sh.pc ∧ s.retire.core.cause = t.cause.setWidth 64 ∧ s.retire.core.tval = t.tval ∧
      s.retire.core.s = s.core.s ∧ s.retire.core.p = s.core.p ∧ s.retire.core.k = s.core.k)

/-- A long-latency instruction whose la is 0 lands its write at once; with la = n it lands nothing yet and opens a shadow of n positions, and
the core goes on at the next word (R117, R118). One that must wait before its trap point (R119) waits as it stands when la is 0; with la = n its shadow opens,
and it is tried again in that shadow with the registers, the ports, the modes and, for a copy, the bay formats (R192) that it read at issue (R214). -/
def Obligations.LandOrShadow : Prop :=
  ∀ (s : State) (la : BitVec 4) (d : SReg) (v : W64), s.core.resume = none → s.core.port? d = none →
    (la = 0#4 → s.landL la [.s d v] = (s.wr d v).retire) ∧
    (la ≠ 0#4 →
      (∃ sh, (s.landL la [.s d v]).core.shadow = some sh ∧ sh.len = la.toNat ∧ sh.pos = 0 ∧ sh.done = 0 ∧ sh.writes = [.s d v] ∧
        sh.held = none ∧ sh.retry = none ∧ sh.pc = s.core.ipc) ∧
      (s.landL la [.s d v]).core.s = s.core.s ∧ (s.landL la [.s d v]).core.p = s.core.p ∧ (s.landL la [.s d v]).core.k = s.core.k ∧
      (s.core.frame = none → (s.landL la [.s d v]).core.pc = s.core.pc + 4#64) ∧
      Safety.elsewhere s (s.landL la [.s d v]) ∧ Safety.sameBytes s (s.landL la [.s d v])) ∧
    (la = 0#4 → s.waitL la = s.wait) ∧
    s.waitL la = s.waitWith la none ∧
    (∀ w fmts, s.core.again = none → s.core.latch = some w →
      let u := s.waitWith la fmts
      let r : Retry := ⟨w, s.core.s, (wordRegs w).filterMap s.core.port?, s.core.modp, s.core.frm, s.core.vrm, fmts⟩
      (la = 0#4 → fmts ≠ none → u = { s with core := { s.core with st := .waiting, resume := some ⟨0, 0, some r⟩ } }) ∧
      (la ≠ 0#4 →
        (∃ sh, u.core.shadow = some sh ∧ sh.len = la.toNat ∧ sh.pos = 0 ∧ sh.done = 0 ∧ sh.writes = [] ∧ sh.held = none ∧ sh.retry = some r ∧
          sh.pc = s.core.ipc) ∧
        u.core.s = s.core.s ∧ u.core.p = s.core.p ∧ u.core.k = s.core.k ∧ u.core.st = .running ∧ (s.core.frame = none → u.core.pc = s.core.pc + 4#64) ∧
        Safety.elsewhere s u ∧ Safety.sameBytes s u))

/-- TAKING A TRAP outside a shadow (R373, R375 to R377): the core stops in the trapped state with PC and EPC at the instruction (at the MOD word
of a pair), CAUSE and TVAL written and SHDONE.V clear; TSEQ counts; one fault record of eight doublewords is made (R376), in the die's queue or kept with
the core when that is full; no register, predicate, handle or byte of memory changes. -/
def Obligations.TrapEntry : Prop :=
  ∀ (s : State) (cause : Byte) (tval : W64), s.core.shadow = none → gangRole s.core.gangst = 0 → s.core.unsent = none →
    let t := s.trap cause tval
    let dws : List W64 := [w64 (s.ctxOf s.core * 2 ^ 32 + (s.core.tseq + 1) % 65536 * 2 ^ 16 + cause.toNat), s.core.ipc,
      w64 (s.core.pcid % 2 ^ 26 * 2 ^ 38 + s.core.lcn.toNat * 2 ^ 12 + s.core.queue), s.cyc, tval, clrBit s.core.shdone 31, s.core.rptstNow,
      w64 (match s.launchOf s.core with | some l => l.tag | none => 0)]
    t.core.st = .trapped ∧ t.core.pc = s.core.ipc ∧ t.core.epc = s.core.ipc ∧ t.core.cause = cause.setWidth 64 ∧ t.core.tval = tval ∧
    t.core.tseq = (s.core.tseq + 1) % 65536 ∧ t.core.shdone = clrBit s.core.shdone 31 ∧ t.core.rptst = s.core.rptstNow ∧
    t.core.modp = none ∧ t.core.frame = none ∧
    t.core.s = s.core.s ∧ t.core.p = s.core.p ∧ t.core.k = s.core.k ∧ Safety.sameBytes s t ∧
    (if (s.die (pcDie s.core.pcid)).room = 0 then t.core.unsent = some dws ∧ (cause ≠ 0x1F#8 → t.dies = s.dies)
     else t.core.unsent = none ∧ (t.die (pcDie s.core.pcid)).faultq = (s.die (pcDie s.core.pcid)).faultq ++ [⟨s.ctxOf s.core, false, dws⟩])

/-! ### Integer, immediate and predicate instructions -/

/-- R137, R138, R140: every INT instruction that is not long-latency writes s[d] with the table's result, and goes on; CLZ, CTZ, POPC and BSWAP
by what their results say of the operand's bits. -/
def Obligations.IntegerResults : Prop :=
  (∀ (s : State) (d a b : SReg), Safety.plain s [d, a, b] = true →
      let x := s.rd a
      let y := s.rd b
      let n := y.toNat % 64
      let ends (i : Instr) (v : W64) : Prop := exec i s = .next ((s.wr d v).retire)
      ends (.add d a b) (x + y) ∧ ends (.sub d a b) (x - y) ∧ ends (.and d a b) (x &&& y) ∧ ends (.or d a b) (x ||| y) ∧
      ends (.xor d a b) (x ^^^ y) ∧ ends (.andn d a b) (x &&& ~~~y) ∧ ends (.orn d a b) (x ||| ~~~y) ∧
      ends (.sll d a b) (x <<< n) ∧ ends (.srl d a b) (x >>> n) ∧ ends (.sra d a b) (x.sshiftRight n) ∧
      ends (.rol d a b) (x.rotateLeft n) ∧ ends (.ror d a b) (x.rotateRight n) ∧
      ends (.slt d a b) (if x.toInt < y.toInt then 1 else 0) ∧ ends (.sltu d a b) (if x.toNat < y.toNat then 1 else 0) ∧
      ends (.min d a b) (if x.toInt < y.toInt then x else y) ∧ ends (.max d a b) (if x.toInt < y.toInt then y else x) ∧
      ends (.minu d a b) (if x.toNat < y.toNat then x else y) ∧ ends (.maxu d a b) (if x.toNat < y.toNat then y else x) ∧
      ends (.csel d a b) (if x = 0 then s.rd d else y) ∧
      ends (.sextb d a) ((x.setWidth 8).signExtend 64) ∧ ends (.sexth d a) ((x.setWidth 16).signExtend 64) ∧
      ends (.sextw d a) ((x.setWidth 32).signExtend 64) ∧ ends (.zextb d a) (x &&& 0xFF) ∧ ends (.zexth d a) (x &&& 0xFFFF) ∧
      ends (.zextw d a) (x &&& 0xFFFFFFFF)) ∧
  (∀ (s : State) (d a : SReg), Safety.plain s [d, a] = true →
      let x := s.rd a
      let ends (i : Instr) (v : W64) : Prop := exec i s = .next ((s.wr d v).retire)
      (∃ n, ends (.clz d a) (w64 n) ∧ n ≤ 64 ∧ (∀ i, i < n → x.getLsbD (63 - i) = false) ∧ (n < 64 → x.getLsbD (63 - n) = true)) ∧
      (∃ n, ends (.ctz d a) (w64 n) ∧ n ≤ 64 ∧ (∀ i, i < n → x.getLsbD i = false) ∧ (n < 64 → x.getLsbD n = true)) ∧
      ends (.popc d a) (w64 ((List.range 64).filter fun i => x.getLsbD i).length) ∧
      (∃ v, ends (.bswap d a) v ∧ ∀ i, i < 8 → v.extractLsb' (8 * i) 8 = x.extractLsb' (56 - 8 * i) 8))

/-- R137, R139: the long-latency INT instructions; division never traps. -/
def Obligations.MulDiv : Prop :=
  ∀ (s : State) (d a b : SReg) (l : BitVec 4), Safety.plain s [d, a, b] = true →
    let x := s.rd a
    let y := s.rd b
    let minusOne : W64 := BitVec.allOnes 64
    let least : W64 := 0x8000000000000000
    let lands (i : Instr) (v : W64) : Prop := exec i s = .next (s.landL l [.s d v])
    lands (.mul d a b l) (x * y) ∧ lands (.mulh d a b l) (BitVec.ofInt 64 (x.toInt * y.toInt / 2 ^ 64)) ∧
    lands (.mulhu d a b l) (BitVec.ofNat 64 (x.toNat * y.toNat / 2 ^ 64)) ∧
    lands (.div d a b l) (if y = 0 then minusOne else if x = least ∧ y = minusOne then least else BitVec.ofInt 64 (x.toInt.tdiv y.toInt)) ∧
    lands (.divu d a b l) (if y = 0 then minusOne else BitVec.ofNat 64 (x.toNat / y.toNat)) ∧
    lands (.rem d a b l) (if y = 0 then x else if x = least ∧ y = minusOne then 0 else BitVec.ofInt 64 (x.toInt.tmod y.toInt)) ∧
    lands (.remu d a b l) (if y = 0 then x else BitVec.ofNat 64 (x.toNat % y.toNat))

/-- R142, R143: the immediate instructions. -/
def Obligations.Immediates : Prop :=
  ∀ (s : State) (d a : SReg) (i : BitVec 16) (n : BitVec 6), Safety.plain s [d, a] = true →
    let x := s.rd a
    let sx : W64 := i.signExtend 64
    let zx : W64 := i.setWidth 64
    let ends (j : Instr) (v : W64) : Prop := exec j s = .next ((s.wr d v).retire)
    ends (.addi d a i) (x + sx) ∧ ends (.andi d a i) (x &&& zx) ∧ ends (.ori d a i) (x ||| zx) ∧ ends (.xori d a i) (x ^^^ zx) ∧
    ends (.slti d a i) (if x.toInt < sx.toInt then 1 else 0) ∧ ends (.sltiu d a i) (if x.toNat < sx.toNat then 1 else 0) ∧
    ends (.slli d a n) (x <<< n.toNat) ∧ ends (.srli d a n) (x >>> n.toNat) ∧ ends (.srai d a n) (x.sshiftRight n.toNat) ∧
    ends (.rori d a n) (x.rotateRight n.toNat) ∧ ends (.lui d i) ((i ++ 0#16 : BitVec 32).signExtend 64) ∧
    ends (.insh d a i) ((x <<< 16) ||| zx)

/-- R144: the predicate instructions on integers and predicates. -/
def Obligations.Predicates : Prop :=
  ∀ (s : State) (p q r : PReg) (a b : SReg), Safety.plain s [a, b] = true →
    let x := s.rd a
    let y := s.rd b
    let ends (i : Instr) (v : Bool) : Prop := exec i s = .next ((s.wp p v).retire)
    ends (.ceq p a b) (decide (x = y)) ∧ ends (.cne p a b) (decide (x ≠ y)) ∧ ends (.clt p a b) (decide (x.toInt < y.toInt)) ∧
    ends (.cltu p a b) (decide (x.toNat < y.toNat)) ∧ ends (.cge p a b) (decide (y.toInt ≤ x.toInt)) ∧
    ends (.cgeu p a b) (decide (y.toNat ≤ x.toNat)) ∧ ends (.pand p q r) (s.rp q && s.rp r) ∧ ends (.por p q r) (s.rp q || s.rp r) ∧
    ends (.pxor p q r) (xor (s.rp q) (s.rp r)) ∧ ends (.pandn p q r) (s.rp q && !s.rp r) ∧ ends (.ptos p a) (decide (x ≠ 0)) ∧
    ends (.sbitp p a b) (x.getLsbD (y.toNat % 64))

/-- FRAME of the instructions that write one scalar register and nothing else (R133, R135): the INT group, the immediates and MINT, with the long
ones at la = 0; and of the predicate instructions, which write one predicate. -/
def Obligations.RegisterFrame : Prop :=
  ∀ (s t : State) (d a b : SReg) (i : BitVec 16) (n : BitVec 6) (p q r : PReg), Safety.plain s [d, a, b] = true → s.core.shadow = none →
    s.core.resume = none →
    (∀ j, j ∈ ([.add d a b, .sub d a b, .and d a b, .or d a b, .xor d a b, .andn d a b, .orn d a b, .sll d a b, .srl d a b, .sra d a b,
        .rol d a b, .ror d a b, .slt d a b, .sltu d a b, .min d a b, .max d a b, .minu d a b, .maxu d a b, .mul d a b 0, .mulh d a b 0,
        .mulhu d a b 0, .div d a b 0, .divu d a b 0, .rem d a b 0, .remu d a b 0, .clz d a, .ctz d a, .popc d a, .bswap d a, .sextb d a,
        .sexth d a, .sextw d a, .zextb d a, .zexth d a, .zextw d a, .csel d a b, .addi d a i, .andi d a i, .ori d a i, .xori d a i,
        .slti d a i, .sltiu d a i, .slli d a n, .srli d a n, .srai d a n, .rori d a n, .lui d i, .insh d a i, .mint d a b] : List Instr) →
      exec j s = .next t → Safety.frameS s t d) ∧
    (∀ j, j ∈ ([.ceq p a b, .cne p a b, .clt p a b, .cltu p a b, .cge p a b, .cgeu p a b, .pand p q r, .por p q r, .pxor p q r, .pandn p q r,
        .ptos p a, .sbitp p a b] : List Instr) →
      exec j s = .next t → Safety.frameP s t p)

/-- R107, R141: under an armed MOD prefix with no clamp, abs or neg, with sat and no scale ADD, SUB and MUL give the exact signed result saturated to 64 bits; and
without sat, with a scale of −k the floor of the exact result divided by 2^k. -/
def Obligations.ModIntegers : Prop :=
  ∀ (s : State) (d a b : SReg) (m : Mod), s.core.modp = some m → s.core.port? d = none → s.core.port? a = none → s.core.port? b = none →
    m.clamp = false → m.absa = false → m.absb = false → m.nega = false → m.negb = false →
    let x := (s.rd a).toInt
    let y := (s.rd b).toInt
    let ends (i : Instr) (v : W64) : Prop := exec i s = .next ((s.wr d v).retire)
    let sat (n : Int) : W64 := BitVec.ofInt 64 (if n < -2 ^ 63 then -2 ^ 63 else if 2 ^ 63 - 1 < n then 2 ^ 63 - 1 else n)
    (m.sat = true → m.scale = 0 →
      ends (.add d a b) (sat (x + y)) ∧ ends (.sub d a b) (sat (x - y)) ∧
      exec (.mul d a b 0) s = .next (s.landL 0 [.s d (sat (x * y))])) ∧
    (m.sat = false → ∀ k : Nat, m.scale.toInt = -(k : Int) →
      ends (.add d a b) (BitVec.ofInt 64 ((x + y).fdiv (2 ^ k))) ∧
      exec (.mul d a b 0) s = .next (s.landL 0 [.s d (BitVec.ofInt 64 ((x * y).fdiv (2 ^ k)))]))

/-! ### Stream ports as operands -/

/-- R133, R214: a field that names a bound read port with elements buffered gives the next element and uses it up, twice when two fields name it. R215: a
use of a bound port that reads a write port, writes a read port, reads and writes one port, or has one as destination of CSEL or FMAC traps with CAUSE 0x10 and
the reason in TVAL[15:8], before any effect: the state that traps is the state before the instruction. -/
def Obligations.PortOperands : Prop :=
  (∀ (s : State) (d a b : SReg) (n : Fin 8) (x y : W64) (r : List W64), s.core.modp = none → s.core.port? a = some n →
      (s.core.ports.get n).fetched = x :: y :: r → s.core.strWrite n.val = false → (s.core.ports.get n).idx + 2 ≤ s.core.strTotal n.val →
      s.core.port? d = none →
      let used (k : Nat) : State := s.setCore fun c => c.setPort n fun p => { p with idx := p.idx + k, fetched := p.fetched.drop k }
      (s.core.port? b = none → exec (.add d a b) s = .next (((used 1).wr d (x + s.rd b)).retire)) ∧
      exec (.add d a a) s = .next (((used 2).wr d (x + y)).retire)) ∧
  (∀ (s : State) (d a b : SReg) (p : PReg) (n : Fin 8) (i : BitVec 16) (l : BitVec 4), s.core.modp = none → s.core.port? b = none →
      let tv (reason : Nat) : W64 := w64 (n.val + reason * 256)
      let x := s.core.ports.get n
      let writes (d a : SReg) : List Instr := [.addi d a i, .andi d a i, .ori d a i, .xori d a i, .slti d a i, .sltiu d a i, .insh d a i, .clz d a, .ctz d a,
        .popc d a, .bswap d a, .sextb d a, .sexth d a, .sextw d a, .zextb d a, .zexth d a, .zextw d a, .add d a b, .sub d a b, .and d a b, .or d a b, .xor d a b,
        .andn d a b, .orn d a b, .sll d a b, .srl d a b, .sra d a b, .rol d a b, .ror d a b, .slt d a b, .sltu d a b, .min d a b, .max d a b, .minu d a b,
        .maxu d a b, .mint d a b]
      (x.pushed.length + 1) * s.core.strSize n.val ≤ 256 → (x.fetched ≠ [] ∨ s.core.strWrite n.val = true) →
      (s.core.port? a = some n → s.core.strWrite n.val = true → s.core.port? d = none →
        (∀ j ∈ writes d a, exec j s = .next (s.trap 0x10#8 (tv 4))) ∧ exec (.mul d a b l) s = .next (s.trapL l 0x10#8 (tv 4)) ∧
        ∀ j ∈ ([.ceq p a b, .clt p a b, .cltu p a b, .ptos p a, .sbitp p a b] : List Instr), exec j s = .next (s.trap 0x10#8 (tv 4))) ∧
      (s.core.port? d = some n → s.core.strWrite n.val = false → s.core.port? a = none →
        (∀ j ∈ writes d a, exec j s = .next (s.trap 0x10#8 (tv 4))) ∧ exec (.mul d a b l) s = .next (s.trapL l 0x10#8 (tv 4))) ∧
      (s.core.port? d = some n →
        (∀ j ∈ writes d d, exec j s = .next (s.trap 0x10#8 (tv 6))) ∧ exec (.mul d d b l) s = .next (s.trapL l 0x10#8 (tv 6))) ∧
      (s.core.port? d = some n → s.core.port? a = none → exec (.csel d a b) s = .next (s.trap 0x10#8 (tv 8)) ∧
        exec (.fmac d a b l) s = .next (s.trapL l 0x10#8 (tv 8))))

/-! ### Floating point -/

/-- R152 to R158, R161: a scalar FP instruction without a prefix rounds its exact result once to FP32 in the mode of FRM, ORs the flags of the
operation and of the rounding into FFLAGS, and lands the result's bits, zero-extended, under its la; in SR mode an instruction that draws takes
MINT(MINTKEY, SRBASE) and advances SRBASE by one, and FMIN, FMAX and FCLASS leave it. R145: the comparisons and the one flag that they may set.
Rounding beyond the greatest finite value in SR mode is read as RZ (log entry 45). -/
def Obligations.FpResults : Prop :=
  (∀ (s : State) (d a b : SReg) (l : BitVec 4), Safety.plain s [d, a, b, 0#5] = true →
      let m : RMode := s.core.frm.setWidth 2
      let u := if m = 3#2 then ((mint s.core.mintkey s.core.srbase) >>> 32).toNat else 0
      let x := fp32.read (s.rd a).toNat
      let y := fp32.read (s.rd b).toNat
      let z := fp32.read (s.rd d).toNat
      let lands (draws : Bool) (i : Instr) (v : Nat) (f g : Fl) : Prop :=
        exec i s = .next ((s.setCore fun c =>
          { c with fflags := c.fflags ||| (f.or g).fflags, srbase := if draws && m == 3#2 then c.srbase + 1#64 else c.srbase }).landL l
            [.s d (w64 v)])
      let rounds (draws : Bool) (i : Instr) (v : Val × Fl) : Prop :=
        lands draws i (fp32.round m (if draws then u else 0) false v.1).1 v.2 (fp32.round m (if draws then u else 0) false v.1).2
      let conv (i : Instr) (src dst : FpFmt) (w : Nat) : Prop :=
        let v := src.read ((s.rd a).toNat % 2 ^ w)
        lands true i (dst.round m u false v.quiet).1 (dst.round m u false v.quiet).2 { nv := v.isSnan }
      rounds true (.fadd d a b l) (addV (m == 2#2) x y) ∧ rounds true (.fsub d a b l) (subV (m == 2#2) x y) ∧
      rounds true (.fmul d a b l) (mulV x y) ∧ rounds true (.fdiv d a b l) (divV x y) ∧ rounds true (.fsqrt d a l) (sqrtV x) ∧
      rounds true (.fmac d a b l) (fmaV (m == 2#2) false x y z) ∧ rounds false (.fmin d a b l) (minV x y) ∧
      rounds false (.fmax d a b l) (maxV x y) ∧
      lands true (.frnd d a l) (frndV m u x).1 (frndV m u x).2 .none ∧ lands false (.fclass d a l) (2 ^ fclassV x) .none .none ∧
      lands true (.fcvtWS d a l) (mantBits 32 (satMant 0 (-2 ^ 31) (2 ^ 31 - 1) false m u x).1) (satMant 0 (-2 ^ 31) (2 ^ 31 - 1) false m u x).2 .none ∧
      rounds true (.fcvtSW d a l) (.int ((s.rd a).setWidth 32).toInt 0, .none) ∧
      conv (.fcvtSBf d a l) bf16 fp32 16 ∧ conv (.fcvtBfS d a l) fp32 bf16 32 ∧ conv (.fcvtSH d a l) fp16 fp32 16 ∧
      conv (.fcvtHS d a l) fp32 fp16 32 ∧ conv (.fcvtSE4 d a l) e4m3 fp32 8 ∧ conv (.fcvtE4S d a l) fp32 e4m3 32 ∧
      conv (.fcvtSE5 d a l) e5m2 fp32 8 ∧ conv (.fcvtE5S d a l) fp32 e5m2 32) ∧
  (∀ (s : State) (p : PReg) (a b : SReg), Safety.plain s [a, b] = true →
      let x := fp32.read (s.rd a).toNat
      let y := fp32.read (s.rd b).toNat
      let nan := x.isNan || y.isNan
      let snan := x.isSnan || y.isSnan
      let ends (i : Instr) (v nv : Bool) : Prop :=
        exec i s = .next (((s.setCore fun c => { c with fflags := c.fflags ||| (if nv then 0x10#64 else 0) }).wp p v).retire)
      ends (.fceq p a b) (!nan && cmpV x y == .eq) snan ∧ ends (.fclt p a b) (!nan && cmpV x y == .lt) nan ∧
      ends (.fcle p a b) (!nan && (cmpV x y == .lt || cmpV x y == .eq)) nan ∧ ends (.fcun p a b) nan snan)

/-! ### Branches, jumps, repeat frames, prefixes, hints -/

/-- R146 to R149: a branch whose condition holds, and a jump, go on at the target, with no frame and no shadow position; the others go on at the
next word. JAL links in s1, JALR in s[d]; a JALR whose target is no multiple of 4 traps with CAUSE 0x02 and the target in TVAL. -/
def Obligations.Branches : Prop :=
  ∀ (s : State) (p : PReg) (d a b : SReg) (o : BitVec 16) (f : BitVec 26), Safety.plain s [d, a, b] = true →
    let x := s.rd a
    let y := s.rd b
    let goes (s : State) (t : W64) : State :=
      { s with core := { s.core with st := .running, pc := t, obj := none, modp := none, resume := none,
                                     far := if s.core.retrying then s.core.far else none, gangWait := none,
                                     latch := none, frame := none,
                                     shdone := if s.core.resume.any (fun r => r.len != 0 || r.retry.isNone) then clrBit s.core.shdone 31 else s.core.shdone } }
    let there := s.core.pc + 4#64 * o.signExtend 64
    let branches (i : Instr) (c : Bool) : Prop := exec i s = .next (if c then goes s there else s.retire)
    branches (.beq a b o) (decide (x = y)) ∧ branches (.bne a b o) (decide (x ≠ y)) ∧ branches (.blt a b o) (decide (x.toInt < y.toInt)) ∧
    branches (.bge a b o) (decide (y.toInt ≤ x.toInt)) ∧ branches (.bltu a b o) (decide (x.toNat < y.toNat)) ∧
    branches (.bgeu a b o) (decide (y.toNat ≤ x.toNat)) ∧ branches (.bpt p o) (s.rp p) ∧ branches (.bpf p o) (!s.rp p) ∧
    exec (.j f) s = .next (goes s (s.core.pc + 4#64 * f.signExtend 64)) ∧
    exec (.jal f) s = .next (goes (s.wr 1#5 (s.core.pc + 4#64)) (s.core.pc + 4#64 * f.signExtend 64)) ∧
    (let t := x + o.signExtend 64
     exec (.jalr d a o) s = .next (if t.toNat % 4 = 0 then goes (s.wr d (s.core.pc + 4#64)) t else s.trap 0x02#8 t))

/-- R165, R166: RPT and RPTR open a frame of the next len words (16 when the field is 0) for n trips at the word after them; with no trip the core
goes on past the frame. In trip i the register fields of an INT word are d + i·stride(sd), a + i·stride(sa) and b + i·stride(sb) modulo 32, a field
of 0 stays 0, and every other bit of the word stays. R167: a word that a frame may not hold traps with CAUSE 0x11 and the word in TVAL, in the state in which
it is at hand. -/
def Obligations.RepeatFrames : Prop :=
  (∀ (s : State) (len : BitVec 4) (x y z : BitVec 2) (t : BitVec 16) (b : SReg), Safety.plain s [b] = true →
      let k := if len = 0#4 then 16 else len.toNat
      let base := s.core.pc + 4#64
      let opens (i : Instr) (n : Nat) : Prop :=
        ∃ u, exec i s = .next u ∧ u.core.st = .running ∧ Safety.frame0 s u ∧ u.core.shadow = s.core.shadow ∧
          (n = 0 → u.core.pc = base + 4#64 * BitVec.ofNat 64 k ∧ u.core.frame = none) ∧
          (n ≠ 0 → u.core.pc = base ∧ u.core.frame = some ⟨base, k, x ++ y ++ z, 0, 0, n - 1⟩)
      opens (.rpt len x y z t) t.toNat ∧ opens (.rptr len x y z b) ((s.rd b).setWidth 32).toNat) ∧
  (∀ (f : Frame) (d a b : SReg) (fn : BitVec 7) (sd sa sb : BitVec 2), f.str = sd ++ sa ++ sb → (decode (packR 1#6 d a b fn 0#4)).isOk = true →
      let strideOf (c : BitVec 2) : Nat := if c = 3#2 then 4 else c.toNat
      let adv (r : SReg) (c : BitVec 2) : SReg := if r = 0#5 then 0#5 else BitVec.ofNat 5 (r.toNat + f.iter * strideOf c)
      f.stagger (packR 1#6 d a b fn 0#4) = packR 1#6 (adv d sd) (adv a sa) (adv b sb) fn 0#4) ∧
  (∀ (s : State) (w : W32) (o : CodeObj) (i : Instr), Safety.coreTurn s = true → Safety.direct s = true → s.core.frame.isSome = true →
      s.wordAt = some (w, o) → decode w = .ok i →
      let op := w.toNat / 2 ^ 26
      ((11 ≤ op ∧ op ≤ 23) ∨ (25 ≤ op ∧ op ≤ 35) ∨ (op = 38 ∧ 5 < w.toNat / 2 ^ 8 % 2 ^ 5) ∨ (39 ≤ op ∧ op ≤ 61)) →
      step s = .next ((Safety.atHand s w o).trap 0x11#8 (w.setWidth 64)))

/-- R125: a MOD word whose target may carry it arms its prefix for the next word, and changes nothing else. R126, R129: before a word that may not be its
target, or with absb or negb before one that has no b operand, it traps with CAUSE 0x01 and reason 5; R126, R167: in a frame, with CAUSE 0x11. -/
def Obligations.ModArms : Prop :=
  ∀ (s : State) (t k a n b m : BitVec 1) (e : BitVec 6) (r : BitVec 5) (w : W32), s.nextWord = some w →
    let i : Instr := .mod t k a n b m e r
    let bad : Prop := modTarget w = false ∨ ((b = 1#1 ∨ m = 1#1) ∧ oneOperand w = true)
    (¬ bad → s.core.frame = none → exec i s = .next { s with core := { s.core with
      st := .running, latch := none, pc := s.core.pc + 4#64,
      modp := some ⟨s.core.pc, t == 1#1, k == 1#1, a == 1#1, n == 1#1, b == 1#1, m == 1#1, e, r⟩ } }) ∧
    (bad → exec i s = .next (s.trap 0x01#8 (w64 ((encode i).toNat + 5 * 2 ^ 32)))) ∧
    (∀ (v : W32) (o : CodeObj), ¬ bad → Safety.coreTurn s = true → Safety.direct s = true → s.core.frame.isSome = true → s.wordAt = some (v, o) →
      decode v = .ok i → step s = .next ((Safety.atHand s v o).trap 0x11#8 (v.setWidth 64)))

/-- R128, R387: NOP and the hints change no architectural state: they are a position of a shadow and nothing else; what PREFL may bring into
the L1 data cache, or find correctable on its way, is no such state. BRK traps with CAUSE 0x15 and its code in TVAL. -/
def Obligations.NopHintsBreak : Prop :=
  ∀ (s : State) (d a b : BitVec 5) (l : BitVec 4) (n : BitVec 15),
    exec .nop s = .next s.retire ∧ exec (.hnop d a b l) s = .next s.retire ∧ exec (.prefd d a b l) s = .next s.retire ∧
    exec (.spinh d a b l) s = .next s.retire ∧
    (∃ ls es ds, exec (.prefl d a b l) s = .next ({ s with core := { s.core with l1 := ls }, soft := es, dies := ds } : State).retire) ∧
    exec (.brk n) s = .next (s.trap 0x15#8 (n.setWidth 64))

/-! ### Control registers, the Mint, code objects -/

/-- R388, R389: CRR reads a register, CRW writes it, CRS sets and CRC clears the bits of s[a], each only in the bits that a program may write; the
waits of the registers' own rules apart. An unknown register, and a write of one that is read-only as a whole, trap with CAUSE 0x01, the word, and reason 7
(R129). -/
def Obligations.ControlRegisters : Prop :=
  ∀ (s : State) (d h a l : BitVec 5), Safety.plain s [d, a] = true → s.core.rx = [] →
    let n := (h ++ l : BitVec 10)
    let old := s.crRead n.toNat
    let m := crMask n.toNat
    let writes (i : Instr) (v : W64) : Prop := exec i s = .next ((s.setCore (·.crPut n.toNat v)).retire)
    (crKnown n = true → s.core.crWaits n.toNat true = false → exec (.crr d h l) s = .next ((s.wr d old).retire)) ∧
    (crWritable n = true → s.core.crWaits n.toNat false = false → n ≠ 0x22 → n ≠ 0x23 →
      writes (.crw h a l) (s.rd a &&& m) ∧ writes (.crs h a l) ((old ||| s.rd a) &&& m) ∧ writes (.crc h a l) (old &&& ~~~(s.rd a) &&& m)) ∧
    (let k := n.toNat
     let known : Prop := k ≤ 0x0B ∨ (0x10 ≤ k ∧ k ≤ 0x16) ∨ (0x18 ≤ k ∧ k ≤ 0x1E) ∨ (0x20 ≤ k ∧ k ≤ 0x29) ∨ (0x30 ≤ k ∧ k ≤ 0x37)
     let readOnly : Prop := k ≤ 0x0B ∨ (0x18 ≤ k ∧ k ≤ 0x1A)
     let refuses (i : Instr) : Prop := exec i s = .next (s.trap 0x01#8 (w64 ((encode i).toNat + 7 * 2 ^ 32)))
     (¬ known → refuses (.crr d h l)) ∧ (¬ known ∨ readOnly → refuses (.crw h a l) ∧ refuses (.crs h a l) ∧ refuses (.crc h a l)))

/-- R105, R162, R163: MINT writes MINT(s[a], s[b]), four rounds of the spec's mixing; MINTK sets STREAMID and MINTKEY together. -/
def Obligations.MintResults : Prop :=
  ∀ (s : State) (d a b : SReg), Safety.plain s [d, a, b] = true →
    let round (key : W64) (i : Nat) (x : W64) : W64 :=
      let x := x + key + BitVec.ofNat 64 ((i + 1) * 0x9E3779B97F4A7C15)
      let x := (x ^^^ (x >>> 31)) * 0xBF58476D1CE4E5B9#64
      x ^^^ (x >>> 29)
    let mix (key c : W64) : W64 := round key 3 (round key 2 (round key 1 (round key 0 c)))
    exec (.mint d a b) s = .next ((s.wr d (mix (s.rd a) (s.rd b))).retire) ∧
    exec (.mintk a) s = .next ((s.setCore fun c => { c with streamid := s.rd a, mintkey := mix s.core.jobseed (s.rd a) }).retire)

/-! ### Loads, stores, full/empty bits -/

/-- R192, R206, R229: a load of a naturally aligned word of the core's own local memory lands its bytes, lowest address lowest, sign- or
zero-extended; a byte at or above the declared minimum reads as zero (R27). -/
def Obligations.LocalLoads : Prop :=
  ∀ (s : State) (d a : SReg) (o : BitVec 9) (l : BitVec 4), Safety.plain s [d, a] = true → s.core.far = none → s.core.posted = [] → s.bad = [] → s.soft = [] →
    let at' (size : Nat) : Nat := (s.rd a + o.signExtend 64 * BitVec.ofNat 64 size).toNat
    let byte (size i : Nat) : Byte := s.core.locByte (at' size - localBase + i)
    let ok (size : Nat) : Prop := localBase ≤ at' size ∧ at' size + size ≤ localBase + 0x40000 ∧ at' size % size = 0
    let lands (i : Instr) (v : W64) : Prop := exec i s = .next (s.landL l [.s d v])
    (ok 1 → lands (.ldb d a o l) ((byte 1 0).signExtend 64) ∧ lands (.ldbu d a o l) ((byte 1 0).setWidth 64)) ∧
    (ok 2 → lands (.ldh d a o l) ((byte 2 1 ++ byte 2 0).signExtend 64) ∧ lands (.ldhu d a o l) ((byte 2 1 ++ byte 2 0).setWidth 64)) ∧
    (ok 4 → lands (.ldw d a o l) ((byte 4 3 ++ byte 4 2 ++ byte 4 1 ++ byte 4 0).signExtend 64) ∧
      lands (.ldwu d a o l) ((byte 4 3 ++ byte 4 2 ++ byte 4 1 ++ byte 4 0).setWidth 64)) ∧
    (ok 8 → lands (.ldd d a o l)
      (byte 8 7 ++ byte 8 6 ++ byte 8 5 ++ byte 8 4 ++ byte 8 3 ++ byte 8 2 ++ byte 8 1 ++ byte 8 0))

/-- R206, R208, R27: a store of a naturally aligned word to the core's own local memory writes its bytes below the declared minimum, lowest first, at
the address it computes; every other byte of memory, every register and everything else stays. -/
def Obligations.LocalStores : Prop :=
  ∀ (s : State) (d a : SReg) (dd : BitVec 2) (o : BitVec 9) (l : BitVec 4),
    Safety.plain s [d, a, dd ++ 0#3, dd ++ 1#3, dd ++ 2#3, dd ++ 3#3, dd ++ 4#3, dd ++ 5#3, dd ++ 6#3, dd ++ 7#3] = true → s.core.posted = [] →
    s.core.deque = [] →
    let stores (i : Instr) (size : Nat) (data : Nat → Byte) : Prop :=
      let va := (s.rd a + o.signExtend 64 * BitVec.ofNat 64 size).toNat
      localBase ≤ va → va + size ≤ localBase + 0x40000 → va % size = 0 →
      ∃ m, exec i s = .next ((s.setCore fun c => { c with lmem := m }).landL l []) ∧
        (∀ k, k < size → va - localBase + k < s.core.lmin → Memory.get m (va - localBase + k) = data k) ∧
        (∀ x, x < va - localBase ∨ va - localBase + size ≤ x ∨ s.core.lmin ≤ x → Memory.get m x = Memory.get s.core.lmem x)
    let low (k : Nat) : Byte := (s.rd d).extractLsb' (8 * k) 8
    stores (.stb d a o l) 1 low ∧ stores (.sth d a o l) 2 low ∧ stores (.stw d a o l) 4 low ∧ stores (.std d a o l) 8 low ∧
    stores (.st64 dd a o l) 64 (fun k => (s.rd (dd ++ BitVec.ofNat 3 (k / 8))).extractLsb' (8 * (k % 8)) 8)

/-- R196 to R200, R207, R208, R238, R27: loads and stores beyond the core's own local memory, on addresses of their alignment that no TLB, walker or L1 of the
core holds. An address outside every range, a walk that fails, a permission that the leaf does not give, a frame that is not populated, an address of the code
heap, and a misuse of the control page trap with the cause, the reason and the address. A page of this module, or of its host, and the window of another core
of the module give a load the bytes there, and take a store, which waits in the buffer for its turn; one of another module sends it a request, and the load
waits for the answer.
Of a page in the heap of code (R53) that data accesses fail by permission is the model's reading (log entry 90). -/
def Obligations.Translation : Prop :=
  ∀ (s : State) (d a b : SReg) (dd : BitVec 2) (o : BitVec 9) (l : BitVec 4) (rr : BitVec 2),
    Safety.plain s [d, a, b, dd ++ 0#3, dd ++ 1#3, dd ++ 2#3, dd ++ 3#3, dd ++ 4#3, dd ++ 5#3, dd ++ 6#3, dd ++ 7#3] = true → s.core.far = none →
    s.core.posted = [] → s.bad = [] → s.soft = [] → s.core.utlb = [] → (s.yard (pcYard s.core.pcid)).tlb = [] → (s.die (pcDie s.core.pcid)).walks = [] →
    s.core.l1 = [] →
    let c := s.core
    let cx := s.ctx (s.queue c.queue).ctx
    let loads : List (Instr × Nat × Bool) := [(.ldb d a o l, 1, true), (.ldbu d a o l, 1, false), (.ldh d a o l, 2, true), (.ldhu d a o l, 2, false),
      (.ldw d a o l, 4, true), (.ldwu d a o l, 4, false), (.ldd d a o l, 8, false)]
    let low (n : Nat) : List Byte := (List.range n).map fun k => (s.rd d).extractLsb' (8 * k) 8
    let stores : List (Instr × Nat × List Byte) := [(.stb d a o l, 1, low 1), (.sth d a o l, 2, low 2), (.stw d a o l, 4, low 4), (.std d a o l, 8, low 8),
      (.st64 dd a o l, 64, (List.range 64).map fun k => (s.rd (dd ++ BitVec.ofNat 3 (k / 8))).extractLsb' (8 * (k % 8)) 8)]
    let va (n : Nat) : Nat := (s.rd a + o.signExtend 64 * BitVec.ofNat 64 n).toNat
    -- the leaf that maps v and the physical address, or the reason; `need` are the permission bits
    let entry (table v lo : Nat) : W64 := w64 (Memory.num s.mem (table + 8 * (v / 2 ^ lo % 8192)) 8)
    let next (e : W64) : Nat := bf e 17 29 * 2 ^ 17
    let pointer (e : W64) : Bool := decide (bf e 46 18 = 0) && decide (bf e 1 16 = 0)
    let leaf (e : W64) (big : Bool) : Bool := decide (bf e 7 10 = 0) && (!big || decide (bf e 17 13 = 0)) && !(bit e 1 && (decide (bf e 50 2 = 0) || decide (bf e 50 2 = 3)))
    let page (v : Nat) : Except Nat (W64 × Nat) :=
      let e1 := entry cx.ptroot.toNat v 43
      let e2 := entry (next e1) v 30
      let e3 := entry (next e2) v 17
      if !bit e1 0 then .error 2 else if !pointer e1 then .error 5 else if !bit e2 0 then .error 3
      else if bit e2 2 then (if leaf e2 true then .ok (e2, next e2 + v % 2 ^ 30) else .error 5) else if !pointer e2 then .error 5
      else if !bit e3 0 then .error 4 else if bit e3 2 && leaf e3 false then .ok (e3, next e3 + v % 2 ^ 17) else .error 5
    let code (v : Nat) : Prop := cx.st = 2 ∧ cx.heapbase.toNat ≤ v ∧ v < cx.heapbase.toNat + cx.heapsize.toNat
    let mine (e : W64) : Prop := bf e 50 2 = 0 ∨ bf e 52 12 = Config.pkgX
    let fails (v : Nat) (need : W64) (r : Nat) : Prop :=
      (v < 2 ^ 54 ∧ code v ∧ r = 6) ∨
      (v < 2 ^ 54 ∧ ¬ code v ∧ (page v = .error r ∨ ∃ e pa, page v = .ok (e, pa) ∧
        ((e &&& need ≠ need ∧ r = 6) ∨ (e &&& need = need ∧ bit e 1 = false ∧ mine e ∧ s.populated (pa / 2 ^ 17) = false ∧ r = 8)))) ∨
      (2 ^ 54 ≤ v ∧ v < localBase ∧ c.ncores.toNat ≤ (v - 2 ^ 54) / 2 ^ 18 ∧ r = 1) ∨
      (localBase + 0x40000 ≤ v ∧ v < ctlBase ∧ r = 1) ∨ (ctlBase + 0x10000 ≤ v ∧ r = 1)
    let ctl (v : Nat) : Prop := ctlBase ≤ v ∧ v < ctlBase + 0x10000
    let traps (i : Instr) (cause : Byte) (v r : Nat) : Prop := exec i s = .next (s.trapL l (if r = 6 then 0x06 else cause) (w64 (v % 2 ^ 56 + r * 2 ^ 56)))
    -- nothing but the TLBs, the walkers and the L1 differs from s
    let seen (u : State) : Prop := { u with yards := s.yards, dies := s.dies, core := { u.core with utlb := [], l1 := [] } } = s
    let value (n : Nat) (sx : Bool) (bs : List Byte) : W64 := let x := BitVec.ofNat (8 * n) (ofBytes bs); if sx then x.signExtend 64 else x.setWidth 64
    let reads (v : Nat) (e : W64) (pa : Nat) (need : W64) : Prop := v < 2 ^ 54 ∧ ¬ code v ∧ page v = .ok (e, pa) ∧ e &&& need = need
    let where' (e : W64) (pa : Nat) : Place := .far (bf e 52 12) (bf e 46 4) pa (bit e 1) (bf e 50 2)
    (∀ i n sx, (i, n, sx) ∈ loads → va n % n = 0 →
      (∀ r, fails (va n) 0x08 r ∨ (r = 6 ∧ ctl (va n) ∧ (n ≠ 8 ∨ va n - ctlBase < 0x100 ∨ (0x200 ≤ va n - ctlBase ∧ va n - ctlBase < 0x400) ∨
        0x500 ≤ va n - ctlBase)) → traps i 0x04 (va n) r) ∧
      (∀ e pa, reads (va n) e pa 0x08 →
        let lands (bs : List Byte) : Prop := ∃ u, exec i s = .next (u.landL l [.s d (value n sx bs)]) ∧ seen u
        (bit e 1 = false → mine e → s.populated (pa / 2 ^ 17) = true → lands (Memory.read s.mem pa n)) ∧
        (bit e 1 = true → bf e 52 12 = Config.pkgX → lands (Memory.read s.hostMem pa n)) ∧
        (bf e 52 12 ≠ Config.pkgX → bit e 1 = true ∨ bf e 50 2 ≠ 0 →
          let line := bf e 50 2 = 2
          let dst := where' e (if line then pa / 64 * 64 else pa)
          let size := if line then 64 else n
          let tag := s.nextTag % 3840
          ∃ t, exec i s = .next t ∧ t.outbox = s.outbox ++ [.read tag dst size] ∧ t.reqs = s.reqs ++ [⟨tag, c.queue, c.lcn.toNat, .load, dst, size⟩] ∧
            t.core.s = c.s ∧ t.core.p = c.p ∧ t.core.k = c.k ∧ t.mem = s.mem ∧ t.peers = s.peers)) ∧
      (∀ k q, (va n - 2 ^ 54) / 2 ^ 18 < c.ncores.toNat → 2 ^ 54 ≤ va n → va n < localBase → (va n - 2 ^ 54) / 2 ^ 18 ≠ c.lcn.toNat →
        s.find c.queue ((va n - 2 ^ 54) / 2 ^ 18) = some k → s.peers[k]? = some q → q.st ≠ .saved → q.stash = [] →
        exec i s = .next (s.landL l [.s d (value n sx ((List.range n).map fun j => q.locByte ((va n - 2 ^ 54) % 2 ^ 18 + j)))]))) ∧
    (∀ i n data, (i, n, data) ∈ stores → va n % n = 0 →
      (∀ r, fails (va n) 0x10 r ∨ (r = 6 ∧ ctl (va n) ∧ ¬ (n = 8 ∧ 0x400 ≤ va n - ctlBase ∧ va n - ctlBase < 0x500) ∧ ¬ (n = 64 ∧ va n = ctlBase)) →
        traps i 0x05 (va n) r) ∧
      (∀ e pa, reads (va n) e pa 0x10 →
        let tag := s.nextTag % 3840
        let posts (dst : Place) (sent : Bool) (k : State → Prop) : Prop := ∃ u, exec i s = .next (u.landL l []) ∧ u.mem = s.mem ∧ u.hostMem = s.hostMem ∧
          u.peers = s.peers ∧ u.core.posted = [⟨dst, data, false, tag, w64 (va n), sent⟩] ∧
          { u.core with posted := [], utlb := [], l1 := [] } = c ∧ k u
        (bit e 1 = false → mine e → s.populated (pa / 2 ^ 17) = true → posts (.mem pa (bf e 50 2)) false fun u =>
          u.outbox = s.outbox ∧ u.drainAll.mem = Memory.write s.mem pa data ∧ u.drainAll.core.posted = []) ∧
        (bit e 1 = true → bf e 52 12 = Config.pkgX → posts (.host pa (bf e 50 2) cx.fn) false fun u =>
          u.outbox = s.outbox ∧ u.drainAll.hostMem = Memory.write s.hostMem pa data ∧ u.drainAll.core.posted = []) ∧
        (bf e 52 12 ≠ Config.pkgX → bit e 1 = true ∨ bf e 50 2 ≠ 0 → posts (where' e pa) true fun u =>
          u.outbox = s.outbox ++ [.write tag (where' e pa) data false] ∧ u.reqs = s.reqs ++ [⟨tag, c.queue, c.lcn.toNat, .posted, where' e pa, n⟩]))) ∧
    (∀ r, (s.rd a).toNat % 8 = 0 → fails (s.rd a).toNat 0x18 r ∨ (r = 6 ∧ ctl (s.rd a).toNat) → traps (.amoadd d a b rr l) 0x04 (s.rd a).toNat r)

/-- R206, R207, R209: an access that is not naturally aligned traps with CAUSE 0x02 and its address in TVAL, and does nothing else. -/
def Obligations.Misaligned : Prop :=
  ∀ (s : State) (d a b : SReg) (dd : BitVec 2) (o : BitVec 9) (r : BitVec 2),
    Safety.plain s [d, a, b, dd ++ 0#3, dd ++ 1#3, dd ++ 2#3, dd ++ 3#3, dd ++ 4#3, dd ++ 5#3, dd ++ 6#3, dd ++ 7#3] = true →
    s.core.resume = none →
    let traps (i : Instr) (size : Nat) : Prop :=
      let va := s.rd a + o.signExtend 64 * BitVec.ofNat 64 size
      va.toNat % size ≠ 0 → exec i s = .next (s.trap 0x02#8 va)
    traps (.ldh d a o 0) 2 ∧ traps (.ldhu d a o 0) 2 ∧ traps (.ldw d a o 0) 4 ∧ traps (.ldwu d a o 0) 4 ∧ traps (.ldd d a o 0) 8 ∧
    traps (.sth d a o 0) 2 ∧ traps (.stw d a o 0) 4 ∧ traps (.std d a o 0) 8 ∧ traps (.st64 dd a o 0) 64 ∧ traps (.stfl d a o 0) 8 ∧
    traps (.ldf d a o 0) 8 ∧ traps (.ldfe d a o 0) 8 ∧ traps (.fetest d a o 0) 8 ∧ traps (.feclr a o 0) 8 ∧
    ((s.rd a).toNat % 8 ≠ 0 → exec (.amoadd d a b r 0) s = .next (s.trap 0x02#8 (s.rd a))) ∧
    ((s.rd a).toNat % 128 ≠ 0 → exec (.redx a b r 0) s = .next (s.trap 0x02#8 (s.rd a)))

/-- R194, R209, R210: the full/empty operations on a word of the core's own local memory. STFL writes the word and sets its bit; LDF and LDFE land a
full word, LDFE emptying it, and wait on an empty one; FETEST lands the bit; FECLR clears it. -/
def Obligations.FullEmpty : Prop :=
  ∀ (s : State) (d a : SReg) (o : BitVec 9) (l : BitVec 4), Safety.plain s [d, a] = true → s.core.posted = [] → s.core.deque = [] →
    s.bad = [] → s.soft = [] → s.core.st ≠ .saved →
    let va := (s.rd a + o.signExtend 64 * 8#64).toNat
    let off := va - localBase
    let v := w64 (Memory.num s.core.lmem off 8)
    localBase ≤ va → va + 8 ≤ localBase + 0x40000 → off + 8 ≤ s.core.lmin → va % 8 = 0 →
      (∃ m, exec (.stfl d a o l) s = .next ((({ s with nextTag := (s.nextTag + 1) % 3840 } : State).setCore fun c =>
          ({ c with lmem := m } : Machine.Core).setFe off true).landL l []) ∧
        Memory.num m off 8 = (s.rd d).toNat ∧ ∀ x, x < off ∨ off + 8 ≤ x → Memory.get m x = Memory.get s.core.lmem x) ∧
      (s.core.fe off = true →
        exec (.ldf d a o l) s = .next (s.acquire.landL l [.s d v]) ∧
        exec (.ldfe d a o l) s = .next ((s.setCore (·.setFe off false)).acquire.landL l [.s d v])) ∧
      (s.core.fe off = false → exec (.ldf d a o l) s = .next (s.waitL l) ∧ exec (.ldfe d a o l) s = .next (s.waitL l)) ∧
      exec (.fetest d a o l) s = .next (s.landL l [.s d (if s.core.fe off then 1 else 0)]) ∧
      exec (.feclr a o l) s = .next ((s.setCore (·.setFe off false)).landL l [])

/-! ### Atomics and exact slots -/

/-- R218, R220: an atomic on an aligned doubleword of the core's own local memory whose teller has no request of another core to serve: the old word lands
in s[d], the new one is stored, every other byte stays, and the teller is idle again with the slots it had; the order code's acquire drops the far lines. R221: a teller accepts the head of a port into the FIFO of its
line, and executes the oldest request of a line, whose old word is the reply. -/
def Obligations.Atomics : Prop :=
  (∀ (s : State) (d a b : SReg) (r : BitVec 2) (l : BitVec 4), Safety.plain s [d, a, b] = true → s.core.far = none → s.core.posted = [] →
    s.core.deque = [] → s.core.present = true → s.bad = [] → s.soft = [] →
    let va := (s.rd a).toNat
    let off := va - localBase
    localBase ≤ va → va + 8 ≤ localBase + 0x40000 → off + 8 ≤ s.core.lmin → va % 8 = 0 →
    let yd := pcYard s.core.pcid
    let t := (s.yard yd).teller
    t.ports = List.replicate 4 [] → (∀ x ∈ t.lines, x.2 = []) →
    let m := w64 (Memory.num s.core.lmem off 8)
    let x := s.rd b
    let y := s.rd d
    let does (i : Instr) (new : W64) : Prop :=
      ∃ mem T, exec i s = .next (((if r = 1#2 ∨ r = 3#2 then State.acquire else id)
          ((s.setTeller yd fun _ => T).setCore fun c => { c with lmem := mem })).landL l [.s d m]) ∧
        T.slots = t.slots ∧ T.ports = t.ports ∧ (∀ x ∈ T.lines, x.2 = []) ∧ Memory.num mem off 8 = new.toNat ∧ ∀ z, z < off ∨ off + 8 ≤ z → Memory.get mem z = Memory.get s.core.lmem z
    does (.amoadd d a b r l) (m + x) ∧ does (.amoswp d a b r l) x ∧ does (.amocas d a b r l) (if m = y then x else m) ∧
    does (.amomin d a b r l) (if m.toInt < x.toInt then m else x) ∧ does (.amomax d a b r l) (if m.toInt < x.toInt then x else m) ∧
    does (.amominu d a b r l) (if m.toNat < x.toNat then m else x) ∧ does (.amomaxu d a b r l) (if m.toNat < x.toNat then x else m) ∧
    does (.amoand d a b r l) (m &&& x) ∧ does (.amoor d a b r l) (m ||| x) ∧ does (.amoxor d a b r l) (m ^^^ x)) ∧
  (∀ (s : State) (n k : Nat) (r : TReq) (rest : List TReq) (lines : List (Home × List TReq)),
      let t := (s.yard n).teller
      (t.ports.length = 4 → k < 4 → t.ports.getD k [] = r :: rest → (∀ j, j < 4 → j ≠ k → t.ports.getD j [] = []) →
        (∀ x ∈ t.lines, x.1 ≠ r.home.line) → t.lines.length < 256 →
        exec (.tellerAccept n) s = .next (s.setTeller n fun t => { t with lines := t.lines ++ [(r.home.line, [r])], ports := t.ports.set k rest, last := k })) ∧
      (∀ a, t.lines = (r.home.line, r :: rest) :: lines → r.home = .mem a → r.op < 10 → r.now = false → ∃ u, exec (.tellerExecute n) s = .next u ∧
        let m := w64 (Memory.num s.mem a 8)
        let does (v : W64) : Prop := u.mem = Memory.write s.mem a (toBytes 8 v.toNat) ∧ u.outbox = s.outbox ++ [.reply r.src r.srcInc r.tag 5 [m, 0]]
        u.core = s.core ∧ (r.op = 0 → does (m + r.x)) ∧ (r.op = 1 → does r.x) ∧ (r.op = 7 → does (m &&& r.x)) ∧ (r.op = 8 → does (m ||| r.x))))

/-- R108 to R111, R218, R222, R223: on an exact slot that is live at its teller, or that the teller loads from its home while fewer than 64 are live, REDX and
REDQ add the operand's exact value with the core's origin, REDGET lands the value rounded once and the origin of a NaN, and REDCLR frees the slot and empties
its home. -/
def Obligations.ExactSlots : Prop :=
  ∀ (s : State) (dd : BitVec 4) (a b : SReg) (r : BitVec 2) (l : BitVec 4) (ws : List W64), Safety.plain s [dd ++ 0#1, dd ++ 1#1, a, b] = true →
    s.core.far = none → s.core.posted = [] → s.core.deque = [] → s.core.present = true → s.bad = [] → s.soft = [] →
    let va := (s.rd a).toNat
    let off := va - localBase
    let h : Home := .loc s.core.queue s.core.lcn.toNat off
    let yd := pcYard s.core.pcid
    let t := (s.yard yd).teller
    localBase ≤ va → off + 128 ≤ s.core.lmin → s.core.lmin ≤ 0x40000 → va % 128 = 0 → t.ports = List.replicate 4 [] → (∀ x ∈ t.lines, x.2 = []) →
    (t.slots.find? (·.home == h) = some ⟨h, ws⟩ ∨ t.slots.find? (·.home == h) = none ∧ t.slots.length < 64 ∧ ws.length = 16 ∧
      ∀ k, k < 16 → ws.getD k 0 = s.core.dwAt (off + 8 * k)) →
    let sum := ExSum.ofDws ws
    let x := s.rd b
    let draws := x.toNat / 2 ^ 16 % 4 = 3
    let out := slotGet sum x ((mint s.core.mintkey s.core.srbase) >>> 32).toNat
    let acquires : State → State := if r = 1#2 ∨ r = 3#2 then State.acquire else id
    (∃ u : State, exec (.redx a b r l) s = .next (u.landL l []) ∧
      (u.yard yd).teller.slots.head? = some ⟨h, (sum.add (fp32.read x.toNat) s.core.redOrg).toDws⟩ ∧ u.core = (acquires s).core ∧ u.mem = s.mem) ∧
    (∃ u : State, exec (.redq a b r l) s = .next (u.landL l []) ∧ u.core = (acquires s).core ∧ u.mem = s.mem ∧
      (u.yard yd).teller.slots.head? =
        some ⟨h, (sum.add (.int (x.setWidth 32).toInt ((x >>> 32).setWidth 8).toInt) s.core.redOrg).toDws⟩) ∧
    (∃ T, exec (.redget dd a b r l) s = .next ((acquires ((s.setTeller yd fun _ => T).setCore fun c =>
      { c with fflags := c.fflags ||| out.2.2.fflags, srbase := if draws then c.srbase + 1#64 else c.srbase })).landL l
      [.s (dd ++ 0#1) out.1, .s (dd ++ 1#1) out.2.1]) ∧
      T.slots = ⟨h, ws⟩ :: t.slots.filter (·.home != h) ∧ T.ports = t.ports ∧ ∀ x ∈ T.lines, x.2 = []) ∧
    (∃ u : State, exec (.redclr a r l) s = .next (u.landL l []) ∧ (u.yard yd).teller.slots = t.slots.filter (·.home != h) ∧
      ∀ k, k < 128 → Memory.get u.core.lmem (off + k) = 0)

/-! ### Messages and events -/

/-- R349: SEND to a core of this module gives 0 in s[d] when the message was accepted and 1 when it was refused; a bad target traps with CAUSE 0x14
and reason 1. RECV and RECVP take the oldest message; with none, RECV waits and RECVP writes −1 into the third register. R348: a message is accepted into
the receive queue while it holds fewer than 16, then into the next slot of the pen's ring, which then holds its 32 bytes, and is refused when both are full.
The space of a remote SEV is the model's choice (log entry 39). -/
def Obligations.Messages : Prop :=
  (∀ (s : State) (d b : SReg) (a e : BitVec 4),
      Safety.plain s [d, b, a ++ 0#1, a ++ 1#1, e ++ 0#1, e ++ 1#1, e ++ 0#1 + 2#5] = true → Safety.settled s = true →
      let y := s.rd b
      let t := y.toNat % 2 ^ 26
      let good : Bool := y.toNat / 2 ^ 26 % 2 ^ 6 == 0 && y.toNat / 2 ^ 48 == 0 && decide (t < s.core.ncores.toNat)
      let m : Msg := ⟨s.rd (a ++ 0#1), s.rd (a ++ 1#1), s.core.lcn.toNat, y.toNat / 2 ^ 32 % 2 ^ 16, none⟩
      let here : Prop := t = s.core.lcn.toNat ∨ ∃ i c, s.find s.core.queue t = some i ∧ s.peers[i]? = some c ∧ c.st ≠ .saved
      let gives (s : State) (x y z : W64) : State :=
        (s.setCore fun c => ((c.wr (e ++ 0#1) x).wr (e ++ 1#1) y).wr (e ++ 0#1 + 2#5) z).retire
      (good = true → here →
        exec (.send d a b) s = .next (((s.deliver s.core.queue t m).2.wr d (if (s.deliver s.core.queue t m).1 then 0 else 1)).retire)) ∧
      (good = false → exec (.send d a b) s = .next (s.trap 0x14#8 (w64 (1 + t * 2 ^ 32)))) ∧
      (∀ q r, s.core.rx = q :: r →
        let u := gives (s.acquire.setCore fun c => { c with rx := r }) q.x q.y (w64 (q.sender % 2 ^ 26 + q.tag % 2 ^ 16 * 2 ^ 32))
        exec (.recv e) s = .next u ∧ exec (.recvp e) s = .next u) ∧
      (s.core.rx = [] → exec (.recv e) s = .next s.wait ∧ exec (.recvp e) s = .next (gives s 0 0 (BitVec.allOnes 64)))) ∧
  (∀ (c : Machine.Core) (m : Msg),
      let queued := (c.rx.filter (·.pen.isNone)).length
      let slot := c.penAt % c.penSlots
      let at' := c.penbase.toNat + 32 * slot
      (c.rx.length < 16 + c.penSlots → queued < 16 → c.accept m = some { c with rx := c.rx ++ [{ m with pen := none }] }) ∧
      (c.rx.length < 16 + c.penSlots → 16 ≤ queued →
        ∃ mem, c.accept m = some { c with rx := c.rx ++ [{ m with pen := some slot }], penAt := (slot + 1) % c.penSlots, lmem := mem } ∧
          Memory.num mem at' 8 = m.x.toNat ∧ Memory.num mem (at' + 8) 8 = m.y.toNat ∧
          ∀ a, a < at' ∨ at' + 32 ≤ a → Memory.get mem a = Memory.get c.lmem a) ∧
      (16 + c.penSlots ≤ c.rx.length → c.accept m = none))

/-- R346: WFE gives the bits of its mask that are set in the event latch and clears them, and waits while none is; a mask of 0 means all. SEV sets bit
n of the latch of a core of this module. -/
def Obligations.Events : Prop :=
  ∀ (s : State) (d a b : SReg), Safety.plain s [d, a, b] = true → Safety.settled s = true →
    let m : W64 := if (s.rd a).setWidth 16 = 0#16 then 0xFFFF else s.rd a &&& 0xFFFF
    let v := s.core.evlatch &&& m
    let x := s.rd a
    let y := s.rd b
    let t := x.toNat
    (v = 0 → exec (.wfe d a) s = .next s.wait) ∧
    (v ≠ 0 → exec (.wfe d a) s = .next (((s.acquire.setCore fun c => { c with evlatch := c.evlatch &&& ~~~v }).wr d v).retire)) ∧
    (t < 2 ^ 26 → t < s.core.ncores.toNat → y.toNat < 16 →
      (t = s.core.lcn.toNat → s.core.present = true → s.core.st ≠ .saved →
        exec (.sev a b) s = .next ((s.setCore fun c => { c with evlatch := c.evlatch ||| (1#64 <<< y.toNat) }).retire)) ∧
      (t ≠ s.core.lcn.toNat → ∀ i c, s.find s.core.queue t = some i → s.peers[i]? = some c → c.st ≠ .saved →
        exec (.sev a b) s = .next ((s.setPeer i fun c => { c with evlatch := c.evlatch ||| (1#64 <<< y.toNat) }).retire)))

/-! ### Tasks, gangs -/

/-- R175: TKPUSH gives 0 and a new youngest entry with the core's own LCN as home, or 1 when the deque is full, or 2 for an index of no task. R177, R392:
TKDONE ends a current task that was not stolen, with STREAMID the core's LCN again; with entries in the deque it only goes on; with nothing left and
nothing outstanding the core is done. R16, R18, R177: TKDONE of a stolen task first has its write set returned to its home, and once that is done ends it, with the
thief's own bytes where the task's had covered them (that they are set aside at TKPOP is the model's reading, log entry 74).
TKDONE as a shadow's last instruction lets the shadow settle first (log entry 24). -/
def Obligations.TaskPushDone : Prop :=
  (∀ (s : State) (d a b : SReg), Safety.plain s [d, a, b] = true → Safety.settled s = true →
      let x := (s.rd a).toNat
      let n := match s.launchOf s.core with | some l => l.tasks.length | none => 0
      let full := (s.core.tksize.toNat % 512) ≤ s.core.deque.length
      (x < 4096 → x < n → ¬ full → exec (.tkpush d a b) s =
        .next (((s.setCore fun c => { c with deque := c.deque ++ [⟨x, c.lcn.toNat, false, s.rd b, []⟩] }).wr d 0).retire)) ∧
      (x < 4096 → x < n → full → exec (.tkpush d a b) s = .next ((s.wr d 1).retire)) ∧
      (4096 ≤ x ∨ n ≤ x → exec (.tkpush d a b) s = .next ((s.wr d 2).retire))) ∧
  (∀ s : State,
      (∀ t, s.core.task = some t → t.stolen = false → s.core.stash = [] → exec .tkdone s = .next ((s.setCore fun c =>
        { c with task := none, wsret := none, streamid := c.lcn, mintkey := mint c.jobseed c.lcn }).retire)) ∧
      (∀ t, s.core.task = some t → t.stolen = true → s.core.wsret = none →
        exec .tkdone s = .next ((s.setCore fun c => { c with wsret := some false }).wait)) ∧
      (∀ t e, s.core.task = some t → t.stolen = true → s.core.wsret = some true → s.wsetOut = false → s.core.stash = [e] →
        ∃ u : State, exec .tkdone s = .next u.retire ∧ u.core.task = none ∧ u.core.stash = [] ∧ u.core.streamid = s.core.lcn ∧ u.core.s = s.core.s ∧
          Safety.elsewhere s u ∧ (∀ k, k < e.bytes.length → e.off + k < s.core.lmin → u.core.locByte (e.off + k) = e.bytes.getD k 0) ∧
          ∀ k, k < e.off ∨ e.off + e.bytes.length ≤ k → u.core.locByte k = s.core.locByte k) ∧
      (s.core.task = none → s.core.deque ≠ [] → exec .tkdone s = .next s.retire) ∧
      (s.core.task = none → s.core.deque = [] → Safety.settled s = true → s.core.st ≠ .trapped → 
        (∀ sh, s.core.shadow = some sh → sh.held = none ∧ sh.ovf = none ∧ sh.trap = none) →
        ∃ u, exec .tkdone s = .next u ∧ u.core.st = .done ∧ Safety.sameBytes s u ∧ (s.core.shadow = none → u.core.s = s.core.s)))

/-- R176: TKPOP with no task and entries in the deque takes the youngest: its entry address and argument land in s[2d] and s[2d + 1], STREAMID is the
task's id, MINTKEY follows it, SRBASE is 0, and the task is current; with an empty deque and no core to probe it gives 0 and 0.
R178: a probe takes the older half of its victim's deque, as stolen entries in front of the thief's own, when there is room and both are in a compute phase of
one superstep; a victim answers a thief on another module in the same way, and notes what it has lent. R16: the write set of a stolen task returns to its home.
What another module's steal unit does comes in by the step (log entry 49). -/
def Obligations.TaskPop : Prop :=
  (∀ (s : State) (d : BitVec 4), Safety.plain s [d ++ 0#1, d ++ 1#1] = true → d ≠ 0#4 → s.core.task = none → s.core.probe = none →
    (∀ ds t e, s.core.deque = ds ++ [t] → t.stolen = false → s.taskEnt t.index = some e →
      ∃ u : State, exec (.tkpop d) s = .next u.retire ∧ u.rd (d ++ 0#1) = e.entry ∧ u.rd (d ++ 1#1) = t.arg ∧ u.core.deque = ds ∧
        u.core.task = some t ∧ u.core.streamid = w64 e.id ∧ u.core.mintkey = mint s.core.jobseed (w64 e.id) ∧ u.core.srbase = 0 ∧
        (∀ r, r ≠ d ++ 0#1 → r ≠ d ++ 1#1 → u.rd r = s.rd r) ∧ u.core.p = s.core.p ∧ u.core.k = s.core.k ∧ u.core.lmem = s.core.lmem ∧
        Safety.elsewhere s u) ∧
    (s.core.deque = [] → s.core.steallvl.toNat % 8 = 0 →
      exec (.tkpop d) s = .next ((s.setCore fun c => ((c.popCount true).wr (d ++ 0#1) 0).wr (d ++ 1#1) 0).retire))) ∧
  (∀ (s : State) (q l : Nat) (i : Nat) (c : Machine.Core), s.isCur q l = true → s.peers[i]? = some c →
      (∀ p v, s.core.probe = some p → p.answered = false → p.victim = some v → s.find q v = some i →
        let n := (c.deque.length + 1) / 2
        let ok : Prop := c.deque ≠ [] ∧ s.core.deque.length + n ≤ s.core.tksize.toNat % 512 ∧ c.st ≠ .trapped ∧ c.st ≠ .saved ∧
          bit s.core.domph 32 = false ∧ bit c.domph 32 = false ∧ s.core.domph.setWidth 32 = c.domph.setWidth 32
        (ok → exec (.stealProbe (q, l) (.answer [])) s = .next { s with
          core := { s.core with probe := some { p with answered := true },
                                deque := ((c.deque.take n).map fun t => { t with stolen := true, via := c.lcn.toNat :: t.via }) ++ s.core.deque },
          peers := s.peers.set i { c with deque := c.deque.drop n } }) ∧
        (¬ ok → exec (.stealProbe (q, l) (.answer [])) s = .next (s.setCore fun c => { c with probe := some { p with answered := true } }))) ∧
      (∀ th : FarThief,
        let n := (s.core.deque.length + 1) / 2
        let ok : Prop := s.core.deque ≠ [] ∧ n ≤ th.room ∧ s.core.st ≠ .trapped ∧ s.core.st ≠ .saved ∧ bit s.core.domph 32 = false ∧
          bit th.domph 32 = false ∧ s.core.domph.setWidth 32 = th.domph.setWidth 32
        (ok → ∃ u : State, exec (.stealProbe (q, l) (.thief th)) s = .next u ∧ u.core =
          { s.core with deque := s.core.deque.drop n,
                        lent := s.core.lent ++ (s.core.deque.take n).map fun t => { t with stolen := true, via := s.core.lcn.toNat :: t.via } } ∧
          u.mem = s.mem ∧ u.peers = s.peers) ∧
        (¬ ok → ∃ u : State, exec (.stealProbe (q, l) (.thief th)) s = .next u ∧ u.core = s.core ∧ u.mem = s.mem ∧ u.peers = s.peers)) ∧
      (∀ t e o n, c.stash = [] → s.core.task = some t → s.core.wsret = some false → s.moduleOf s.core.queue t.home = Config.pkgX → s.taskEnt t.index = some e → e.writes = [(o, n)] → s.find q t.home = some i →
        s.isCur q t.home = false → c.st ≠ .saved → c.deque = [] → o + n ≤ c.lmin → ∃ u d, exec (.writeSetReturn (q, l) none) s = .next u ∧
          u.core = { s.core with wsret := some true } ∧ u.peers[i]? = some d ∧ (∀ k, k < n → d.locByte (o + k) = s.core.locByte (o + k)) ∧
          (∀ k, k < o ∨ o + n ≤ k → d.locByte k = c.locByte k) ∧ ∀ k, k < n / 8 → d.fe (o + 8 * k) = true))

/-- R171, R172: GANG toward a core of the stable that leads or is alone makes this core its follower with that leader's number, adds it to the leader's
set, and waits for the leader's words; GANG that is refused only writes the reason 7; UNGANG of a core in no gang changes nothing. R22, R132: a waiting core
goes on; a follower that no word reaches in time is alone again with reason 6, and one whose buffer is full with reason 2.
The 256 cycles of a follower's wait end by an event or by its tries (log entry 43). -/
def Obligations.Gangs : Prop :=
  ∀ (s : State) (a : SReg), Safety.plain s [a] = true →
    let n := (s.rd a).toNat % 4
    let me := s.core.pcid % 4
    (s.gangRefused n = true →
      exec (.gang a) s = .next ((s.setCore fun c => { c with gangst := c.gangst ||| 0xE }).retire)) ∧
    (s.gangRefused n = false → gangRole s.core.gangst = 0 → s.core.shadow = none → ∃ u, exec (.gang a) s = .next u ∧
      gangRole u.core.gangst = 2 ∧ bf u.core.gangst 6 2 = n ∧ u.core.gangWait = some 0 ∧ u.core.fwd = [] ∧
      (∀ (i : Nat) (c : Machine.Core), s.peers[i]? = some c → pcStable c.pcid = pcStable s.core.pcid → c.queue = s.core.queue → c.pcid % 4 = n →
        ∃ c', u.peers[i]? = some c' ∧ gangRole c'.gangst = 1 ∧ bit c'.gangst (8 + me) = true)) ∧
    (gangRole s.core.gangst = 0 → exec .ungang s = .next s.retire) ∧
    (∀ q l, s.isCur q l = true →
      (s.core.st = .waiting → exec (.coreWaitEnd q l) s = .next (s.setCore fun c => { c with st := .running })) ∧
      (gangRole s.core.gangst = 2 → s.core.gangWait.isSome = true → ∃ u, exec (.gangWaitTimeout q l) s = .next u ∧ u.core.gangst = 0xC ∧
        u.core.st = .running ∧ u.core.gangWait = none ∧ u.core.s = s.core.s ∧ u.mem = s.mem) ∧
      (gangRole s.core.gangst = 2 → 8 ≤ s.core.fwd.length → ∃ u, exec (.gangDetach q l 2) s = .next u ∧ u.core.gangst = 4 ∧ u.core.fwd = [] ∧
        u.core.gangWait = none ∧ u.core.s = s.core.s ∧ u.mem = s.mem))

/-! ### Synchronisation -/

/-- R338 to R344: BAR, VOTE and PHASE of a core with no task, once everything earlier is performed, arrive at the next episode of their level and wait
for its outcome, but for level 0, which has one member and is complete with it while no task pushed by the core is open (R20); when it is there they acquire and go on: VOTE with its value in s[d], PHASE with DOMPH's kind flipped and, where that ends a superstep,
its step counted. Where the root of the domain's tree lies on another module, the arrival of a module's last member leaves for it as a KIND 7 flit with
TAG[11:8] = 0xF. R339: of an episode whose members did not arrive alike, the instruction completes without effect, and phase violation is taken at the next,
with EPC there. R19, R341: with a current task, or with entries in the deque, they trap with CAUSE 0x13 and reason 2, or 1.
The tree is the model's choice (log entry 92). -/
def Obligations.Synchronise : Prop :=
  (∀ (s : State) (d a : SReg) (op : BitVec 2) (l : BitVec 3), Safety.plain s [d, a] = true → s.core.deque = [] → s.core.task = none →
      let clear (s : State) : State := s.acquire.setCore fun c => { c with arrival := none }
      let x := s.core.domph
      let step : W64 := if bit x 32 then (x + 1) &&& 0xFFFFFFFF else x &&& 0xFFFFFFFF
      let flipped : W64 := (l.setWidth 64 <<< 33) ||| (if bit x 32 then 0#64 else 0x100000000#64) ||| step
      let root (a : Launch) : Option W64 := (a.domRouters l.toNat (s.core.domAt l.toNat)).head?
      let arrives (i : Instr) (kind op : Nat) (w : W64) : Prop :=
        let at' := (s.setCore fun c => { c with
          episodes := c.episodes.set l.toNat (c.episodes.getD l.toNat 0 + 1),
          arrival := some ⟨l.toNat, c.episodes.getD l.toNat 0, kind, op, w, none⟩ }).wait
        ((∀ a e, (s.queue s.core.queue).launch = some a → root a = some e → remapPkg e = Config.pkgX) → exec i s = .next at') ∧
        (∀ a e, (s.queue s.core.queue).launch = some a → root a = some e → remapPkg e ≠ Config.pkgX → s.peers = [] → ∃ f t,
          exec i s = .next t ∧ t.core = at'.core ∧ t.outbox = s.outbox ++ [.flit f] ∧ f.kind = 7 ∧ f.tag.toNat / 256 = 0xF ∧ f.dx = bf e 0 12 ∧ f.dy = bf e 12 12)
      (s.core.arrival = none → Safety.settled s = true → l ≠ 0#3 →
        arrives (.bar l) 0 0 0 ∧ arrives (.vote d a op l) 1 op.toNat (s.rd a) ∧ (bit x 32 = true → arrives (.phase l) 2 0 0)) ∧
      (s.core.arrival = none → Safety.settled s = true → l = 0#3 → s.taskOpen s.core.queue 0 s.core.lcn.toNat = false →
        let u := s.acquire.setCore fun c => { c with episodes := c.episodes.set 0 (c.episodes.getD 0 0 + 1), arrival := none }
        exec (.bar l) s = .next u.retire ∧
        exec (.vote d a op l) s = .next ((u.wr d (if op = 3#2 then (if s.rd a = 0 then 0 else 1) else s.rd a)).retire) ∧
        (bit x 32 = true → exec (.phase l) s = .next ((u.setCore fun c => { c with domph := flipped }).retire))) ∧
      (∀ r v, s.core.arrival = some r → r.result = some (0, v) →
        exec (.bar l) s = .next (clear s).retire ∧ exec (.vote d a op l) s = .next (((clear s).wr d v).retire) ∧
        exec (.phase l) s = .next (((clear s).setCore fun c => { c with domph := flipped }).retire)) ∧
      (∀ r why v, s.core.arrival = some r → r.result = some (why + 1, v) → s.core.shadow = none → s.core.frame = none →
        ∀ i, i ∈ ([.bar l, .vote d a op l, .phase l] : List Instr) → ∃ t, exec i s = .next t ∧ t.core.st = .trapped ∧ t.core.cause = 0x13#64 ∧
          t.core.tval = w64 (why + 1) ∧ t.core.epc = s.core.pc + 4#64 ∧ t.core.arrival = none ∧ t.core.owed = none ∧ t.core.s = s.core.s ∧
          t.core.domph = s.core.domph) ∧
      (∀ r, s.core.arrival = some r → r.result = none →
        exec (.bar l) s = .next s.wait ∧ exec (.vote d a op l) s = .next s.wait ∧ exec (.phase l) s = .next s.wait)) ∧
  (∀ (s : State) (d a : SReg) (op : BitVec 2) (l : BitVec 3),
      let traps (v : W64) : Prop := exec (.bar l) s = .next (s.trap 0x13#8 v) ∧ exec (.vote d a op l) s = .next (s.trap 0x13#8 v) ∧
        exec (.phase l) s = .next (s.trap 0x13#8 v)
      (s.core.task.isSome = true → traps 2) ∧ (s.core.task = none → s.core.deque ≠ [] → traps 1))

/-- R339, R343: the outcome of a complete episode: reason 3 when its members' instructions differ, 4 when PHASE members differ in kind or step, else 0:
for BAR and for PHASE alone,
with the OR, AND or greatest operand of a VOTE, or the number of its operands that are not 0. R338, R340: once every member of the domain has arrived and no task is open, each of them gets
that outcome. -/
def Obligations.EpisodeOutcome : Prop :=
  (∀ (a : RemoteArrival) (as : List RemoteArrival),
    let xs := (a :: as).map (·.operand)
    ((∃ b ∈ as, b.kind ≠ a.kind ∨ a.kind = 1 ∧ b.op ≠ a.op) → episodeResult (a :: as) = (3, 0)) ∧
    ((∀ b ∈ as, b.kind = 0) → a.kind = 0 → episodeResult (a :: as) = (0, 0)) ∧
    ((∀ b ∈ as, b.kind = 1 ∧ b.op = a.op) → a.kind = 1 →
      ∃ v, episodeResult (a :: as) = (0, v) ∧
        (a.op = 0 → ∀ i, i < 64 → (v.getLsbD i = true ↔ ∃ x ∈ xs, x.getLsbD i = true)) ∧
        (a.op = 1 → ∀ i, i < 64 → (v.getLsbD i = true ↔ ∀ x ∈ xs, x.getLsbD i = true)) ∧
        (a.op = 2 → v ∈ xs ∧ ∀ x ∈ xs, x.toNat ≤ v.toNat) ∧
        (a.op = 3 → v = BitVec.ofNat 64 (xs.filter (· ≠ 0)).length)) ∧
    ((∀ b ∈ as, b.kind = 2) → a.kind = 2 → (∃ b ∈ as, b.phKind ≠ a.phKind ∨ b.phStep ≠ a.phStep) → episodeResult (a :: as) = (4, 0)) ∧
    ((∀ b ∈ as, b.kind = 2 ∧ b.phKind = a.phKind ∧ b.phStep = a.phStep) → a.kind = 2 → episodeResult (a :: as) = (0, 0))) ∧
  (∀ (s : State) (q level id k : Nat) (u : Launch), (s.queue q).launch = some u →
      let mine (c : Machine.Core) : Bool := c.present && c.queue == q && c.domAt level == id
      let ms := (s.core :: s.peers).filter mine
      ms ≠ [] → ms.length = domSize u.lx u.ly level id → (∀ c ∈ ms, ∃ a, c.arrival = some a ∧ a.level = level ∧ a.num = k ∧ a.result = none) →
      s.taskOpen q level id = false → (∀ e ∈ u.domRouters level id, remapPkg e = Config.pkgX) →
      let out := episodeResult (ms.filterMap Machine.Core.contribution)
      let told (c : Machine.Core) : Machine.Core := if mine c then { c with arrival := c.arrival.map fun a => { a with result := some out } } else c
      exec (.episodeComplete q level id []) s = .next { s with core := told s.core, peers := s.peers.map told })

/-- R239, R240, R243: FENCE waits while a store of the core to its scope is not performed, and with ALL while an engine has work; then scope module drops
the far lines of this module's memory and a scope beyond it all far lines, and with d ≠ 0 FSTAT moves to s[d] and clears. CFENCE with nothing queued drops the lines of the core's records from the
stable's complex cache.
Waits are conservative (log entry 53). -/
def Obligations.Fences : Prop :=
  ∀ (s : State) (d : SReg) (sc : BitVec 2) (w : BitVec 1), Safety.plain s [d] = true →
    (Safety.settled s = true →
      let t := if sc = 0#2 then s else if sc = 1#2 then s.setCore fun c => { c with l1 := c.l1.filter (·.space != (2, 0)) } else s.acquire
      exec (.fence d sc w) s =
        .next (if d = 0#5 then t.retire else ((t.setCore fun c => { c with fstat := 0 }).wr d s.core.fstat).retire) ∧
      exec .cfence s = .next s.dropRecordLines.retire) ∧
    (s.core.posted = [] → (s.core.ports.toList.all (!·.bound)) = true → s.core.cfTrap = none → s.core.mxTrap = none →
      s.core.enginesIdle = false → exec (.fence d sc 1#1) s = .next s.wait) ∧
    ((s.core.ports.toList.all (!·.bound)) = true → 2 ≤ sc.toNat → (∃ e ∈ s.core.posted, e.sent = true) →
      ∃ t, exec (.fence d sc 0#1) s = .next t ∧ t.core.st = .waiting ∧ t.core.pc = s.core.pc ∧ t.core.s = s.core.s ∧ t.core.fstat = s.core.fstat) ∧
    (∀ e, (s.core.ports.toList.all (!·.bound)) = true → s.core.retrying = false → s.core.posted = [e] → e.place.here = true → e.sent = false →
      exec (.fence d sc 0#1) s = exec (.fence d sc 0#1) s.drainAll ∧ s.drainAll.core.posted = [])

/-- R258, R259: WAITT waits until CYC reaches s[a]; then, when every request with a promise that is due is complete, it gives CYC; when one is not, it
traps once with CAUSE 0x0E and the oldest's sequence number. -/
def Obligations.WaitForTime : Prop :=
  ∀ (s : State) (d a : SReg), Safety.plain s [d, a] = true → s.core.cfTrap = none →
    let x := s.rd a
    let due := s.core.cf.pending.filter fun r => decide (r.promise.toNat ≤ x.toNat)
    (s.cyc.toNat < x.toNat → exec (.waitt d a) s = .next s.wait) ∧
    (x.toNat ≤ s.cyc.toNat → due = [] → exec (.waitt d a) s = .next ((s.acquire.wr d s.cyc).retire)) ∧
    (x.toNat ≤ s.cyc.toNat → ∀ r rs, due = r :: rs → r.excused = false → ∃ u : State,
      exec (.waitt d a) s = .next (u.trap 0x0E#8 (w64 r.seq)) ∧ u.core.s = s.core.s ∧ Safety.elsewhere s u)

/-! ### Cochain instructions -/

/-- R115, R121, R262, R263: a cochain instruction whose guard is false only completes, and after RESUME skips the positions marked as done. With a true guard it waits while the queue of 8 is full, traps on the
first of its checks that fails (R44, and those of its own rule), and else, with no store to the core's own local memory outstanding (R231), enters the queue
with the operands it reads at issue: its handles, its
scalars, VRM, SRSITE, SRBASE, MINTKEY and the patch records it needs; what it has to land is its shadow's.
The free counter that the entry takes is the model's own (log entry 7). -/
def Obligations.CochainIssue : Prop :=
  ∀ (s : State) (d a b : KReg) (r : SReg) (u : BitVec 4) (g : PReg) (l : BitVec 4), Safety.plain s [r, u ++ 0#1, u ++ 1#1] = true →
    let c := s.core
    let queues (i : Instr) (k : KAsk) (x y : W64) : Prop :=
      (s.rp g = false → c.again = none → exec i s = .next (if c.resume = none then s.retire else s.landL l [])) ∧
      (s.rp g = true → c.ownPosted = true → s.drainAll.core.ownPosted = true → exec i s = .next s.wait) ∧
      (s.rp g = true → c.ownPosted = false → 8 ≤ c.cq.length → exec i s = .next s.wait) ∧
      (s.rp g = true → c.ownPosted = false → c.cq.length < 8 → ∀ t, k.fail = some t → exec i s = .next (s.trapLT l t)) ∧
      (s.rp g = true → c.ownPosted = false → c.cq.length < 8 → k.fail = none → ∀ recs t, s.useAll k.needs = .ok (recs, t) → k.late recs = none →
        let h (o : Option KReg) : Handle := match o with | some j => t.core.rk j | none => 0
        let e : CochEntry := ⟨t.core.cqNext, i, none, 0, 0, h k.d, h k.a, h k.b, x, y, t.core.vrm, t.core.srsite, t.core.srbase, t.core.mintkey,
          t.core.orgLcn, k.adv, recs, t.tick, [], [], none⟩
        let v := t.setCore fun c => { c with cq := c.cq ++ [e], cqNext := c.cqNext + 1 }
        exec i s = .next (if (t.core.shadowOf l).1 = 0 then v.retire else v.openShadow l [] none (some e.seq)))
    let ke (i : Instr) (srcD scales : Bool) : Prop := queues i (ask3 d a b srcD true (chkArith scales) c) 0 0
    let logic (i : Instr) : Prop := queues i (ask3 d a b false false (fun c d a b => c.checkHandles [d, a, b] (fun v => v.enc == .bit || v.enc.isInt)
      [(d, d.enc == a.enc && d.agree a), (b, b.enc == a.enc && b.agree a), (d, d.agree b)] []) c) 0 0
    let cmp (i : Instr) : Prop := queues i (ask3 d a b false false (fun c d a b => c.checkHandles [d, a, b]
      (fun v => if v.pos = 0 then v.kind == 5 else v.numeric) [(d, d.len == a.len), (b, b.agree a)] [(b, b.sameE a)]) c) 0 0
    let unary (i : Instr) : Prop := queues i (ask2 d a false true (fun c d a => c.checkHandles [d, a] HV.numeric [(d, d.agree a)] []) c) 0 0
    let scalar (i : Instr) (srcD scales : Bool) : Prop := queues i (ask2 d a srcD true (fun c d a => c.checkHandles [d, a] HV.numeric [(d, d.agree a)]
      (if scales then [(d, d.sameE a)] else [])) c) (s.rd r) 0
    let extreme (i : Instr) : Prop := queues i (askA a (fun c a => c.checkHandles [a] HV.numeric [] []) (fun c a => psDraw c.vrm a) c) 0 0
    let handle (i : Instr) (ka : Option KReg) (fail : Option Trap) (x y : W64) : Prop := queues i ⟨none, ka, none, fail, [], 0, fun _ => none⟩ x y
    let e0 := s.rd (u ++ 0#1)
    let e1 := s.rd (u ++ 1#1)
    (ke (.vadd d a b g l) false true ∧ ke (.vsub d a b g l) false true ∧ ke (.vmul d a b g l) false false ∧ ke (.vdiv d a b g l) false false ∧
      ke (.vmin d a b g l) false true ∧ ke (.vmax d a b g l) false true ∧ ke (.vfma d a b g l) true false ∧ ke (.vfms d a b g l) true false) ∧
    (logic (.vand d a b g l) ∧ logic (.vor d a b g l) ∧ logic (.vxor d a b g l)) ∧
    (cmp (.vcgt d a b g l) ∧ cmp (.vcge d a b g l) ∧ cmp (.vceq d a b g l)) ∧
    queues (.vsel d a b g l) (ask3 d a b true true (fun c d a b => c.checkHandles [d, a, b] (fun v => if v.pos = 1 then v.kind == 5 else v.numeric)
      [(d, d.len == a.len), (b, b.len == a.len), (d, d.agree b)] []) c) 0 0 ∧
    queues (.vmov d a g l) (ask2 d a false false (fun c d a => c.checkHandles [d, a] HV.numeric [(d, d.agree a && d.enc == a.enc)] [(d, d.sameE a)]) c)
      0 0 ∧
    (unary (.vsqrt d a g l) ∧ unary (.vrcp d a g l) ∧ unary (.vrsq d a g l) ∧ unary (.vexp2 d a g l) ∧ unary (.vlog2 d a g l) ∧
      unary (.vcvt d a g l)) ∧
    (scalar (.vadds d a r g l) false true ∧ scalar (.vsubs d a r g l) false true ∧ scalar (.vmuls d a r g l) false false ∧
      scalar (.vfmas d a r g l) true false ∧ scalar (.vmins d a r g l) false true ∧ scalar (.vmaxs d a r g l) false true) ∧
    queues (.vfill d r g l) (ask1 d (c.srFor (c.hv 0 d false)) (fun c d => c.checkHandles [d] HV.numeric [] []) c) (s.rd r) 0 ∧
    queues (.vgete a u g l) (askA a (fun c a => (c.checkHandles [a] (fun _ => true) [] []).or (idxFail a e0)) (fun c a => psDraw c.vrm a) c) e0 0 ∧
    queues (.vpute d u g l) (ask1 d (c.srFor (c.hv 0 d false)) (fun c d => (c.checkHandles [d] HV.numeric [] []).or (idxFail d e0)) c) e0 e1 ∧
    queues (.vsum a r g l) (askA a (fun c a => c.checkHandles [a] (fun _ => true) [] []) (fun c a => srMode c.vrm && !intSum a) c) 0 0 ∧
    queues (.vdot b a r g l) ⟨none, some a, some b, c.checkHandles [c.hv 1 a true, c.hv 2 b true] HV.numeric
      [(c.hv 2 b true, (c.hv 2 b true).agree (c.hv 1 a true))] [], [],
      if srMode c.vrm && !(intSum (c.hv 1 a true) && intSum (c.hv 2 b true)) then 1 else 0, fun _ => none⟩ 0 0 ∧
    (extreme (.vmaxr a u g l) ∧ extreme (.vminr a u g l)) ∧
    queues (.topk d a r g l) (ask2 d a false false (fun c d a => c.checkHandles [d, a] (fun v => if v.pos = 0 then v.kind == 5 else v.numeric)
      [(d, d.len == a.len)] []) c) (s.rd r) 0 ∧
    queues (.cmpr48 d a r g l) (ask2 d a false false (chk48 1) c) 0 0 ∧
    queues (.vdec48 d a r g l) (ask2 d a false false (fun c d a => (chk48 0 c d a).or (maskFail (d.len / 8) (s.rd r))) c) (s.rd r) 0 ∧
    queues (.vrand d r g l) (ask1 d true (fun c d => c.checkHandles [d] (fun v => v.enc != .ps2) [] []) c)
      (if (c.hv 0 d false).onPatch then s.rd r else 0) 0 ∧
    (handle (.kdef d u g l) none none e0 e1 ∧ handle (.kst a r g l) (some a) none 0 0 ∧ handle (.kget a u g l) (some a) none 0 0 ∧
      handle (.kset d a r g l) (some a) (if 8 ≤ bf (s.rd r) 0 4 ∨ bf (s.rd r) 4 4 ≠ 0 then some ((c.hv 1 a true).fail 10) else none) (s.rd r) 0) ∧
    (let v := c.hv 1 a true
     let x := s.rd r
     let bad := bf x 32 32 ≠ 0 ∨ v.len < bf x 0 16 + bf x 16 16 ∨ (v.enc = .bit ∧ bf x 0 16 % 8 ≠ 0)
     handle (.kview d a r g l) (some a)
       ((v.check01.or <| v.check02.or <| (v.check03 c.lmin).or v.check08).or (if bad then some (v.fail 9) else none)) x 0) ∧
    queues (.dext d a g l) (kx2 d a (fun c v => v.kind == 2 && (v.pos == 0 || (decide (v.deg < c.dimOf v) && v.len == c.totOf v v.deg)))
      (fun _ d a => samePatch d a && d.deg == a.deg + 1) (fun _ d a => incNeed (a.deg + 1) 0 d.len) c) 0 0 ∧
    queues (.dbnd d a g l) (kx2 d a (fun c v => v.kind == 4 && (v.pos == 0 || (decide (1 ≤ v.deg) && v.len == c.totOf v v.deg)))
      (fun _ d a => samePatch d a && d.deg + 1 == a.deg) (fun _ _ a => incNeed a.deg 0 a.len) c) 0 0 ∧
    (let star (i : Instr) (kd ka : Nat) : Prop := queues i (kx2 d a (fun _ v => v.kind == (if v.pos = 0 then kd else ka))
       (fun c d a => samePatch d a && d.deg + a.deg == c.dimOf a && d.len == a.len)
       (fun c _ a r => [(r.metAt (a.idxDeg (c.dimOf a)) 0, 4 * a.len)]) c) 0 0
     star (.hstar d a g l) 3 2 ∧ star (.hstari d a g l) 2 3) ∧
    queues (.wedge d a b g l) (kx3 d a b false (fun c v => v.kind == 2 && (v.pos == 0 || v.len == c.totOf v v.deg))
      (fun c d a b => [(d, samePatch d a), (b, samePatch b a && decide (a.deg + b.deg ≤ c.dimOf a)), (d, d.deg == a.deg + b.deg)])
      (fun c d a => c.need a (incAll d.deg)) c) 0 0 ∧
    queues (.interp d a b g l) (kx3 d a b false
      (fun c v => match v.pos with
        | 0 => v.kind == 1
        | 1 => v.kind == 2 && decide (v.deg ≤ 1) && decide (v.deg ≤ c.dimOf v)
        | _ => v.kind == 1 && v.enc.fp?.isSome)
      (fun c d a b =>
        let n := c.dimOf a
        let w := if a.deg = 0 then 1 else 3
        [(d, d.len % w == 0 && decide (d.len / w ≤ c.totOf a n)), (b, b.len % (n + 1) == 0 && decide (b.len / (n + 1) ≤ c.totOf a n)),
          (d, d.len / w == b.len / (n + 1))])
      (fun c _ a => c.need a fun r => incAll r.n r ++ [(r.crdOff, 12 * r.tot 0)]) c) 0 0 ∧
    (let index (v : HV) : Bool := v.pos != 2 || (v.kind == 1 && (v.enc == .int16 || v.enc == .int32))
     queues (.gathi d a b g l) (kx3 d a b false (fun _ v => index v) (fun _ d _ b => [(d, d.len == b.len)]) (fun _ _ _ => []) c) 0 0 ∧
     queues (.scati d a b g l) (kx3 d a b true (fun _ v => index v) (fun _ _ a b => [(b, b.len == a.len)]) (fun _ _ _ => []) c) 0 0) ∧
    (let vd := c.hv 0 d false
     let va := c.hv 1 a true
     let rmap (v : HV) : Bool := match c.slotOf v.cplx v.patch with | some x => bit (x.hdr.getD 0 0) 40 | none => false
     queues (.prolong d a g l) ⟨some d, some a, none, c.checkHandles [vd, va]
       (kxOwn fun v => v.kind == 2 && (if v.pos = 0 then rmap v else decide (v.deg ≤ 2) && v.len == c.totOf v v.deg))
       [(vd, vd.deg == va.deg && vd.patch == va.patch)] [(vd, vd.sameE va)],
       c.need vd (fun r => incAll vd.deg r ++ [(r.rmAt 0 0, 8 * r.tot 0), (r.rmAt vd.deg 0, 8 * vd.len)]) ++ c.need va (fun r => incAll r.n r), 0,
       parentFail vd va⟩ 0 0)

/-- R262, R266 to R273: what completion gives the FP32 elements of a plain destination, for an instruction of KE, KU or KS without a prefix whose VRM is
not SR, on plain FP32 vectors of LEN n that lie in their bays below the declared minimum, each source apart from the destination or on its very place:
element k is the exact result on the old elements k, rounded once; no byte outside the destination changes, nor anything else of the core. -/
def Obligations.CochainResults : Prop :=
  ∀ (e : CochEntry) (c : Machine.Core) (d a b : KReg) (r : SReg) (g : PReg) (l : BitVec 4), e.md = none → c.deque = [] →
    let m : RMode := e.vrm.setWidth 2
    let n := e.d.len
    let ok (v : HV) : Prop := v.kind = 1 ∧ v.enc = .fp32 ∧ v.len = n ∧ v.base % 4 = 0 ∧ v.base + 4 * n ≤ c.lmin
    let apart (v : HV) : Prop := ok v ∧ (v.base = e.d.base ∨ v.base + 4 * n ≤ e.d.base ∨ e.d.base + 4 * n ≤ v.base)
    let old (v : HV) (k : Nat) : Val := fp32.read (v.bits c k)
    let x := fp32.read (e.x.toNat % 2 ^ 32)
    let gives (i : Instr) (f : Nat → Val × Fl) : Prop := e.instr = i →
      (∀ k, k < n → e.d.bits (cochRun e c).core k = (fp32.round m 0 false (f k).1).1) ∧
      (∀ o, o < e.d.base ∨ e.d.base + 4 * n ≤ o → (cochRun e c).core.locByte o = c.locByte o) ∧
      { (cochRun e c).core with lmem := c.lmem } = c
    m ≠ 3#2 → ok e.d →
    (apart e.a → apart e.b →
      gives (.vadd d a b g l) (fun k => addV (m == 2#2) (old e.a k) (old e.b k)) ∧ gives (.vsub d a b g l) (fun k => subV (m == 2#2) (old e.a k) (old e.b k)) ∧
      gives (.vmul d a b g l) (fun k => mulV (old e.a k) (old e.b k)) ∧ gives (.vdiv d a b g l) (fun k => divV (old e.a k) (old e.b k)) ∧
      gives (.vmin d a b g l) (fun k => minV (old e.a k) (old e.b k)) ∧ gives (.vmax d a b g l) (fun k => maxV (old e.a k) (old e.b k)) ∧
      gives (.vfma d a b g l) (fun k => fmaV (m == 2#2) false (old e.a k) (old e.b k) (old e.d k)) ∧
      gives (.vfms d a b g l) (fun k => fmaV (m == 2#2) true (old e.a k) (old e.b k) (old e.d k))) ∧
    (apart e.a →
      gives (.vsqrt d a g l) (fun k => sqrtV (old e.a k)) ∧ gives (.vrcp d a g l) (fun k => rcpV (old e.a k)) ∧
      gives (.vadds d a r g l) (fun k => addV (m == 2#2) (old e.a k) x) ∧ gives (.vmuls d a r g l) (fun k => mulV (old e.a k) x) ∧
      gives (.vfmas d a r g l) (fun k => fmaV (m == 2#2) false (old e.a k) x (old e.d k))) ∧
    gives (.vfill d r g l) (fun _ => (x.quiet, .none))

/-- R183, R265, R280, R281: the head of a core's queue completes once it is bound, and not before: it leaves the queue, SRBASE advances by
its draws, and outside a shadow its writes land, KDEF's handle, KGET's two halves, KST's flags and KSET's field among them; a result for which the instruction
named a bound port when it issued is pushed there (R114). The deficit of a core whose queue is empty is 0. The arbiter grants a head
whose cost its deficit covers its lane groups, with the bay formats, and else raises the deficit by 16 times the core's weight. -/
def Obligations.CochainUnit : Prop :=
  ∀ (s : State) (q k n : Nat) (e : CochEntry) (es : List CochEntry), s.core.cq = e :: es → s.core.shadow = none →
    let done (t : State) : Prop := ∃ u, exec (.cochainComplete q k) s = .next u ∧ exec (.longLatencyComplete q k) s = .next u ∧
      { u with stables := s.stables } = t ∧ (es ≠ [] → u = t) ∧
      (t.core.cq = [] → (u.stable (pcStable t.core.pcid)).dfc.getD (t.core.pcid % 4) 0 = 0)
    (s.isCur q k = true → e.bound = none → exec (.cochainComplete q k) s = .next s ∧ exec (.longLatencyComplete q k) s = .next s) ∧
    (s.isCur q k = true → ∀ (p : Fin 8) (a : KReg) (r : SReg) g l, e.bound.isSome = true → e.instr = .kst a r g l → e.push = [p] → r.toNat = 24 + p.val →
      ∃ h : Handle, done { s with core :=
        (({ s.core with cq := es, srbase := s.core.srbase + w64 e.adv } : Machine.Core).push p ((e.ka.extractLsb' 42 4).setWidth 64)).wk a h }) ∧
    (s.isCur q k = true →
      let base : Machine.Core := { s.core with cq := es, srbase := s.core.srbase + w64 e.adv }
      e.push = [] → ∀ b, e.bound = some b →
      (bit e.vrm 2 = false →
        let k := cochRun e s.core
        let after : Machine.Core := { k.core with cq := es, srbase := k.core.srbase + w64 e.adv }
        done { s with core := after.landAll k.ws }) ∧
      ((∀ (d : KReg) (r : BitVec 4) g l, e.instr = .kdef d r g l → ∃ h : Handle, done { s with core := base.wk d h } ∧
          ∀ i, i < 128 → h.getLsbD i = (decide (42 ≤ i) && !(i == 120 || i == 121) && (e.x ++ e.y : BitVec 128).getLsbD i)) ∧
        (∀ (a : KReg) (r : BitVec 4) g l, e.instr = .kget a r g l → s.core.port? (r ++ 0#1) = none → s.core.port? (r ++ 1#1) = none →
          done { s with core := (base.wr (r ++ 0#1) (e.ka.extractLsb' 64 64)).wr (r ++ 1#1) (e.ka.extractLsb' 0 64) }) ∧
        (∀ (a : KReg) (r : SReg) g l, e.instr = .kst a r g l → s.core.port? r = none →
          ∃ h : Handle, done { s with core := (base.wr r ((e.ka.extractLsb' 42 4).setWidth 64)).wk a h } ∧
            ∀ i, i < 128 → h.getLsbD i = (e.ka.getLsbD i && !(i == 43 || i == 44 || i == 45))) ∧
        (∀ (d a : KReg) (r : SReg) g l, e.instr = .kset d a r g l → bf e.x 0 4 = 3 →
          ∃ h : Handle, done { s with core := base.wk d h } ∧
            ∀ i, i < 128 → h.getLsbD i = (if 88 ≤ i ∧ i < 104 then e.x.getLsbD (i - 80) else e.ka.getLsbD i)))) ∧
    (s.core.inStable n = true → (∀ c ∈ s.peers, c.inStable n = false) → e.bound = none → (s.stable n).res = none → (s.stable n).dfc.length = 4 →
      let me := s.core.pcid % 4
      let kg := e.cost s.core.bayfmt.toList
      let groups := min (bf s.core.vshare 4 2 + 1) kg.2
      let deficit := (s.stable n).dfc.getD me 0
      ∃ t, exec (.cochainArbitrate n) s = .next t ∧
        (kg.1 ≤ deficit → t.core.cq = { e with bound := some groups, fmts := s.core.bayfmt.toList } :: es ∧ (t.stable n).ptr = me ∧
          (t.stable n).dfc.getD me 0 = deficit - kg.1) ∧
        (deficit < kg.1 → t.core = s.core ∧ (t.stable n).dfc.getD me 0 = deficit + 16 * max 1 (bf s.core.vshare 0 4)))

/-! ### Copies and the exchange -/

/-- R245 to R251, R368: a copy instruction whose request passes its checks, with room in the FIFO of 8, hands it over under the next sequence number and
gives its promise in s[d]: MAX(CYC, the last promise) + 24 + D · ⌈B / 32⌉ · H. With no room CPYNB gives 0 and the others wait, with the formats that their
checks read; a failed check, or a pending fault, traps. The checks see the core's own stores that are still posted (R231). CPYQ gives NEXT, the oldest request,
the free entries, a pending fault and the flags, which it clears, and which a conversion that completes in its cycle may then miss (erratum B0-2, R402).
The promise of the kinds 1 to 4, and when a conversion completes in CPYQ's cycle, are the model's reading (log entries 14 and 48). -/
def Obligations.CopyRequests : Prop :=
  ∀ (s : State) (d : SReg) (a : BitVec 3) (l : BitVec 4), Safety.plain s [d, a ++ 0#2, a ++ 0#2 + 1#5, a ++ 0#2 + 2#5, a ++ 0#2 + 3#5] = true →
    let dws := [s.rd (a ++ 0#2), s.rd (a ++ 0#2 + 1#5), s.rd (a ++ 0#2 + 2#5), s.rd (a ++ 0#2 + 3#5)]
    let f := s.core.cf
    let v := if s.core.ownPosted then s.ownView else s
    let req (kind : Nat) (fmts : List W64) : CopyReq := ⟨kind, dws, 0, 0, 0, fmts, false, [], 0, none, false, 0, [], []⟩
    let cpy := req 0 [s.endFmt (req 0 []).src.toNat (req 0 []).senc, s.endFmt (req 0 []).dst.toNat (req 0 []).denc]
    let promise (r : CopyReq) : W64 := w64 (max s.cyc.toNat f.last.toNat + 24
      + (if r.kind = 0 ∧ r.mmask ≠ 0 then popMask r.mmask else 1) * (((s.bytesH r).1 + 31) / 32) * (s.bytesH r).2)
    let hands (i : Instr) (r : CopyReq) : Prop := s.core.ownPosted = false → f.pending.length < 8 →
      exec i s = .next ((s.setCore fun c => { c with cf := { c.cf with
        reqs := f.reqs ++ [{ r with seq := f.next, promise := promise r, key := c.mintkey }], next := (f.next + 1) % 65536, last := promise r } }).landL l
        [.s d (promise r)])
    let full (i : Instr) (t : State) : Prop := 8 ≤ f.pending.length → exec i s = .next t
    let bad (i : Instr) (c : Option (Byte × W64)) : Prop := ∀ t, c = some t → exec i s = .next (s.trapL l t.1 t.2)
    let list (i : Instr) (kind : Nat) : Prop :=
      (v.core.listCheck (req kind []) = none → hands i (req kind []) ∧ full i (s.waitWith l (some []))) ∧
      bad i ((v.core.listCheck (req kind [])).map fun k => (0x12#8, w64 (5 + k % 65536 * 256)))
    let rows (i : Instr) (kind : Nat) : Prop :=
      (v.core.rowCheck (req kind []) = none → hands i (req kind []) ∧ full i (s.waitWith l (some []))) ∧
      bad i ((v.core.rowCheck (req kind [])).map fun k => (0x12#8, w64 (5 + k % 65536 * 256)))
    let misuse := (v.cpyCheck cpy).map fun k => (0x06#8, w64 (9 * 2 ^ 56 + k))
    (s.core.cfTrap = none → s.core.again = none →
      (v.cpyCheck cpy = none →
        hands (.cpy d a l) cpy ∧ full (.cpy d a l) (s.waitWith l (some cpy.fmts)) ∧ hands (.cpynb d a l) cpy ∧ full (.cpynb d a l) (s.landL l [.s d 0])) ∧
      bad (.cpy d a l) misuse ∧ bad (.cpynb d a l) misuse ∧
      list (.gather d a l) 1 ∧ list (.scatter d a l) 2 ∧ rows (.dispatch d a l) 3 ∧ rows (.combine d a l) 4) ∧
    (∀ t, s.core.cfTrap = some t → ∀ i, i ∈ ([.cpy d a l, .cpynb d a l, .gather d a l, .scatter d a l, .dispatch d a l, .combine d a l] : List Instr) →
      exec i s = .next (s.trapLT l t)) ∧
    (f.next < 65536 → (∀ r ∈ f.pending, r.seq < 65536) → f.fl.toNat < 256 → ∃ v m, exec (.cpyq d l) s =
        .next ((s.setCore fun c => { c with cf := { c.cf with fl := 0, miss := m } }).landL l [.s d v]) ∧ (f.busy = false → m = false) ∧
      bf v 48 16 = f.next ∧ bf v 32 16 = (match f.pending.head? with | some r => r.seq | none => f.next) ∧
      (f.pending.length ≤ 8 → bf v 16 16 = 8 - f.pending.length) ∧ bit v 8 = f.fault.isSome ∧ bf v 0 8 = f.fl.toNat)

/-- R245, R252, R256, R370: the engine starts a FIFO's oldest request, the list of GATHER and SCATTER in groups by owner, in ascending order; it moves a GATHER's
last entry from the core's own local memory into its place, full, and the request is complete; and a request whose writes are performed posts its flag, the sequence number and LCN, into the core's full flag word.
A request is complete when its last word is performed (log entry 60); the owner of an address that does not translate is the model's choice (log entry 93). -/
def Obligations.CopyEngine : Prop :=
  ∀ (s : State) (q l : Nat) (r : CopyReq), s.isCur q l = true → s.core.cf.reqs = [r] → s.core.deque = [] → s.core.lmin ≤ 0x40000 →
    s.core.st ≠ .saved → r.owed = 0 →
    (1 ≤ r.kind → r.kind ≤ 3 → r.units ≠ 0 → r.started = false → s.core.cf.fault = none → ∃ t ks,
      let own := (List.range r.count).map fun i => s.ownerOf r.acc (s.core.dwAt (r.list + 8 * i))
      exec (.copyRequestStart q l) s = .next t ∧
      t.core.cf.reqs = [{ r with started := true, dests := ks.map fun k => ⟨k, 0, false, false⟩, owners := if r.kind = 3 then [] else own, pos := none }] ∧
      (r.kind = 3 → ks = [0]) ∧ (r.kind ≠ 3 → List.Pairwise (· < ·) ks ∧ ∀ k, k ∈ ks ↔ k ∈ own) ∧
      { t with core := { t.core with cf := s.core.cf } } = s) ∧
    (r.kind = 1 → r.started = true → r.flag = false → s.core.st ≠ .idle → s.bad = [] → s.soft = [] → (∀ c ∈ s.peers, c.cfReady = false) →
      ∀ d i, r.dests = [d] → d.stopped = false → r.group d = (r.group d).take d.next ++ [i] → d.next < (r.group d).length →
      let va := (s.core.dwAt (r.list + 8 * i)).toNat
      let src := va - localBase
      let dst := r.data + r.size * i
      localBase ≤ va → src + r.size ≤ s.core.lmin → dst + r.size ≤ s.core.lmin → va % r.size = 0 →
      ∃ t, exec (.copyBeat (pcYard s.core.pcid)) s = .next t ∧ t.core.cf.reqs = [] ∧ t.core.fe dst = true ∧
        (∀ k, k < r.size → t.core.locByte (dst + k) = s.core.locByte (src + k)) ∧
        (∀ o, o < dst ∨ dst + r.size ≤ o → t.core.locByte o = s.core.locByte o) ∧ t.core.s = s.core.s ∧ t.mem = s.mem ∧ t.peers = s.peers) ∧
    (r.kind = 1 → r.started = true → r.flag = true → ∀ d, r.dests = [d] → d.flagged = false → (r.group d).length ≤ d.next →
      s.core.lcn.toNat < s.core.ncores.toNat → s.core.lcn.toNat < 2 ^ 26 → r.seq < 65536 → r.flagOff + 8 ≤ s.core.lmin →
      ∃ t, exec (.copyFlagPost q l) s = .next t ∧ t.core.cf.reqs = [] ∧ t.core.fe r.flagOff = true ∧
        w64 (Memory.num t.core.lmem r.flagOff 8) = w64 (r.seq + s.core.lcn.toNat * 2 ^ 16) ∧
        (∀ o, o < r.flagOff ∨ r.flagOff + 8 ≤ o → t.core.locByte o = s.core.locByte o) ∧ t.core.s = s.core.s)

/-- R355, R363, R364, R367: DPOST queues its declaration at the die's demand unit, waits, and completes when it has been acknowledged; the demand unit adds
the bytes to the core's open demand for the module. XCHG waits for its exchange, and completes with the status in s[d] and the exchange counted. An
exchange that is done on this module gives every core of it a result; with a module of the launch down it does not complete (R366). CALQ reads the five items of the last exchange's report.
Which die's demand unit serves a declaration is the model's reading (log entry 31). -/
def Obligations.Exchange : Prop :=
  ∀ (s : State) (d a b : SReg) (l : BitVec 4), Safety.plain s [d, a, b] = true →
    let x := s.rd a
    let y := s.rd b
    let c := s.core
    let good := bf x 26 38 = 0 ∧ bf x 0 26 < c.ncores.toNat
    (¬ good → exec (.dpost a b l) s = .next (s.trapL l 0x12#8 4)) ∧
    (good → c.dack = none → exec (.dpost a b l) s = .next (((s.setDie (pcDie c.pcid) fun t =>
        { t with demq := t.demq ++ [(c.queue, c.lcn.toNat, s.moduleOf c.queue (bf x 0 26), y.toNat)] }).setCore
          fun c => { c with dack := some false }).waitL l)) ∧
    (good → c.dack = some false → exec (.dpost a b l) s = .next (s.waitL l)) ∧
    (good → c.dack = some true → exec (.dpost a b l) s = .next ((s.setCore fun c => { c with dack := none }).landL l [])) ∧
    (∀ die q k m n r, (s.die die).demq = (q, k, m, n) :: r → s.isCur q k = true → ∃ t, exec (.dpostServe die) s = .next t ∧
      t.core.dack = some true ∧ (t.die die).demq = r ∧
      (m ≠ Config.pkgX → tget 0 m t.core.xch.demand = min (tget 0 m c.xch.demand + n) (2 ^ 48 - 1)) ∧
      (m = Config.pkgX → t.core.xch = c.xch)) ∧
    (c.xch.arrived.isSome = true → c.xch.result = none → exec (.xchg d a b l) s = .next s.wait) ∧
    (∀ r, c.xch.arrived.isSome = true → c.xch.result = some r →
      let u := s.acquire.setCore fun c =>
        { c with xch := { c.xch with arrived := none, result := none, parcels := [], rm := false, done := c.xch.done + 1 } }
      (c.again.isSome = true → exec (.xchg d a b l) s = .next (u.landL l [.s d r])) ∧
      (c.resume = none → c.shadow = none → exec (.xchg d a b l) s = .next (u.wr d r).retire)) ∧
    (∀ q far u, (s.queue q).launch = some u → (∃ p ∈ u.packages, (s.module p).2 = true) → exec (.exchangeComplete q far) s = .next s) ∧
    (∀ q k far u, (s.queue q).launch = some u → u.packages.length ≤ 1 → s.isCur q k = true → u.cal = none → s.exchangeDone q u = true →
      ∃ t r, exec (.exchangeComplete q far) s = .next t ∧ t.core.xch.result = some r ∧ t.core.xch.fail = false ∧ bf r 32 32 = u.exch % 2 ^ 32 ∧
        bit r 2 = (c.xch.fail || far.contains c.lcn.toNat) ∧ (t.queue q).launch = some { u with exch := u.exch + 1, cal := none, residue := false }) ∧
    (c.xch.done ≠ 0 → exec (.calq d a l) s =
      .next (s.landL l [.s d (if x.toNat < 5 then c.xch.report.getD x.toNat 0 else BitVec.allOnes 64)]))

/-- R357 to R365: an arbiter that holds every record of exchange k computes its calendar, numbered k and starting at TR + 8,192; the standby sends its own
when START − 4,096 has come; a module takes the first calendar numbered k, with its standby and late marks, and once both may be there FOVR may be set
although the primary's was taken (erratum B0-3, R402); at S_i it holds the ports of phase i and
sends its data, at S_i + 2,096 it stops sending, and after the held interval it frees them; after the last phase residue goes, once.
One calendar runs at a time, and whether both came in one cycle is a free value (log entry 36). -/
def Obligations.Circuits : Prop :=
  ∀ (s : State) (q i : Nat) (u : Launch), (s.queue q).launch = some u →
    (∀ far ready tr, 1 < u.packages.length → (u.packages.take 2).contains Config.pkgX = true → ready.length + 1 = u.packages.length →
      (∀ e ∈ u.computed, e.1 ≠ u.exch) → s.readyCyc q u.exch = some tr →
      ∃ t v ws, exec (.calendarCompute q far ready) s = .next t ∧ (t.queue q).launch = some v ∧ v.computed = u.computed ++ [(u.exch, ws)] ∧
        calNo ws = u.exch % 2 ^ 32 ∧ ((ws.getD 1 0) = w64 (ready.foldl (fun a x => max a x.toNat) tr + 8192)) ∧ t.core = s.core ∧
        (u.packages.head? ≠ some Config.pkgX → t.outbox = s.outbox)) ∧
    (∀ k ws, u.computed.find? (·.1 == u.exch) = some (k, ws) → ∃ t, exec (.standbyCalendarSend q) s = .next t ∧
      (u.packages[1]? = some Config.pkgX → calStart ws ≤ s.cyc.toNat + 4096 → t = u.packages.foldl (fun s p => s.sendControl p ws) s) ∧
      (s.cyc.toNat + 4096 < calStart ws → t = s)) ∧
    (∀ ws, u.cal = none → (s.readyCyc q u.exch).isSome = true → 8 ≤ ws.length → calNo ws = u.exch % 2 ^ 32 → s.cyc.toNat < calStart ws →
      ∀ standby, u.packages[if standby then 1 else 0]? ≠ some Config.pkgX → ∃ t v both, exec (.calendarTake q standby ws) s = .next t ∧
        (t.queue q).launch = some v ∧ v.cal = some (u.exch, ⟨ws, standby, both, false, [], [], [], 0⟩) ∧ t.outbox = s.outbox ∧
        (both = true → standby = false ∧ calStart ws ≤ s.cyc.toNat + 4096)) ∧
    (∀ k c, u.cal = some (k, c) →
      (i < calNph c.words → c.sent.contains i = false → calPhase c.words i ≤ s.cyc.toNat →
        exec (.circuitPhaseStart q i) s = .next ((s.setCal q fun c => { c with held := c.held ++ [i], sent := c.sent ++ [i] }).sendPhase q i c.words)) ∧
      (c.held.contains i = true → calPhase c.words i + 2096 ≤ s.cyc.toNat → ∃ t,
        exec (.circuitSendEnd q i) s = .next t ∧ t.calOf q = some { c with shut := c.shut ++ [i] } ∧ t.core = s.core ∧ t.outbox = s.outbox) ∧
      (calPhase c.words i + calPlen c.words ≤ s.cyc.toNat + 16 → ∃ t, exec (.circuitPhaseEnd q i) s = .next t ∧
        t.calOf q = some { c with held := c.held.filter (· != i), shut := c.shut.filter (· != i) } ∧ t.core = s.core ∧ t.outbox = s.outbox) ∧
      (u.residue = false → s.bad = [] → calPhase c.words (calNph c.words) ≤ s.cyc.toNat → ∃ t v, exec (.residueSend q) s = .next t ∧
        (t.queue q).launch = some v ∧ v.residue = true ∧ t.core = s.core) ∧
      (u.residue = true → exec (.residueSend q) s = .next s))

/-! ### Stream ports, the matrix unit, complexes, the race array -/

/-- R211 to R217: SBIND binds a free port whose descriptor is valid, with its register's value kept aside; SFREE gives that value back; SDRAIN completes
when nothing is left to write; misuse traps with CAUSE 0x10; SSTAT gives the port's status. The unit fetches an element ahead, zero- or sign-extended,
and writes the oldest pushed element, here in the core's own local memory.
What a port of another module reads is free (log entry 11). -/
def Obligations.StreamPorts : Prop :=
  ∀ (s : State) (n : BitVec 3) (d : SReg), s.core.shadow = none →
    let p : Fin 8 := ⟨n.toNat, n.isLt⟩
    let reg : SReg := 3#2 ++ n
    let c := s.core
    let x := c.ports.get p
    let tv (reason : Nat) : W64 := w64 (p.val + reason * 256)
    (x.bound = true → exec (.sbind n) s = .next (s.trap 0x10#8 (tv 1))) ∧
    (x.bound = false → c.strInvalid p.val = true → exec (.sbind n) s = .next (s.trap 0x10#8 (tv 3))) ∧
    (x.bound = false → c.strInvalid p.val = false → c.ownPosted = false → exec (.sbind n) s =
      .next (s.setCore fun c => { c with ports := c.ports.set p.val ⟨true, s.rd reg, 0, [], [], none⟩ }).retire) ∧
    (x.bound = false → exec (.sfree n) s = .next (s.trap 0x10#8 (tv 2)) ∧ exec (.sdrain n) s = .next (s.trap 0x10#8 (tv 2))) ∧
    (x.bound = true → c.strWrite p.val = false → ∃ t, exec (.sfree n) s = .next t ∧ t.rd reg = x.aside ∧ (t.core.ports.get p).bound = false ∧
      (∀ r, r ≠ reg → t.rd r = s.rd r) ∧ t.core.p = c.p ∧ t.core.k = c.k ∧ t.mem = s.mem ∧ t.core.lmem = c.lmem) ∧
    (x.bound = true → c.strWrite p.val = true → x.held = none → x.pushed = [] → exec (.sdrain n) s = .next s.retire) ∧
    (c.modp = none → c.port? d = none → exec (.sstat d n) s = .next ((s.wr d (if x.bound then
      w64 (2 ^ 63 + (c.strWrite p.val).toNat * 2 ^ 62 + x.held.isSome.toNat * 2 ^ 61 + (c.strTotal p.val - x.idx - x.pushed.length) % 2 ^ 48)
      else 0)).retire)) ∧
    (∀ q l, s.isCur q l = true → c.st ≠ .saved → x.bound = true → x.held = none → s.bad = [] →
      let size := c.strSize p.val
      (c.strWrite p.val = false →
        let e := x.idx + x.fetched.length
        let va := (c.strAddr p.val e).toNat
        s.soft = [] → (∀ r ∈ s.reqs, r.use ≠ .stream p.val) → (∀ y ∈ c.ports.toList, y.pushed = []) → e < c.strTotal p.val → (x.fetched.length + 1) * size ≤ 256 → localBase ≤ va → va - localBase + size ≤ c.lmin → c.lmin ≤ 0x40000 →
        exec (.streamFetch q l p.val) s = .next (s.setCore (·.setPort p fun y =>
          { y with fetched := x.fetched ++ [c.strExt p.val (c.locRead (va - localBase) size)] }))) ∧
      (c.strWrite p.val = true → c.deque = [] → (∀ r ∈ s.reqs, r.use ≠ .streamW p.val) → ∀ v r, x.pushed = v :: r →
        let va := (c.strAddr p.val x.idx).toNat
        localBase ≤ va → va - localBase + size ≤ c.lmin → c.lmin ≤ 0x40000 → ∃ m, exec (.streamElementWrite q l p.val) s =
          .next (s.setCore fun c => ({ c with lmem := m } : Machine.Core).setPort p fun y => { y with pushed := r, idx := x.idx + 1 }) ∧
          Memory.num m (va - localBase) size = v.toNat % 2 ^ (8 * size) ∧
          ∀ o, o < va - localBase ∨ va - localBase + size ≤ o → Memory.get m o = Memory.get c.lmem o))

/-- R305, R308, R314 to R319, R410: with no pending fault, ACCRD writes the rows of a tile to the core's own local memory and ACCWR writes them back into it; MXWAIT
waits while a command of its number or an older one is queued or has writes under way, then gives MXFL and clears it; MXSEQ gives the number last accepted; an ST64 of a valid
command to the control page enters it in the queue of 16, or waits while that is full. The unit starts its head, or starts it again where it stopped with
the formats it has read, counts a k-step within the ramp's upper bound, and lets it go after its last once its writes are performed. A window of 800 cycles
that ends leaves its count, made up to the lower bound, as the previous one, and takes the bounds and the ceiling of the next one as they were last written.
The ceiling's hold on that is the model's choice (log entry 75). -/
def Obligations.Matrix : Prop :=
  ∀ (s : State) (d a b : SReg) (t : BitVec 4) (l : BitVec 4), Safety.plain s [d, a, b] = true → s.core.mxTrap = none →
    let c := s.core
    let x := s.rd a
    let y := s.rd b
    (∀ o, c.accCheck t.toNat x y = .ok o → c.deque = [] → c.ownPosted = false → s.bad = [] → s.soft = [] →
      (∃ m, exec (.accrd t a b l) s = .next ((s.setCore fun c => { c with lmem := m }).landL l []) ∧
        ∀ r k, r < 32 → k < 32 → Memory.num m (o + r * accLen y + 4 * k) 4 = (c.tileAt t.toNat r k).toNat) ∧
      (∃ ts ty, exec (.accwr t a b l) s = .next ((s.setCore fun c => { c with tiles := ts, types := ty }).landL l []) ∧
        (∀ r k, r < 32 → k < 32 → ({ c with tiles := ts } : Machine.Core).tileAt t.toNat r k = BitVec.ofNat 32 (ofBytes (c.locRead (o + r * accLen y + 4 * k) 4))) ∧
        bit ty t.toNat = bit y 32 ∧ ∀ i, i < 16 → i ≠ t.toNat → bit ty i = bit c.types i)) ∧
    (∀ f, c.accCheck t.toNat x y = .error f → exec (.accrd t a b l) s = .next (s.trapL l f.1 f.2) ∧ exec (.accwr t a b l) s = .next (s.trapL l f.1 f.2)) ∧
    (let due (q : Nat) : Prop := (x.toNat % 65536 + 65536 - q) % 65536 < 32768
     ((∃ m ∈ c.mx.queue, due m.seq) ∨ (∃ q ∈ c.mx.left, due q) → exec (.mxwait d a l) s = .next (s.waitL l)) ∧
     ((∀ m ∈ c.mx.queue, ¬ due m.seq) → (∀ q ∈ c.mx.left, ¬ due q) → exec (.mxwait d a l) s = .next (if d = 0#5 then s.landL l [] else
      (s.setCore fun c => { c with mx := { c.mx with mxfl := 0 } }).landL l [.s d c.mx.mxfl]))) ∧
    exec (.mxseq d l) s = .next (s.landL l [.s d (w64 ((c.mx.next + 65535) % 65536))]) ∧
    (∀ dd : BitVec 2, let ds := [0#3, 1#3, 2#3, 3#3, 4#3, 5#3, 6#3, 7#3].map fun j => dd ++ j
      Safety.plain s ds = true → x = 0x007FFFFFFFFF0000#64 → c.posted = [] → c.mxCheck ⟨ds.map s.rd, 0, 0, false⟩ = none →
      (16 ≤ c.mx.queue.length → exec (.st64 dd a 0 l) s = .next (s.waitL l)) ∧
      (c.mx.queue.length < 16 → ∃ (u : State) (m : MxCmd), exec (.st64 dd a 0 l) s = .next (u.landL l []) ∧ u.core.mx.queue = c.mx.queue ++ [m] ∧ m.dws = ds.map s.rd ∧
        m.seq = c.mx.next ∧ u.core.mx.next = (c.mx.next + 1) % 65536 ∧ u.core.s = c.s ∧ u.core.lmem = c.lmem ∧ u.mem = s.mem)) ∧
    (∀ q k m ms, s.isCur q k = true → c.st ≠ .saved → c.mx.queue = m :: ms →
      let again := bit c.mx.rowprog 0 && bf c.mx.rowprog 48 16 == m.seq
      (c.mx.started = false → ∃ u, exec (.matrixCommandStart q k) s = .next u ∧ u.core.mx.queue = m :: ms ∧
        (again = false ∨ c.mx.fmts = [] → (s.mxFormats m).2 = true →
          u.core.mx.started = true ∧ u.core.mx.fault = none ∧ u.core.mx.fmts = (s.mxFormats m).1) ∧
        (again = false ∨ c.mx.fmts = [] → (s.mxFormats m).2 = false → u.core.mx.fault = some (0x0B#8, w64 (8 + m.op * 256 + m.seq * 65536))) ∧
        (again = true → c.mx.fmts ≠ [] →
          u.core.mx.started = true ∧ u.core.mx.fmts = c.mx.fmts ∧ u.core.mx.steps = bf c.mx.rowprog 32 16 * m.per)) ∧
      (c.mx.started = true → c.mx.steps + 1 < m.units * m.per → (c.mx.steps + 1) % m.per ≠ 0 → s.cyc.toNat / 800 = s.rampAt →
        (s.ramp.1 < s.rampHi → ∃ u, exec (.matrixKStep q k) s = .next u ∧ u.core = { c with mx := { c.mx with steps := c.mx.steps + 1 } } ∧
          u.ramp = (s.ramp.1 + 1, s.ramp.2) ∧ { u with core := c, ramps := s.ramps, capped := s.capped } = s ∧ (u.ramp.1 < s.rampHi → u.capped = s.capped)) ∧
        (s.rampHi ≤ s.ramp.1 → ∃ u, exec (.matrixKStep q k) s = .next u ∧ u.core = c ∧ { u with capped := s.capped } = s ∧
          ∃ e ∈ u.capped, e.1 = c.pcid)) ∧
      (c.mx.started = true → c.mx.owed = 0 → m.units * m.per ≤ c.mx.steps → ∃ u, exec (.matrixCommandComplete q k) s = .next u ∧ u.core.mx.queue = ms ∧
        u.core.mx.started = false ∧ u.core.mx.steps = 0 ∧ u.core.tiles = c.tiles ∧ u.core.mx.mxfl = c.mx.mxfl) ∧
      (c.mx.started = true → 0 < c.mx.owed → exec (.matrixCommandComplete q k) s = .next s)) ∧
    (s.cyc.toNat / 800 = s.rampAt → exec .rampWindowBoundary s = .next s) ∧
    (s.cyc.toNat / 800 = s.rampAt + 1 → (s.ramps.map (·.1)).Nodup → ∃ u, exec .rampWindowBoundary s = .next u ∧ u.core = c ∧ u.mem = s.mem ∧
      u.rampAt = s.cyc.toNat / 800 ∧ u.ramp = (0, Max.max s.ramp.1 (Min.min (s.ramp.2 - s.rampNow.2) s.rampNow.1)) ∧
      u.capped = [] ∧ u.capNow = s.pwrcap ∧ u.rampNow = (bf s.rampcfg 16 10, Min.min 800 (Max.max 1 (bf s.rampcfg 0 10))))

/-- R295 to R299: CDROP empties the slot that holds the patch; CQUERY gives a slot number plus one, a doubleword of the header as it stands (R40), an element's
global id or ghost entry, and −1 for bits outside s[b]'s fields and for an index of nothing; a patch that is not resident traps with CAUSE 0x08 and reason 1; CLOAD of a sound record fills the lowest empty slot and gives its number; CREF
of a descriptor that one of CREF's codes (R298) refuses gives the code, and one that none refuses gives the length of the record it writes.
The order of the tables that CREF writes is the model's choice (log entry 15); the entries of elements that stores have made malformed are free (log entry 7). -/
def Obligations.Complexes : Prop :=
  ∀ (s : State) (d a b : SReg) (l : BitVec 4), Safety.plain s [d, a, b] = true →
    let c := s.core
    let x := s.rd a
    let q := s.rd b
    let i := bf x 0 16
    let p := bf x 16 16
    let gone : Trap := ⟨0x08#8, w64 (i + p * 2 ^ 16 + 2 ^ 32), 0⟩
    let is (o : Option Slot) : Bool := match o with | some y => y.cplx == i && y.patch == p | none => false
    let gives (v : W64) : Prop := exec (.cquery d a b l) s = .next (s.landL l [.s d v])
    (bf x 32 32 = 0 → (c.slotOf i p).isSome = true →
      exec (.cdrop a l) s = .next ((s.setCore fun c => { c with slots := c.slots.map fun o => if is o then none else o }).landL l [])) ∧
    (c.slotOf i p = none → exec (.cdrop a l) s = .next (s.trapLT l gone) ∧
      (q &&& ~~~0x33FFF#64 = 0#64 → bf q 16 2 ≠ 3 → exec (.cquery d a b l) s = .next (s.trapLT l gone)) ∧
      (q = 0x30000#64 → gives 0)) ∧
    (q &&& ~~~0x33FFF#64 ≠ 0#64 → gives (BitVec.allOnes 64)) ∧
    (∀ n y, q = 0x30000#64 → bf x 32 32 = 0 → n < 4 → c.slots.getD n none = some y → y.cplx = i → y.patch = p →
      (∀ m, m < n → is (c.slots.getD m none) = false) → c.slots.length = 4 → gives (w64 (n + 1))) ∧
    (∀ y, bf x 32 32 = 0 → c.slotOf i p = some y → q &&& ~~~0x33FFF#64 = 0#64 →
      let j := bf q 0 12
      let k := bf q 12 2
      let lands (t : State) (v : W64) : Prop := exec (.cquery d a b l) s = .next (t.landL l [.s d v])
      (bf q 16 2 = 0 → (8 ≤ j → gives (BitVec.allOnes 64)) ∧
        (j < 8 → ∀ bs t, s.cplxLine y.base 0 = .ok (bs, t) → lands t (w64 (ofBytes ((bs.drop (8 * j)).take 8))))) ∧
      (bf q 16 2 = 1 → (y.total k ≤ j → gives (BitVec.allOnes 64)) ∧
        (j < y.total k → ∀ r t, s.useRec y (fun r => [(r.gidAt k j, 8)]) = .ok (r, t) → lands t (w64 (r.gid k j)))) ∧
      (bf q 16 2 = 2 → (y.total k ≤ j → gives (BitVec.allOnes 64)) ∧ (j < y.total k → j < y.owned k → gives 0) ∧
        (y.owned k ≤ j → j < y.total k → ∀ r t, s.useRec y (fun r => [(r.ghAt k j, 8)]) = .ok (r, t) → lands t (r.ghost k j)))) ∧
    (∀ bs t h u k, c.posted = [] → x.toNat % 64 = 0 → x.toNat < winBase → (s.dropRec x.toNat).cplxLine x.toNat 0 = .ok (bs, t) →
      let w := (dwords bs 1).getD 0 0
      t.core.slotOf (bf w 0 16) (bf w 16 16) = none → (upTo 4).find? (fun i => t.core.slots.getD i none == none) = some k →
      (t.drainAll.dropRecordLines.dropRec x.toNat).loadRec x.toNat = .ok (h, u) → t.drainAll.core.posted = [] →
      exec (.cload d a l) s = .next ((u.setCore fun c => { c with slots := c.slots.set k (some ⟨bf (h.getD 0 0) 0 16, bf (h.getD 0 0) 16 16, x.toNat, h.take 3⟩) }).landL l
        [.s d (w64 k)])) ∧
    (∀ ds t y r u, c.isOwn x.toNat = true → c.far = none → c.ownPosted = false → s.unitDws x 4 = .ok (ds, t) → t.core.slotOf (bf (ds.getD 0 0) 0 16) (bf (ds.getD 0 0) 16 16) = some y →
      t.useRec y (fun r => r.tables) = .ok (r, u) →
      let m := bf (ds.getD 2 0) 0 18
      let mark (e : Nat) : Bool := (u.core.locByte (m + e / 8)).toNat / 2 ^ (e % 8) % 2 == 1
      let out := if r.n == 1 || r.n == 2 then r.output mark (bf (ds.getD 0 0) 32 16) (Config.freeBits u.tick) else []
      (∀ k, crefCode u.core r ds mark out = some k → exec (.cref d a l) s = .next (u.landL l [.s d (w64 k)])) ∧
      (crefCode u.core r ds mark out = none → (ds.getD 1 0).toNat < winBase → u.core.posted = [] →
        ∀ v, u.unitPut (ds.getD 1 0) out = .ok v → v.unitWaits = false →
        exec (.cref d a l) s = .next (v.landL l [.s d (w64 (8 * out.length))])))

/-- R325 to R336: TRACQ takes a free array, cleared when its last owner was of another context, and gives 0; of one that a core holds it gives bit 63 with
the holder. The other instructions trap with CAUSE 0x0F: reason 6 once the array was lost, 1 when it is not owned, and TRSET and TRGO
with 3 or 5, with none of their shadow issued (R334). TRREL frees it, TRSET sets a seed,
TRRST clears seeds and captures, TRGO captures the nodes that rise in TWIN ticks, TRLOAD loads node records, TRGET writes captures, four to a word.
The nodes of a broken record are free (log entry 7). -/
def Obligations.RaceArray : Prop :=
  ∀ (s : State) (d a b : SReg) (l : BitVec 4), Safety.plain s [d, a, b] = true →
    let c := s.core
    let x := s.rd a
    let y := s.rd b
    let me := some (c.queue, c.lcn.toNat, c.pcid)
    let mine (s : State) : State := s.setCore fun c => { c with raceLost := false }
    (s.race.owner = none → exec (.tracq d l) s = .next ((s.setRace fun r => if r.prev = some (s.ctxOf c) then { r with owner := me } else
      ⟨me, some (s.ctxOf c), [], [], []⟩).landL l [.s d 0])) ∧
    (∀ q o k, s.race.owner = some (q, o, k) → exec (.tracq d l) s = .next (if q = c.queue ∧ o = c.lcn.toNat then s.landL l [.s d 0] else
      s.landL l [.s d (w64 (2 ^ 63 + if q = c.queue then o else 0x3FFFFFF))])) ∧
    (∀ i, i ∈ ([.trrel l, .trset a b l, .trrst l, .trgo d l, .trload a b l, .trget a b l] : List Instr) →
      (c.raceLost = true → exec i s = .next ((mine s).trapAtIssue l ⟨0x0F#8, 6, 0⟩)) ∧
      (c.raceLost = false → s.ownsRace = false → exec i s = .next (s.trapAtIssue l ⟨0x0F#8, 1, 0⟩))) ∧
    (∀ t, c.shadow = none → c.frame = none → c.resume = none → gangRole c.gangst = 0 → l ≠ 0#4 →
      (s.trapAtIssue l t).core.st = .trapped ∧ (s.trapAtIssue l t).core.epc = c.ipc ∧
      (s.trapAtIssue l t).core.shdone = w64 (2 ^ 31 + l.toNat * 2 ^ 16)) ∧
    (c.raceLost = false → s.ownsRace = true →
      exec (.trrel l) s = .next ((s.setRace fun r => { r with owner := none }).landL l []) ∧
      exec (.trrst l) s = .next ((s.setRace fun r => { r with seeds := [], capts := [] }).landL l []) ∧
      (x.toNat < 4096 → y.toNat < 4096 → ∃ r, exec (.trset a b l) s = .next ((s.setRace fun _ => r).landL l []) ∧
        tget 0xFFF x.toNat r.seeds = y.toNat ∧ (∀ n, n ≠ x.toNat → tget 0xFFF n r.seeds = tget 0xFFF n s.race.seeds) ∧
        { r with seeds := s.race.seeds } = s.race) ∧
      (4096 ≤ x.toNat ∨ 4096 ≤ y.toNat → exec (.trset a b l) s = .next (s.trapAtIssue l ⟨0x0F#8, 3, 0⟩)) ∧
      (bf c.twin 0 12 ≠ 0 → exec (.trgo d l) s = .next ((s.setRace fun r => { r with capts := s.race.run (bf c.twin 0 12) }).landL l
        [.s d (w64 (s.race.run (bf c.twin 0 12)).length)])) ∧
      (bf c.twin 0 12 = 0 → exec (.trgo d l) s = .next (s.trapAtIssue l ⟨0x0F#8, 5, 0⟩)) ∧
      (∀ f n ds t, c.ownPosted = false → bit y 63 = false → raceRange y = some (f, n) → x.toNat % 8 = 0 → s.raceRead x f n = .ok (ds, t) →
        exec (.trload a b l) s = .next ((t.setRace fun r => { r with
          nodes := (r.nodes.filter fun e => decide (e.1 < f) || decide (f + n ≤ e.1)) ++ ds.filter fun e => e.2 != ⟨0, []⟩ }).landL l [])) ∧
      (∀ f n t, c.ownPosted = false → raceRange y = some (f, n) → n % 4 = 0 → x.toNat % 8 = 0 → s.raceDest x (2 * n) = none → s.racePut s.race x f (n / 4) = .ok t →
        exec (.trget a b l) s = .next (t.landL l [])))

/-! ### Code objects, contexts, queues, launches -/

/-- R51 to R56, R59: PUBLISH with no request before it is served at once: a staging address that is no multiple of 64 gives 1; a staged object that
fails a check gives the check's number; one that passes is sealed, and its id is given; a staging word that cannot be read traps. A sealed object takes
the heap's lowest free bytes, in units of 64, and its padding words are `brk`. The publisher serves its oldest request, of a core or of a record. A
publish record joins its requests, and a no-operation record completes at once: DW0 and the tag at CADDR, the queue's head one further.
What a completion that cannot be written does is the model's choice (log entry 28). -/
def Obligations.Publishing : Prop :=
  (∀ (s : State) (d a b : SReg), Safety.plain s [d, a, b] = true → s.core.posted = [] →
      let n := s.ctxOf s.core
      let x := s.rd a
      (s.ctx n).pubq = [] → (∀ r ∈ (s.ctx n).pubres, ¬ (r.q = s.core.queue ∧ r.l = s.core.lcn.toNat)) →
      (x.toNat % 64 ≠ 0 → exec (.publish d a b) s = .next ((s.wr d 1).retire)) ∧
      (∀ h t, x.toNat % 64 = 0 → s.unitDws x 2 = .ok (h, t) →
        let nw := bf (h.getD 0 0) 32 32
        let nr := bf (h.getD 0 0) 16 16
        (s.rd b).toNat = 16 + 8 * ((nw + 1) / 2) + 16 * nr → nw ≤ 65536 → nr ≤ 4096 →
        ∀ ds u, t.unitDws (x + 16#64) ((nw + 1) / 2 + 2 * nr) = .ok (ds, u) → u.core.port? d = none →
        let body := ds.take ((nw + 1) / 2)
        let o : Staged := ⟨h.getD 0 0, h.getD 1 0, wordsOf nw body, if nw % 2 = 1 then bf (body.getLastD 0) 32 32 else 0, pairsOf (ds.drop ((nw + 1) / 2))⟩
        let k := (u.ctx n).pubCheck o
        (k ≠ 0 → exec (.publish d a b) s = .next ((u.wr d (w64 k)).retire)) ∧
        (k = 0 → exec (.publish d a b) s = .next (((u.setCtx n fun c => (c.seal o).2).wr d ((u.ctx n).seal o).1).retire))) ∧
      (∀ f, x.toNat % 64 = 0 → s.unitDws x 2 = .error f → exec (.publish d a b) s = .next (s.trap f.1 f.2))) ∧
  (∀ (x : Ctx) (o : Staged),
      let nw := bf o.hdr 32 32
      let size := 64 * ((4 * nw + 63) / 64)
      o.words.length = nw → ∃ ws, (x.seal o).2 = { x with objs := x.objs ++ [⟨x.heapbase.toNat + x.heapUsed, nw, ws⟩], heapUsed := x.heapUsed + size } ∧
        (x.seal o).1 = w64 (x.heapbase.toNat + x.heapUsed) ∧ 4 * ws.length = size ∧ (∀ i, nw ≤ i → i < ws.length → ws[i]? = some (encode (.brk 0))) ∧
        (o.refs = [] → ws.take nw = o.words)) ∧
  (∀ (s : State) (n : Nat) (a len : W64) (rest : List PubReq),
      let pop (s : State) : State := s.setCtx n fun x => { x with pubq := rest }
      let u := pop s
      (∀ q l, (s.ctx n).pubq = ⟨none, a, len, some (q, l)⟩ :: rest → s.isCur q l = true → s.core.posted = [] →
        (∀ v t, s.publish n State.unitDws a len = .ok (v, t) →
          exec (.publisherServe n) s = .next ((pop t).setCtx n fun x => { x with pubres := x.pubres ++ [⟨q, l, none, v⟩] })) ∧
        (∀ e, s.publish n State.unitDws a len = .error e →
          exec (.publisherServe n) s = .next (u.setCtx n fun x => { x with pubres := x.pubres ++ [⟨q, l, some e, 0⟩] }))) ∧
      (∀ q r v t, (s.ctx n).pubq = ⟨some q, a, len, none⟩ :: rest → u.record? q = some (.ok r) → u.publish n (hubStage n) a len = .ok (v, t) →
        exec (.publisherServe n) s = .next (t.complete q (recTag r) (recCaddr r) v))) ∧
  (∀ (s : State) (q : Nat) (r : List W64), s.record? q = some (.ok r) → recOk r = true →
      let u := s.queue q
      let n := u.ctx
      (bf (r.getD 0 0) 0 8 = 2 → (∀ p ∈ (s.ctx n).pubq, p.queue ≠ some q) → exec (.publishRecord q) s =
        .next (s.setCtx n fun x => { x with pubq := x.pubq ++ [⟨some q, r.getD 1 0, r.getD 2 0, none⟩] })) ∧
      (bf (r.getD 0 0) 0 8 = 0 → ∃ t, exec (.nopRecord q) s = .next t ∧ (t.queue q).qhead = (u.qhead + 1) % u.len ∧ (t.queue q).launch = none ∧
        let v := (s.hubTry n (r.getD 6 0).toNat 0).hubTry n ((r.getD 6 0).toNat + 8) (w64 (bf (r.getD 0 0) 32 32))
        t.mem = v.mem ∧ t.hostMem = v.hostMem ∧ t.core.lmem = s.core.lmem))

/-- R60 to R62, R205, R377 to R379, R411: the notify region does nothing until the boot is done. Creating a context makes it live, destroying it frees its objects, slots and TLB entries; a command that may not
be carried out sets CMDERR. QTAIL notifies the mapper, which, then as after a creation, gives free slots to eligible queues; clearing ERR passes the record. A TLB invalidation
queues, and is done when the entries in its scope are gone and no request that they may have translated is outstanding, here and at other modules (log
entry 82). The hub moves the next die's oldest fault record to its context's ring, when that has room,
and signals the vector; FRHEAD frees slots of the ring.
That delivery stops at a full ring is the model's reading (log entry 37). -/
def Obligations.HostQueues : Prop :=
  (∀ (s : State) (n q link tail : Nat) (w : W64), bf s.bootst 0 4 ≠ 1 →
    ∀ i ∈ ([.contextCreate n link, .contextDestroy n, .queueNotify q tail, .queueErrClear q, .tlbinv n w, .frheadWrite n w, .hcmdResume n w, .hcmdSkip n w,
      .hcmdKill n w, .hcmdAbt n w, .readbackCoreImage n w, .readbackRaceArray n w, .readbackTellerFlush n w] : List Instr), exec i s = .next s) ∧
  ∀ (s : State) (n q link tail : Nat) (w : W64), bf s.bootst 0 4 = 1 →
    let x := s.ctx n
    let refused : State := s.setCtx n fun x => { x with cmderr := true }
    let grants (i : Instr) (u : State) : Prop := ∃ t, exec i s = .next t ∧ t.core = u.core ∧ t.mem = u.mem ∧ t.ctxs = u.ctxs ∧
      (∀ k, u.slotsUsed < 32 → u.nextQueue = some k → (t.queue k).active = true) ∧ (32 ≤ u.slotsUsed ∨ u.nextQueue = none → t = u)
    (x.st = 0 → s.ctxOk n = true → grants (.contextCreate n link) (s.setCtx n fun x =>
      { x with st := 2, fn := link, objs := [], heapUsed := 0, images := [], pubq := [], pubres := [] })) ∧
    (x.st ≠ 0 ∨ s.ctxOk n = false → grants (.contextCreate n link) refused) ∧
    (x.st = 2 → (∀ u ∈ s.queues, u.2.ctx = n → bit u.2.ctl 0 = false ∧ u.2.active = false) → ∃ t, exec (.contextDestroy n) s = .next t ∧
      (t.ctx n).st = 0 ∧ (t.ctx n).objs = [] ∧ t.mem = s.mem ∧ t.core.s = s.core.s ∧ t.core.lmem = s.core.lmem ∧ (∀ e ∈ t.core.utlb, e.ctx ≠ n) ∧
      (∀ y, ∀ e ∈ (t.yard y).tlb, e.ctx ≠ n) ∧ (∀ d, ∀ e ∈ (t.die d).walks, e.ctx ≠ n) ∧ (s.ctxOf s.core = n → t.core.slots = [none, none, none, none])) ∧
    (x.st ≠ 2 → exec (.contextDestroy n) s = .next refused) ∧
    grants (.queueNotify q tail) (s.setQueue q fun v => { v with qtail := tail % 65536 }) ∧
    ((s.queue q).err = true → ∃ t, exec (.queueErrClear q) s = .next t ∧ (t.queue q).err = false ∧
      (t.queue q).qhead = ((s.queue q).qhead + 1) % 2 ^ (s.queue q).log2n.toNat ∧ t.mem = s.mem ∧ t.core.s = s.core.s) ∧
    ((s.queue q).err = false → exec (.queueErrClear q) s = .next s) ∧
    (bf w 0 7 = 0 → x.tlbq.length < 16 → exec (.tlbinv n w) s = .next (s.setCtx n fun x => { x with tlbq := x.tlbq ++ [w] })) ∧
    (bf w 0 7 ≠ 0 ∨ 16 ≤ x.tlbq.length → exec (.tlbinv n w) s = .next refused) ∧
    (∀ v r, x.tlbq = v :: r → Safety.settled s = true → (∀ c ∈ s.peers, c.posted = [] ∧ ∀ y ∈ c.ports.toList, y.bound = false) → s.reqs = [] → ∃ t, exec (.tlbinvDone n) s = .next t ∧
      (t.ctx n).tlbq = r ∧ (t.ctx n).tlbdone = bf v 48 16 ∧ t.mem = s.mem ∧
      let inScope (e : TlbE) : Bool :=
        let whole := if e.big then bf v 7 39 / 2 ^ 13 == e.va / 2 ^ 30 else bf v 7 39 == e.va / 2 ^ 17
        if bf v 46 2 = 0 then (e.ctx == n || bit e.pte 6) && whole else if bf v 46 2 = 1 then e.ctx == n && !bit e.pte 6
        else if bf v 46 2 = 2 then bit e.pte 6 else true
      t.core.utlb = s.core.utlb.filter (fun e => !inScope e) ∧ (∀ y, (t.yard y).tlb = (s.yard y).tlb.filter fun e => !inScope e) ∧
        ∀ d, (t.die d).walks = (s.die d).walks.filter fun e => !walkScope n v e) ∧
    (∀ v r, x.tlbq = v :: r → bf v 46 2 ≠ 1 → s.reqs ≠ [] → ∃ t, exec (.tlbinvDone n) s = .next t ∧ (t.ctx n).tlbq = v :: r ∧ (t.ctx n).tlbdone = x.tlbdone) ∧
    exec (.frheadWrite n w) s = .next (s.setCtx n fun x => { x with frhead := w.toNat % 65536 }) ∧
    (∀ d r rest, d < 8 → (s.die d).faultq = r :: rest → (∀ e, e < 8 → e ≠ d → (s.die e).faultq = []) →
      let y := s.ctx r.ctx
      (y.ringFull = true → exec .faultRecordDelivery s = .next s) ∧
      (y.ringFull = false → s.core.unsent = none → (∀ c ∈ s.peers, c.unsent = none) → r.dws.length = 8 → ∃ t, exec .faultRecordDelivery s = .next t ∧
        (t.die d).faultq = rest ∧ (t.ctx r.ctx).frtail = (y.frtail + 1) % 2 ^ bf y.frbase 0 5 ∧ t.core = s.core ∧ t.mem = s.mem ∧
        t.outbox = s.outbox ++ [.msix y.fn (bf y.frvec 0 11)] ∧
        ∀ j, j < 8 → Memory.num t.hostMem ((y.frbase &&& ~~~0xFFF#64).toNat + 64 * y.frtail + 8 * j) 8 = (r.dws.getD j 0).toNat))

/-- R62 to R73, R382, R392 to R394: a launch record whose predicate fails completes with code 1, one whose save base is taken with 8, one whose image is
invalid with 3; else its launch begins. Placement gives every core of it on this module its state at wake; a wake flit wakes the cores of a router, once,
each with EVLATCH zero and no message. At a quantum end each PRIO that was written takes effect, and a waiting queue takes a free slot, or, when more than 32 queues are eligible, that of an active
queue of no smaller PRIO. A launch whose cores here are all done and settled retires,
and KILL stops one: its cores are idle, and its record completes.
Where a launch is placed, and the order of the last checks, are the model's choices (log entries 19, 29). -/
def Obligations.Launches : Prop :=
  ∀ (s : State) (q x y : Nat),
    let u := s.queue q
    let n := u.ctx
    (∀ r, s.record? q = some (.ok r) → recOk r = true → bf (r.getD 0 0) 0 8 = 1 →
      let ends (c : Nat) : Prop := exec (.launchRecord q) s = .next (s.complete q (bf (r.getD 0 0) 32 32) (r.getD 6 0) (w64 c))
      let go := s.predicate n r
      (go = some false → ends 1) ∧ (go = some true → s.baseTaken q = true → ends 8) ∧
      (go = some true → s.baseTaken q = false → s.readImage n (r.getD 1 0).toNat = none → ends 3) ∧
      (∀ i ids t f, go = some true → s.baseTaken q = false → s.readImage n (r.getD 1 0).toNat = some i →
        (∀ j, j < i.segs.length → s.segRefsOk n (r.getD 1 0).toNat i j = true) → s.imageObjs n (r.getD 1 0) i = (.ok ids, t) → foldFor (t.ctx n) i = .ok f →
        ∃ a, exec (.launchRecord q) s = .next (t.setQueue q fun v => { v with launch := some a }) ∧ a.tag = bf (r.getD 0 0) 32 32 ∧ a.caddr = r.getD 6 0 ∧
          a.lx = bf (i.w 0) 32 12 + 1 ∧ a.ly = bf (i.w 0) 44 12 + 1 ∧ a.seed = (if bit (r.getD 0 0) 10 then r.getD 2 0 else i.w 1) ∧
          a.entry = w64 (ids.getD i.entSeg 0 + 4 * i.entWord) ∧ a.fold = 2 ^ f ∧ a.stage = 0 ∧ a.savebase = u.savebase)) ∧
    (∀ a, u.launch = some a → a.stage = 0 → u.active = true → ∀ xs ys : List Nat, let spots := xs.zip ys
      s.placeOk n a spots = true →
      let b : Launch := { a with remap := (List.range (a.lx * a.ly)).map (a.remapAt spots), route := (List.range (a.lx * a.ly)).map (a.routeAt spots), stage := 1,
                                 locals := s.localSegs n a }
      (∀ e ∈ b.hereCores, s.busyCore e.2 = false) → ∃ t, exec (.launchPlacement q xs ys) s = .next t ∧ (t.queue q).launch = some b ∧
        ∀ e ∈ b.hereCores, ∃ c ∈ t.peers, c.queue = q ∧ c.lcn = w64 e.1 ∧ c.pcid = e.2 ∧ c.pc = a.entry ∧ c.placed = true ∧ c.st = .idle ∧
          c.ncores = w64 (a.lx * a.ly * 4) ∧ c.jobseed = a.seed ∧ c.streamid = w64 e.1 ∧ c.mintkey = mint a.seed (w64 e.1) ∧ c.lmin = a.lmin ∧
          c.s = Vector.replicate 32 0 ∧ c.p = Vector.replicate 8 false ∧ c.k = Vector.replicate 16 0) ∧
    (∀ a, u.launch = some a → a.stage ≠ 0 → (x, y) ∉ a.woken →
      let mine := a.hereCores.filter fun e => pcX e.2 == x && pcY e.2 == y
      mine ≠ [] → (∀ e ∈ mine, a.lowest e.1 e.2 = true) → ∃ t b, exec (.wakeFlit q x y) s = .next t ∧ (t.queue q).launch = some b ∧
        b.woken = (x, y) :: a.woken ∧ t.mem = s.mem ∧
        ∀ e ∈ mine, ∀ i c, s.isCur q e.1 = false → s.find q e.1 = some i → s.peers[i]? = some c →
          { c with st := .running, placed := false, evlatch := 0, rx := [] } ∈ t.core :: t.peers) ∧
    (∀ a, u.launch = some a → (x, y) ∈ a.woken → exec (.wakeFlit q x y) s = .next s) ∧
    (let r : State := { s with queues := s.queues.map fun v => (v.1, { v.2 with prio := bf v.2.ctl 2 2 }) }
     (r.nextQueue = none → exec .queueQuantumEnd s = .next r) ∧
     (∀ w, r.nextQueue = some w → r.slotsUsed < 32 → ∃ t, exec .queueQuantumEnd s = .next t ∧ (t.queue w).active = true ∧ t.core = s.core ∧ t.mem = s.mem) ∧
     (∀ w, r.nextQueue = some w → 32 ≤ r.slotsUsed → (r.queues.filter fun v => r.eligible v.2).length ≤ 32 → exec .queueQuantumEnd s = .next r) ∧
     (∀ w, r.nextQueue = some w → 32 ≤ r.slotsUsed → 32 < (r.queues.filter fun v => r.eligible v.2).length → (s.queues.map (·.1)).Nodup →
      ((∀ v ∈ r.queues, v.2.active = true → v.2.prio < (r.queue w).prio) → exec .queueQuantumEnd s = .next r) ∧
      ((∃ v ∈ r.queues, v.2.active = true ∧ (r.queue w).prio ≤ v.2.prio) → ∃ t h, exec .queueQuantumEnd s = .next t ∧ (s.queue h).active = true ∧
        (∀ v ∈ r.queues, v.2.active = true → v.2.prio ≤ (r.queue h).prio) ∧ (t.queue h).active = false ∧ (t.queue w).active = true))) ∧
    (∀ a, u.launch = some a → a.stage = 2 ∨ a.stage = 1 ∧ a.hereCores = [] → (∀ c ∈ s.members q, c.st = .done ∧ c.posted = [] ∧ c.cf.reqs = []) → (∀ r ∈ s.reqs, r.q ≠ q) →
      ∃ t, exec (.launchRetirement q) s = .next t ∧ (t.queue q).launch = none ∧ (t.queue q).qhead = (u.qhead + 1) % u.len ∧
        ∀ c ∈ t.core :: t.peers, c.queue = q → c.present = false) ∧
    (∀ k w, bf s.bootst 0 4 = 1 → bf w 0 2 = 3 → bit w 2 = false → bit w 3 = false → bf w 14 2 = 0 → bf w 58 6 = 0 →
      let j := bf w 4 10
      ((s.queue j).ctx = k → (s.queue j).launch.isSome = true → ∃ t, exec (.hcmdKill k w) s = .next t ∧ (t.queue j).launch = none ∧
        (t.queue j).qhead = ((s.queue j).qhead + 1) % (s.queue j).len ∧ (∀ r ∈ t.reqs, r.q ≠ j) ∧
        ∀ c ∈ t.core :: t.peers, c.queue = j → c.present = false) ∧
      ((s.queue j).ctx ≠ k ∨ (s.queue j).launch = none → exec (.hcmdKill k w) s = .next (s.setCtx k fun x => { x with cmderr := true })))

/-! ### The host's answers, management, links, flits -/

/-- R380 to R386, R395, R396: RESUME of a trapped core whose TSEQ it names lets it run again from EPC with the shadow and frame that it left, after BRK
from behind it; SKIP goes on behind the instruction, with TY of its cochain destination set; another TSEQ sets CMDERR. ABT ends a wait on the fabric with
a trap. Readback writes a core's image, a race array or the live slots, or says why not (R395). A save, of a core whose queue has lost its slot, leaves the core saved, with its record written; a restoration brings it
back on a physical core.
What a record on another module does, the rest of a context record, when a host write fails, and what becomes of a record that cannot be read, are the
model's choices (log entries 17, 30, 98, 99). -/
def Obligations.HostAnswers : Prop :=
  (∀ (s : State) (n : Nat) (w : W64), bf s.bootst 0 4 = 1 → bf w 14 2 = 0 → bit w 3 = false → bf w 58 6 = 0 →
      let q := bf w 4 10
      let l := bf w 32 26
      let c := s.core
      let named : Prop := (s.queue q).ctx = n ∧ (s.queue q).launch.isSome = true ∧ s.isCur q l = true ∧ s.find q l = none
      let refused : State := s.setCtx n fun x => { x with cmderr := true }
      let again : Option Resume := if bit c.shdone 31 then some ⟨bf c.shdone 16 4, BitVec.ofNat 15 (bf c.shdone 0 15), none⟩ else none
      let at' (pc : W64) : State := s.setCore fun c => { c with st := .running, pc := pc, obj := none, latch := none, shadow := none, modp := none, resume := again, frame := frameOf c.rptst pc, raised := 0 }
      (named → bit w 2 = false → bf w 16 16 ≠ c.tseq → c.st = .trapped →
        (bf w 0 2 = 1 → exec (.hcmdResume n w) s = .next refused) ∧ (bf w 0 2 = 2 → exec (.hcmdSkip n w) s = .next refused)) ∧
      (named → bit w 2 = false → bf w 16 16 = c.tseq → c.st = .trapped → c.raised = 0 → c.cause ≠ 0x09#64 →
        (bf w 0 2 = 1 → exec (.hcmdResume n w) s = .next (at' (if c.cause = 0x15#64 then c.epc + 4#64 else c.epc))) ∧
        (bf w 0 2 = 2 → bit c.shdone 31 = false → bit c.rptst 63 = false → ∀ x o i, (at' c.epc).wordAt = some (x, o) → x.toNat / 2 ^ 26 ≠ 62 →
          decode x = .ok i → ∃ t, exec (.hcmdSkip n w) s = .next t ∧ t.core.st = .running ∧ t.core.pc = c.epc + 4#64 ∧ t.core.s = c.s ∧ t.core.p = c.p ∧
            (∀ j, kdestOf i ≠ some j → t.rk j = s.rk j) ∧
            (∀ j, kdestOf i = some j → ∀ b, b < 128 → (t.rk j).getLsbD b = (b == 42 || (s.rk j).getLsbD b)) ∧ Safety.sameBytes s t)) ∧
      (named → bit w 2 = true → bf w 0 2 = 0 → c.st = .waiting →
        (∀ f, c.shadow = none → c.far = some f → (∃ r ∈ s.reqs, r.q = q ∧ r.l = l ∧ r.use = .load ∧ r.tag = f.tag) → ∃ t, exec (.hcmdAbt n w) s = .next t ∧
          t.core.st = .trapped ∧ t.core.cause = 0x1F#64 ∧ t.core.tval = w64 (5 + c.pcid * 256) ∧ t.core.epc = c.ipc ∧ t.core.s = c.s ∧ t.core.far = none ∧
          ∀ r ∈ t.reqs, r ∈ s.reqs ∧ ¬ (r.q = q ∧ r.l = l ∧ r.use = .load)) ∧
        ((∀ r ∈ s.reqs, r.q ≠ q ∨ r.l ≠ l) → (∀ e ∈ c.posted, e.place.here = true) → exec (.hcmdAbt n w) s = .next refused) ∧
        (∀ e x d sc b, (∀ r ∈ s.reqs, r.use = .posted) → c.shadow = none → c.arrival = none → c.xch.arrived = none → c.latch = some x →
          decode x = .ok (.fence d sc b) → c.posted = [e] → e.place.here = false → ∃ t, exec (.hcmdAbt n w) s = .next t ∧
          t.core = { c with posted := [], fstat := fstatFail c.fstat 4 e.place.pkg } ∧ t.mem = s.mem ∧ ∀ r ∈ t.reqs, r.tag ≠ e.tag))) ∧
  (∀ (s : State) (n : Nat) (w : W64), bf s.bootst 0 4 = 1 →
      let fails := Config.hostFails s.tick
      let a := (s.ctx n).rbaddr.toNat
      let y (c : Machine.Core) : Nat := pcYard c.pcid
      let status (t : State) (k : Nat) : Prop := (t.ctx n).rbstat = w64 (bf w 16 16 * 2 ^ 16 + k)
      (s.rbTarget n w = none →
        (bf w 0 2 = 0 → ∃ t, exec (.readbackCoreImage n w) s = .next t ∧ status t 2 ∧ t.hostMem = s.hostMem) ∧
        (bf w 0 2 = 1 → ∃ t, exec (.readbackRaceArray n w) s = .next t ∧ status t 2 ∧ t.hostMem = s.hostMem) ∧
        (bf w 0 2 = 2 → ∃ t, exec (.readbackTellerFlush n w) s = .next t ∧ status t 2 ∧ t.hostMem = s.hostMem)) ∧
      (∀ c, s.rbTarget n w = some c →
        (bf w 0 2 = 0 → c.st = .running ∨ c.st = .waiting → ∃ t, exec (.readbackCoreImage n w) s = .next t ∧ status t 1 ∧ t.hostMem = s.hostMem) ∧
        (bf w 0 2 = 0 → c.st ≠ .running → c.st ≠ .waiting → c.st ≠ .saved → ∃ t, exec (.readbackCoreImage n w) s = .next t ∧ status t (if fails then 3 else 0) ∧
          t.core = s.core ∧ t.peers = s.peers ∧ t.mem = s.mem ∧ (fails = true → t.hostMem = s.hostMem) ∧
          (fails = false → Memory.num t.hostMem (a + 8) 8 = c.pc.toNat ∧
            ∀ x, x < a ∨ a + 0x60000 ≤ x → (∀ e ∈ c.lmem, e.1 < 0x40000) → (∀ e ∈ c.tiles, e.1 < 16384) → c.slots.length = 4 → Memory.get t.hostMem x = Memory.get s.hostMem x)) ∧
        (bf w 0 2 = 0 → c.st = .saved → s.coreImage n c = none → ∃ t, exec (.readbackCoreImage n w) s = .next t ∧ status t 2 ∧ t.hostMem = s.hostMem) ∧
        (bf w 0 2 = 1 → s.raceBusy (s.yard (y c)).race = true → ∃ t, exec (.readbackRaceArray n w) s = .next t ∧ status t 1 ∧ t.hostMem = s.hostMem) ∧
        (bf w 0 2 = 1 → s.raceBusy (s.yard (y c)).race = false → ∃ t, exec (.readbackRaceArray n w) s = .next t ∧ status t (if fails then 3 else 0) ∧
          t.core = s.core ∧ t.peers = s.peers ∧ t.mem = s.mem ∧ (fails = true → t.hostMem = s.hostMem) ∧
          (fails = false →
            (∀ i, i < 4096 → Memory.num t.hostMem (a + 0x28000 + 2 * i) 2 = tget 0xFFF i (s.yard (y c)).race.seeds % 65536) ∧
            ∀ i, i < 4096 → Memory.num t.hostMem (a + 0x2A000 + 2 * i) 2 = tget 0xFFF i (s.yard (y c)).race.capts % 65536)) ∧
        (bf w 0 2 = 2 → ∃ t, exec (.readbackTellerFlush n w) s = .next t ∧ status t 0 ∧ (t.yard (y c)).teller.slots = []))) ∧
  (∀ (s : State) (q l k : Nat),
      (s.isCur q l = true → s.core.st = .running → s.core.shadow = none → gangRole s.core.gangst = 0 → Safety.settled s = true → s.saveable = true →
        (s.launchOf s.core).isSome = true → (s.queue q).active = false →
        let base := s.recBase s.core
        ∀ s1 s2 s3, s.savePage base 0 s.record = .ok s1 → s1.savePage base 1 s.record = .ok s2 → s2.savePage base 2 s.record = .ok s3 →
          ∃ t, exec (.preemptionSave q l) s = .next t ∧ t.mem = s3.mem ∧ t.hostMem = s3.hostMem ∧
            ∃ c ∈ t.peers, c.st = .saved ∧ c.queue = q ∧ c.lcn.toNat = l ∧ c.pc = s.core.pc ∧ c.s = s.core.s ∧ c.p = s.core.p ∧ c.k = s.core.k) ∧
      (∀ i c d, s.find q l = some i → s.peers[i]? = some c → c.st = .saved → c.saveTrapped = false → s.mayRestore q l k = true → s.busyCore k = false →
        s.restored c = some d → d.saveTrapped = false → ∃ t, exec (.restoration q l k) s = .next t ∧
          ∃ e ∈ t.core :: t.peers, e.pcid = k ∧ e.st = (if d.saveArrived then .waiting else .running) ∧ e.pc = d.pc ∧ e.s = d.s ∧ e.p = d.p ∧ e.k = d.k ∧
            e.lmem = d.lmem) ∧
      (s.mayRestore q l k = false → exec (.restoration q l k) s = .next s))

/-- R4, R237, R397 to R400, R403, R406 to R413: the management space through MCTP and BAR 2, the notify region through BAR 0, freeze and capture,
attestation, recovery, power control, cooling, reset and boot, soft errors and the scrubber, and the host's accesses to device memory.
Reads and writes of memory that is not populated, BAR numbers, the extent of the space, and what the host's memory refuses are the model's choices (log
entries 21, 25, 98, 100). -/
def Obligations.Management : Prop :=
  ∀ (s : State) (iid : Byte) (off : Nat) (w : W64),
    let resp (cmd st : Byte) (data : List Byte) : Out1 :=
      .mctp ([0x7E#8, (Config.vendorId >>> 8).setWidth 8, Config.vendorId.setWidth 8, cmd ||| 0x80#8, iid, st] ++ data)
    let only (t : State) (o : Out1) : Prop := t.outbox = s.outbox ++ [o] ∧ t.core = s.core ∧ t.peers = s.peers ∧ t.mem = s.mem
    let bytes (v : W64) : List Byte := (List.range 8).map fun i => v.extractLsb' (8 * i) 8
    let kmax (t : State) : Nat := bf t.rampcfg 16 10
    let u := s.settleRamp
    let rd8 (o : Nat) : Instr := .mctpRead8 ⟨1, iid⟩ (toBytes 4 o)
    let wr8 (o : Nat) : Instr := .mctpWrite8 ⟨2, iid⟩ (toBytes 4 o) (toBytes 8 w.toNat)
    let frz (addr len : Nat) : Instr := .freeze ⟨3, iid⟩ (toBytes 8 addr) (toBytes 8 len)
    let tells (i : Instr) (o : Out1) : Prop := ∃ t, exec i s = .next t ∧ only t o
    (∀ (cmd : Byte) a b, cmd = 0 ∨ 4 < cmd → tells (.mctpRead8 ⟨cmd, iid⟩ a) (resp cmd 1 []) ∧ tells (.mctpWrite8 ⟨cmd, iid⟩ a b) (resp cmd 1 []) ∧
      tells (.freeze ⟨cmd, iid⟩ a b) (resp cmd 1 []) ∧ tells (.attest ⟨cmd, iid⟩ a) (resp cmd 1 [])) ∧
    (∀ a b : List Byte, (a.length ≠ 4 → tells (.mctpRead8 ⟨1, iid⟩ a) (resp 1 2 [])) ∧
      (a.length + b.length ≠ 12 → tells (.mctpWrite8 ⟨2, iid⟩ a b) (resp 2 2 [])) ∧ (a.length + b.length ≠ 16 → tells (.freeze ⟨3, iid⟩ a b) (resp 3 2 [])) ∧
      (a.length ≠ 32 → tells (.attest ⟨4, iid⟩ a) (resp 4 2 []))) ∧
    (off < 2 ^ 32 → off % 8 ≠ 0 ∨ (0x2800 ≤ off ∧ (off < 0x100000 ∨ 0x1100000 ≤ off)) → tells (rd8 off) (resp 1 3 []) ∧ tells (wr8 off) (resp 2 3 [])) ∧
    (s.recovering = false →
      (∀ o v, (o, v) ∈ [(0x00, s.bootst), (0x08, s.pwrcap), (0x10, s.pwrnow), (0x18, s.rampcfg), (0x20, u.ramptel), (0x28, s.coolst), (0x30, 0), (0x1018, 0),
          (0x1000, (s.die 0).eccnt), (0x1708, (s.die 7).migdrop), (0x1310, (s.die 3).rtrerr), (0x27F8, (s.lane 255).stat)] →
        ∃ t, exec (rd8 o) s = .next t ∧ only t (resp 1 0 (bytes v)) ∧ t.pwrnow = if o = 0x10 then s.pwrnow &&& 0xFFFF else s.pwrnow) ∧
      (∃ t, exec (wr8 8) s = .next t ∧ only t (resp 2 0 []) ∧ t.pwrcap = w &&& 0xFFFF) ∧
      (∃ t, exec (wr8 0x18) s = .next t ∧ only t (resp 2 0 []) ∧ bf t.rampcfg 0 10 = bf w 0 10 ∧ kmax t = kmax s ∧
        t.ramptel = if bit w 10 then 0 else u.ramptel) ∧
      (∀ addr len, addr < 2 ^ 64 → len < 2 ^ 64 →
        (len < s.capture.2 → ∃ t, exec (frz addr len) s = .next t ∧ only t (resp 3 5 []) ∧ t.frozen = s.frozen) ∧
        (s.capture.2 ≤ len → ∃ t, exec (frz addr len) s = .next t ∧ t.frozen = true ∧
          only t (if Config.hostFails s.tick then resp 3 6 [] else resp 3 0 (toBytes 8 s.capture.2)))) ∧
      (∀ nonce, nonce.length = 32 → ∃ t r, exec (.attest ⟨4, iid⟩ nonce) s = .next t ∧ only t (resp 4 0 r) ∧ r.length = 17232 ∧ r.take 32 = nonce) ∧
      exec .bootstLoad s = .next s ∧ exec .ramptelClear s = .next { u with ramptel := 0 } ∧
      exec .pwrnowRead s = .next { s with pwrnow := s.pwrnow &&& 0xFFFF } ∧
      (∀ side pos, side < 4 → pos < 64 → ∃ t, exec (.lnkstatClear side pos) s = .next t ∧
        (∀ i, (t.lane (64 * side + pos)).stat.getLsbD i = (decide (i < 8 ∧ i ≠ 4) && (s.lane (64 * side + pos)).stat.getLsbD i)) ∧
        t.core = s.core ∧ t.mem = s.mem) ∧
      (s.powered = true → ∃ t, exec (.registerWrite 2 8 (some w)) s = .next t ∧ t.pwrcap = w &&& 0xFFFF ∧ t.core = s.core ∧ t.mem = s.mem) ∧
      (s.powered = true → ∃ t, exec (.registerWrite 2 8 none) s = .next t ∧ only t (.hostData 0 (bytes s.pwrcap)) ∧ t.pwrcap = s.pwrcap)) ∧
    (s.recovering = true →
      (∀ o ∈ [0x08, 0x10, 0x18, 0x20, 0x1000, 0x2000], tells (rd8 o) (resp 1 4 []) ∧ tells (wr8 o) (resp 2 4 [])) ∧
      tells (rd8 0) (resp 1 0 (bytes s.bootst)) ∧ tells (frz off off) (resp 3 4 []) ∧
      (∀ nonce, nonce.length = 32 → tells (.attest ⟨4, iid⟩ nonce) (resp 4 4 [])) ∧
      exec .ramptelClear s = .next s ∧ exec .pwrnowRead s = .next s ∧ (∀ side pos, exec (.lnkstatClear side pos) s = .next s) ∧
      (let img := (List.range (16 * 2 ^ 20)).map fun i => Memory.get s.recWin i
       ∃ t, exec .bootstLoad s = .next t ∧ t.core = s.core ∧ t.mem = s.mem ∧
        (Config.rsaOk img = true → Config.slhOk img = true → bf t.bootst 0 4 = 5 ∨ (bf t.bootst 0 4 = 1 ∧ t.image = img ∧ t.prevInc = some t.inc ∧
          t.inc = (match s.prevInc with | some i => i + 1#4 | none => 0#4) ∧ ∀ k, k < 256 → bf (t.lane k).stat 0 2 = 1)) ∧
        (Config.rsaOk img = false → bf t.bootst 0 4 = if Config.slhOk img then 2 else 4) ∧
        (Config.rsaOk img = true → Config.slhOk img = false → bf t.bootst 0 4 = 3))) ∧
    (∀ q, q < 1024 → s.powered = true →
      (bf s.bootst 0 4 = 1 →
        exec (.registerWrite 0 (q * 4096 + 0x10) (some w)) s = exec (.queueNotify q (w.toNat % 65536)) s ∧
        (∃ t, exec (.registerWrite 0 (q * 4096 + 0x18) none) s = .next t ∧ only t (.hostData 0 (bytes (BitVec.ofNat 64 (s.queue q).qhead))) ∧ t.queues = s.queues) ∧
        ∃ t, exec (.registerWrite 4 ((1024 + q % 256) * 4096 + 0x28) none) s = .next t ∧ only t (.hostData 1 (bytes 0)) ∧ t.ctxs = s.ctxs) ∧
      (bf s.bootst 0 4 ≠ 1 → exec (.registerWrite 0 off (some w)) s = .next s ∧ exec (.registerWrite 4 off none) s = .next s ∧
        exec (.queueNotify q off) s = .next s)) ∧
    (∀ avg peak : BitVec 16, ∃ t, exec (.powerControlTick avg peak) s = .next t ∧ bf t.pwrnow 0 16 = avg.toNat ∧
      bf t.pwrnow 16 16 = max (bf s.pwrnow 16 16) peak.toNat ∧ t.core = s.core ∧
      let c := bf u.capNow 0 16
      let cap := if c = 0 ∨ 3600 < c then 3600 else if c < 1200 then 1200 else c
      kmax t = (if bit s.coolst 16 then 64 else if cap < avg.toNat then max 64 (kmax s - 64) else if avg.toNat + 100 < cap then min 800 (kmax s + 64)
        else kmax s)) ∧
    (∀ temp flow : Byte,
      let hot : Prop := 45 < temp.toNat ∨ (bit s.coolst 16 = true ∧ 43 ≤ temp.toNat)
      ∀ i ∈ [Instr.coolantHot temp flow, .coolantRecover temp flow], ∃ t, exec i s = .next t ∧ (bit t.coolst 16 = true ↔ hot) ∧ bf t.coolst 0 8 = temp.toNat ∧
        bf t.coolst 8 8 = flow.toNat ∧ (hot → kmax t = 64) ∧ (¬ hot → t.rampcfg = s.rampcfg) ∧ t.core = s.core ∧ t.mem = s.mem) ∧
    (∀ image train gd cx, ∃ t, exec (.resetBoot image train gd cx w) s = .next t ∧ t.core = Machine.Core.reset ∧ t.peers = [] ∧ t.mem = [] ∧ t.ctxs = [] ∧
      t.powered = true ∧ t.frozen = false ∧
      (Config.rsaOk image = true → Config.slhOk image = true → train = true → bf t.bootst 0 4 = 1 ∧ bf t.bootst 16 16 = cx % 65536 ∧
        bf t.bootst 32 32 = gd % 2 ^ 32 ∧ t.cyc = w ∧ t.inc = (match s.prevInc with | some i => i + 1#4 | none => 0#4) ∧ t.prevInc = some t.inc ∧
        ∀ k, k < 256 → bf (t.lane k).stat 0 2 = 1) ∧
      (Config.rsaOk image = true → Config.slhOk image = true → train = false → bf t.bootst 0 4 = 5) ∧
      (Config.rsaOk image = false → bf t.bootst 0 4 = if Config.slhOk image then 2 else 4) ∧
      (Config.rsaOk image = true → Config.slhOk image = false → bf t.bootst 0 4 = 3)) ∧
    (∃ t, exec .powerDown s = .next t ∧ t.powered = false ∧ t.prevInc = none ∧ t.core = Machine.Core.reset ∧ t.mem = [] ∧ step { t with sched := [] } = .fault .poweredOff) ∧
    (∀ src pa, src = 2 ∨ src = 3 →
      let e := ErrLoc.mem src (pa / 8 * 8)
      let d := paDie (pa / 8 * 8)
      let who : ErrRead := if src = 3 then .gddr else .die
      let counts (err lo n : Nat) (bad' : List ErrLoc) : Prop := ∃ t, exec (.patrolScrub d who (.mem src pa) err) s = .next t ∧ t.core = s.core ∧
        t.peers = s.peers ∧ t.mem = s.mem ∧ t.bad = bad' ∧ e ∉ t.soft ∧ bf (t.die d).eccnt lo n = min (2 ^ n - 1) (bf (s.die d).eccnt lo n + 1)
      (e ∉ s.bad → e ∉ s.soft → exec (.patrolScrub d who (.mem src pa) 0) s = .next s) ∧
      (e ∉ s.bad → s.soft = [] → counts 1 (if src = 3 then 16 else 32) 16 s.bad) ∧
      (e ∉ s.bad → s.soft = [] → counts 2 0 8 (s.bad ++ [e])) ∧ (e ∈ s.bad → s.soft = [] → counts 0 0 8 s.bad)) ∧
    (∀ link addr len data, s.populated (addr / 2 ^ 17) = true →
      exec (.hostDeviceMemoryAccess link .write addr len data) s = .next { s with mem := Memory.write s.mem addr data } ∧
      (s.bad = [] → s.soft = [] → tells (.hostDeviceMemoryAccess link .read addr len data) (.hostData link (Memory.read s.mem addr len)))) ∧
    (∀ link addr len data, s.populated (addr / 2 ^ 17) = false →
      exec (.hostDeviceMemoryAccess link .write addr len data) s = .next s ∧
      tells (.hostDeviceMemoryAccess link .read addr len data) (.hostData link (List.replicate len 0))) ∧
    (∀ link op addr x y, op ≤ 2 → addr % 8 = 0 → s.populated (addr / 2 ^ 17) = true → s.bad = [] → s.soft = [] → (s.yard (paTeller addr)).teller = Teller.reset →
      ∃ t, exec (.hostDeviceMemoryAccess link (.atomic op x y) addr 8 []) s = .next t ∧
        let m := w64 (Memory.num s.mem addr 8)
        t.outbox = s.outbox ++ [.hostData link (bytes m)] ∧ t.core = s.core ∧
        t.mem = Memory.write s.mem addr (bytes (if op = 0 then m + x else if op = 1 then x else if m = y then x else m)))

/-- R81, R82, R84, R85: a lane that is down trains, and training brings it up or, where the lanes are permuted in another way, fails it; one that does
not come up in time has failed, and one that goes down counts it. A good frame on a lane that is up arrives at the lane's router, one that cannot be
corrected counts a replay at this end, and frames that the other end asks for again go out from the replay buffer. A flit that a link within the module has damaged is
dropped and counted. A flit for its router is ejected there; one whose productive port is +X goes to the next router in X with one more hop.
The lane's router and its in-ports, and the bits under the CRC-32, are the model's reading (log entries 16, 76). -/
def Obligations.Links : Prop :=
  (∀ (s : State) (side pos sym again : Nat) (pol : Bool) (rev : Option Bool) (f : LinkFrame), side < 4 → pos < 64 →
      let n := 64 * side + pos
      let trn (t : State) : Nat := bf (t.lane n).stat 0 2
      let rx := if side = 0 then 63 else if side = 1 then 0 else pos
      let ry := if side = 2 then 63 else if side = 3 then 0 else pos
      let rest (t : State) : Prop := t.core = s.core ∧ t.peers = s.peers ∧ t.mem = s.mem ∧ ∀ m, m ≠ n → t.lane m = s.lane m
      (trn s = 0 → ∃ t, exec (.laneTraining side pos pol rev) s = .next t ∧ trn t = 1 ∧ rest t) ∧
      (trn s = 1 → ∃ t, exec (.laneTraining side pos pol rev) s = .next t ∧ rest t ∧ trn t = (if rev = none then 3 else 2) ∧
        (∀ b, rev = some b → bit (t.lane n).stat 2 = b ∧ bit (t.lane n).stat 3 = pol)) ∧
      (trn s < 2 → ∃ t, exec (.laneTrainingTimeout side pos) s = .next t ∧ trn t = 3 ∧ rest t) ∧
      (2 ≤ trn s → exec (.laneTraining side pos pol rev) s = .next s ∧ exec (.laneTrainingTimeout side pos) s = .next s) ∧
      (trn s = 2 → ∃ t, exec (.laneDown side pos) s = .next t ∧ trn t = 0 ∧ bf (t.lane n).stat 16 16 = min 65535 (bf (s.lane n).stat 16 16 + 1) ∧ rest t) ∧
      (trn s = 2 → ∃ t, exec (.edgeFrameReceive side pos sym again f) s = .next t ∧ rest t ∧
        t.outbox = s.outbox ++ (((s.lane n).replay.take again).reverse.map fun g => Out1.edge side pos g (flitCrc g))) ∧
      (trn s = 2 → sym ≤ 1 → f.crc = flitCrc f.flit → ∃ t, exec (.edgeFrameReceive side pos sym again f) s = .next t ∧
        (t.router rx ry).arr = (s.router rx ry).arr ++ [(if side % 2 = 0 then side + 1 else side - 1, f.flit)] ∧
        bf (t.lane n).stat 48 16 = (if sym = 1 then min 65535 (bf (s.lane n).stat 48 16 + 1) else bf (s.lane n).stat 48 16)) ∧
      (trn s = 2 → 1 < sym ∨ f.crc ≠ flitCrc f.flit → ∃ t, exec (.edgeFrameReceive side pos sym again f) s = .next t ∧ t.routers = s.routers ∧
        bf (t.lane n).stat 32 16 = min 65535 (bf (s.lane n).stat 32 16 + 1))) ∧
  (∀ (s : State) (rx ry d : Nat) (lost : List Nat) (f : Flit), rx < 64 → ry < 64 → s.queues = [] → s.router rx ry = ⟨[(d, f)], [[], [], [], []], 3, [], 0⟩ →
      (d ∈ lost → 0 < rx → rx < 63 → 0 < ry → ry < 63 → ∃ t, exec (.routerCycle (rx, ry) lost) s = .next t ∧ (t.router rx ry).arr = [] ∧
        (t.router rx ry).eject = [] ∧ t.core = s.core ∧ t.outbox = s.outbox ∧
        let die := 2 * (ry / 16) + rx / 32
        bf (t.die die).rtrerr 32 16 = min 65535 (bf (s.die die).rtrerr 32 16 + 1)) ∧
      (d ∉ lost → crcOk f = true → f.kind.toNat < 13 → (s.module (flitPkg f)).2 = false →
      (f.dx = myX rx → f.dy = myY ry → ∃ t, exec (.routerCycle (rx, ry) lost) s = .next t ∧ (t.router rx ry).eject = [f] ∧ (t.router rx ry).arr = [] ∧
        t.core = s.core ∧ t.outbox = s.outbox) ∧
      (f.dy = myY ry → rx < 63 → 0 < ringPos torusW (myX rx) f.dx → ringPos torusW (myX rx) f.dx ≤ ringNeg torusW (myX rx) f.dx →
        ∃ t, exec (.routerCycle (rx, ry) lost) s = .next t ∧ (t.router rx ry).arr = [] ∧ t.core = s.core ∧ t.outbox = s.outbox ∧
          (t.router (rx + 1) ry).arr = (s.router (rx + 1) ry).arr ++ [(0, { f with age := min (f.age + 1) 4095 })])))

/-- R77, R86, R194, R198, R220, R242, R252, R348, R427: a request that carries another incarnation than this module's is answered by a NACK of code 7, one
for module memory that is not populated by code 8, and nothing else happens. Else a read is answered with the bytes, a word or a line of 64, a write is
performed and acknowledged, an atomic joins its teller's fabric port, or is performed on host memory, a message is accepted or refused, an event is latched.
Copy data writes the bytes that its mask enables, fills the word and is acknowledged; a completion flag writes and fills its word; of another incarnation both
are answered by a NACK and do nothing.
The payloads of flits, what REDGET's reply holds and the spaces of a request are the model's choices (log entries 16, 39, 56). -/
def Obligations.RequestFlits : Prop :=
  (∀ (s : State) (r : FabricReq) (data : List Byte) (full : Bool) (op : Nat) (x y : W64) (org : BitVec 58) (mt : BitVec 16) (from' : BitVec 26),
      let resp (t : State) (kind : Nat) (ws : List W64) : Prop := t.outbox = s.outbox ++ [.reply r.src r.srcInc r.tag kind ws]
      let still (t : State) : Prop := t.core = s.core ∧ t.peers = s.peers ∧ t.mem = s.mem ∧ t.hostMem = s.hostMem
      let room : Prop := ∀ n, ((s.yard n).teller.ports.getD 2 []).length < 32
      let sound : Prop := s.bad = [] ∧ s.soft = []
      let words (m : Memory) (ws : List W64) : Prop := (0 < r.size → r.size ≤ 8 → ws = [w64 (Memory.num m r.addr r.size)]) ∧
        (r.size = 64 → ws = (List.range 8).map fun i => w64 (Memory.num m (r.addr + 8 * i) 8))
      let nacks (code : W64) : Prop :=
        (∃ t, exec (.readRequestFlit r) s = .next t ∧ resp t 6 [code] ∧ still t) ∧ (∃ t, exec (.writeRequestFlit r data full) s = .next t ∧ resp t 6 [code] ∧ still t) ∧
        (room → ∃ t, exec (.atomicRequestFlit r op x y org) s = .next t ∧ resp t 6 [code] ∧ still t ∧ t.yards = s.yards)
      (r.inc ≠ s.inc → nacks 7 ∧ ∃ t, exec (.messageFlit r mt from' x y) s = .next t ∧ resp t 6 [7] ∧ still t) ∧
      (r.inc = s.inc → r.space = 0 → s.populated (r.addr / 2 ^ 17) = false → nacks 8) ∧
      (r.inc = s.inc → r.space = 0 → s.populated (r.addr / 2 ^ 17) = true →
        (sound → ∃ t ws, exec (.readRequestFlit r) s = .next t ∧ resp t 3 ws ∧ still t ∧ words s.mem ws) ∧
        (∃ t, exec (.writeRequestFlit r data full) s = .next t ∧ resp t 4 [0] ∧ t.core = s.core ∧ t.peers = s.peers ∧
          t.mem = Memory.write s.mem r.addr data) ∧
        (let n := 32 * (r.addr / 2 ^ 12 % 8) + r.addr / 2 ^ 15 % 32
         (s.yard n).teller.ports.length = 4 → ((s.yard n).teller.ports.getD 2 []).length < 32 → sound →
          ∃ t, exec (.atomicRequestFlit r op x y org) s = .next t ∧ still t ∧ t.outbox = s.outbox ∧
            (t.yard n).teller.ports.getD 2 [] = (s.yard n).teller.ports.getD 2 [] ++ [⟨op, .mem r.addr, x, y, org, r.src, r.srcInc, r.tag, false⟩])) ∧
      (r.inc = s.inc → r.space = 3 →
        (∃ t ws, exec (.readRequestFlit r) s = .next t ∧ resp t 3 ws ∧ still t ∧ words s.hostMem ws) ∧
        (∃ t, exec (.writeRequestFlit r data full) s = .next t ∧ resp t 4 [0] ∧ t.core = s.core ∧ t.mem = s.mem ∧ t.hostMem = Memory.write s.hostMem r.addr data) ∧
        (op ≤ 2 → room → ∃ t, exec (.atomicRequestFlit r op x y org) s = .next t ∧
          let m := w64 (Memory.num s.hostMem r.addr 8)
          resp t 5 [m, 0] ∧ t.core = s.core ∧ t.mem = s.mem ∧ t.hostMem = Memory.write s.hostMem r.addr
            (toBytes 8 (if op = 0 then m + x else if op = 1 then x else if m = y then x else m).toNat))) ∧
      (r.inc = s.inc → s.core.present = true → s.core.st ≠ .saved → s.core.lcn.toNat = r.addr / 2 ^ 18 → s.core.pcid % 2 ^ 14 = r.core % 2 ^ 14 →
        let off := r.addr % 2 ^ 18
        (r.space = 1 → s.core.deque = [] → s.core.stash = [] → data.length = 8 → off % 8 = 0 → off + 8 ≤ s.core.lmin →
          ∃ t, exec (.writeRequestFlit r data full) s = .next t ∧ resp t 4 [0] ∧ t.mem = s.mem ∧ t.core.locRead off 8 = data ∧
            (full = true → t.core.fe off = true) ∧ ∀ o, o < off ∨ off + 8 ≤ o → t.core.locByte o = s.core.locByte o) ∧
        (r.space = 1 →
          (∀ c, s.core.accept ⟨x, y, from'.toNat, mt.toNat, none⟩ = some c → ∃ t, exec (.messageFlit r mt from' x y) s = .next t ∧ resp t 4 [0] ∧ t.core = c) ∧
          (s.core.accept ⟨x, y, from'.toNat, mt.toNat, none⟩ = none → ∃ t, exec (.messageFlit r mt from' x y) s = .next t ∧ resp t 4 [1] ∧ still t)) ∧
        (r.space = 2 → ∃ t, exec (.messageFlit r mt from' x y) s = .next t ∧ resp t 4 [0] ∧ t.mem = s.mem ∧
          t.core = { s.core with evlatch := s.core.evlatch ||| (1#64 <<< (x.toNat % 16)) }))) ∧
  (∀ (s : State) (f : FlitHead) (core addr : Nat) (w : W64) (mask : Byte),
      let resp (kind : Nat) (a : W64) : List Out1 := [.reply f.src f.srcInc f.tag kind [a]]
      (f.inc ≠ s.inc →
        (∃ t, exec (.copyDataFlit f core addr w mask) s = .next t ∧ t.outbox = s.outbox ++ resp 6 7 ∧ t.core = s.core ∧ t.peers = s.peers ∧ t.mem = s.mem) ∧
        ∃ t, exec (.remoteCompletionFlag f core addr w) s = .next t ∧ t.outbox = s.outbox ++ resp 6 7 ∧ t.core = s.core ∧ t.peers = s.peers ∧ t.mem = s.mem) ∧
      (f.inc = s.inc → s.core.present = true → s.core.st ≠ .saved → s.core.lcn.toNat = addr / 2 ^ 18 → s.core.pcid % 2 ^ 14 = core % 2 ^ 14 →
        s.core.deque = [] → s.core.stash = [] →
        let off := addr % 2 ^ 18
        off % 8 = 0 → off + 8 ≤ s.core.lmin →
        let fills (i : Instr) (m : Byte) (out : List Out1) : Prop := ∃ t, exec i s = .next t ∧ t.outbox = s.outbox ++ out ∧ t.core.fe off = true ∧
          t.mem = s.mem ∧ t.core.s = s.core.s ∧
          (∀ k, k < 8 → t.core.locByte (off + k) = if m.getLsbD k then w.extractLsb' (8 * k) 8 else s.core.locByte (off + k)) ∧
          ∀ o, o < off ∨ off + 8 ≤ o → t.core.locByte o = s.core.locByte o
        fills (.copyDataFlit f core addr w mask) mask (resp 4 0) ∧ fills (.remoteCompletionFlag f core addr w) 0xFF []))

/-- R86 to R88, R206, R219, R229, R233, R238, R240, R362, R403: the answer to a request of this module, when it carries its incarnation, ends the request: a
load or atomic has its reply, which the waiting instruction lands when it is tried again, with the bytes that the core's own stores had in flight, and of which
a line is held; a posted store is performed, a NACK refuses a load or fails a posted store, in FSTAT, as do a host link error and the target's being marked
down. A time beacon sets CYC; the table of modules follows the host's marks.
The payloads of flits are the model's choice (log entry 16). -/
def Obligations.AnswerFlits : Prop :=
  (∀ (s : State) (inc : BitVec 4) (tag : BitVec 12) (ws : List W64) (w v : W64) (code : BitVec 4),
      let answers : List Instr := [.readReplyFlit inc tag ws, .writeAckFlit inc tag w, .atomicReplyFlit inc tag w v, .nackFlit inc tag code]
      let rsn (pkg : Nat) : Nat := if code = 8#4 then 5 else if (s.module pkg).2 then 2 else 1
      let failed (f : W64) (rsn pkg : Nat) : W64 := let n := min 65535 (bf f 32 16 + 1)
        if bit f 63 then (f &&& 0xFFFF000000000000) ||| w64 (n * 2 ^ 32) else w64 (2 ^ 63 + rsn * 2 ^ 60 + pkg % 4096 * 2 ^ 48 + n * 2 ^ 32)
      (inc ≠ s.inc → ∀ i ∈ answers, ∃ t, exec i s = .next t ∧ t.core = s.core ∧ t.peers = s.peers ∧ t.reqs = s.reqs ∧ t.mem = s.mem) ∧
      (∀ r f, inc = s.inc → s.reqs.find? (·.tag == tag.toNat) = some r → s.isCur r.q r.l = true → r.use = .load → s.core.far = some f → f.tag = r.tag →
        let gives (i : Instr) (g : Far) : Prop := ∃ t, exec i s = .next t ∧ t.core = { s.core with far := some g } ∧ t.reqs = s.reqs.erase r ∧ t.mem = s.mem
        gives (.readReplyFlit inc tag ws) { f with reply := some ws } ∧ gives (.writeAckFlit inc tag w) { f with reply := some [w] } ∧
        gives (.atomicReplyFlit inc tag w v) { f with reply := some [w, v] } ∧ gives (.nackFlit inc tag code) { f with nack := some code.toNat }) ∧
      (∀ r, inc = s.inc → s.reqs.find? (·.tag == tag.toNat) = some r → s.isCur r.q r.l = true → r.use = .posted →
        let rest := s.core.posted.filter fun e => e.tag != r.tag
        let gone (t : State) : Prop := t.core.posted = rest ∧ (∀ x ∈ t.core.l1, x ∈ s.core.l1) ∧ t.reqs = s.reqs.erase r ∧ t.mem = s.mem ∧
          t.core.far.map (fun f => { f with stale := false }) = s.core.far.map (fun f => { f with stale := false }) ∧
          ∀ e, s.core.posted.find? (·.tag == r.tag) = some e →
            ∀ x ∈ t.core.l1, x.space = (e.place.key.1, e.place.key.2.1) → x.pa + 64 ≤ e.place.key.2.2 ∨ e.place.key.2.2 + e.bytes.length ≤ x.pa
        let same (t : State) : Prop := { t.core with posted := s.core.posted, l1 := s.core.l1, far := s.core.far, fstat := s.core.fstat } = s.core
        let acks (i : Instr) : Prop := ∃ t, exec i s = .next t ∧ gone t ∧ same t ∧ t.core.fstat = s.core.fstat
        acks (.readReplyFlit inc tag ws) ∧ acks (.writeAckFlit inc tag w) ∧ acks (.atomicReplyFlit inc tag w v) ∧
        ((∃ e ∈ s.core.posted, e.tag = r.tag) → s.find r.q r.l = none → ∃ t, exec (.nackFlit inc tag code) s = .next t ∧ gone t ∧ same t ∧
          t.core.fstat = failed s.core.fstat (rsn r.place.peerKey.1) r.place.pkg)) ∧
      (∀ e pkg, pkg ≠ Config.pkgX → s.core.posted = [e] → e.place.here = false → e.place.peerKey.1 = pkg →
        ∃ t, exec (.moduleMarkedDown pkg) s = .next t ∧ t.core.posted = [] ∧ t.core.fstat = failed s.core.fstat 2 e.place.pkg ∧ t.core.s = s.core.s ∧
          ∀ r ∈ t.reqs, r.use = .posted → r.place.peerKey.1 ≠ pkg) ∧
      (∀ q l i k e, s.isCur q l = true → s.core.posted[i]? = some e →
        ((∃ a m, e.place = .host a m k) ∨ (∃ p j a m, e.place = .far p j a true m) → ∃ t, exec (.hostLinkError q l ⟨i, k⟩) s = .next t ∧
          t.core = { s.core with posted := s.core.posted.eraseIdx i, fstat := failed s.core.fstat 3 Config.pkgX }) ∧
        ((∃ a m n, e.place = .host a m n ∧ n ≠ k) ∨ (∃ a m, e.place = .mem a m) → exec (.hostLinkError q l ⟨i, k⟩) s = .next s))) ∧
  (∀ (s : State) (d a : SReg) (o : BitVec 9) (l : BitVec 4) (f : Far), Safety.plain s [d, a] = true → s.core.far = some f →
      let va := s.rd a + o.signExtend 64 * 8#64
      f.va = va.toNat → va.toNat % 8 = 0 →
      (∀ ws, f.reply = some ws → f.nack = none → f.own = [] → f.line = false → f.key.1 ≠ 6 → exec (.ldd d a o l) s = .next (s.landL l [.s d (ws.headD 0)])) ∧
      (∀ ws w, f.reply = some ws → f.nack = none → f.own = (toBytes 8 w.toNat).map some → f.line = false → f.key.1 ≠ 6 →
        exec (.ldd d a o l) s = .next (s.landL l [.s d w])) ∧
      (∀ ws, f.reply = some ws → f.nack = none → f.own = [] → f.line = true → ws.length = 8 →
        let line := ws.flatMap fun w => toBytes 8 w.toNat
        exec (.ldd d a o l) s = .next ((if f.stale then s else s.setCore (·.l1Keep f.key line)).landL l [.s d (ws.getD (va.toNat / 8 % 8) 0)])) ∧
      (∀ k, f.nack = some k → exec (.ldd d a o l) s = .next (s.trapL l 0x04#8 (w64 (va.toNat % 2 ^ 56 + k * 2 ^ 56)))) ∧
      (f.reply = none → f.nack = none → exec (.ldd d a o l) s = .next (s.waitL l))) ∧
  (∀ (s : State) (w : W64) (pkg : Nat) (inc : BitVec 4),
      (∃ t, exec (.timeBeacon w) s = .next t ∧ t.cyc = w ∧ t.core = s.core ∧ t.mem = s.mem) ∧
      (pkg ≠ Config.pkgX →
        (∃ t, exec (.moduleMarkedDown pkg) s = .next t ∧ t.module pkg = ((s.module pkg).1, true) ∧ (∀ k, k ≠ pkg → t.module k = s.module k) ∧
          ((∀ e ∈ s.core.posted, e.place.here = true ∨ e.place.peerKey.1 ≠ pkg) → t.core = s.core)) ∧
        (∃ t, exec (.moduleRejoin pkg inc) s = .next t ∧ t.module pkg = (inc, false) ∧ (∀ k, k ≠ pkg → t.module k = s.module k) ∧ t.core = s.core)))

/-! ### Reset, steps, decoding, invariants -/

/-- The values that the spec gives for reset (R389 and the registers' own tables), and those of the arbiter, the tellers and the race arrays (R183, R221, R329).
No value that the model chose is among them. -/
def Obligations.ResetValues : Prop :=
  let s := State.reset
  s.core.st = .idle ∧ s.crRead 0x12 = 0 ∧ s.crRead 0x13 = 0 ∧ s.crRead 0x14 = 0 ∧ s.crRead 0x15 = 0 ∧ s.crRead 0x16 = 0 ∧ s.crRead 0x1B = 0 ∧
  s.crRead 0x1C = 0 ∧ s.crRead 0x1D = 0 ∧ s.crRead 0x1E = 0 ∧ s.crRead 0x0B = 0 ∧ s.crRead 0x20 = 0x31 ∧ s.crRead 0x21 = 0x5FF ∧
  s.crRead 0x24 = 0 ∧ s.crRead 0x25 = 0 ∧ s.crRead 0x28 = 4095 ∧ s.rd 0#5 = 0 ∧ s.rp 0#3 = true ∧
  (∀ n, (s.stable n).ptr = 3 ∧ (s.stable n).res = none ∧ (s.stable n).dfc = [0, 0, 0, 0]) ∧
  (∀ y, (s.yard y).race = ⟨none, none, [], [], []⟩ ∧ (s.yard y).teller.slots = []) ∧
  s.pwrcap = 0 ∧ s.pwrnow = 0 ∧ bf s.rampcfg 16 10 = 800 ∧ bf s.rampcfg 0 10 = 100 ∧ s.ramptel = 0 ∧ bf s.bootst 4 4 = 0xB

/-- A STEP RUNS THE DECODED INSTRUCTION (R112, R131, R164): when it is the core's turn and the word at its PC decodes to i, the step is i's meaning in
that state, with CYC moved on, the word and its object at hand, and the translation of its address in the TLBs.
That this core goes next, and by how much CYC moves, are the model's choices (log entries 1 and 4). -/
def Obligations.StepRunsDecoded : Prop :=
  ∀ (s : State) (w : W32) (o : CodeObj) (i : Instr), Safety.coreTurn s = true → Safety.straight s = true → s.wordAt = some (w, o) →
    decode w = .ok i →
    s.clock.core = s.core ∧ s.clock.mem = s.mem ∧ (∃ n, s.clock.cyc = s.cyc + 1#64 + n) ∧
    step s = exec i (Safety.atHand s w o) ∧
    { Safety.atHand s w o with yards := s.yards, core := { (Safety.atHand s w o).core with utlb := s.core.utlb } } =
      s.clock.setCore fun c => { c with obj := some o.id, latch := some w }

/-- R129, R131: a word that decoding refuses traps with CAUSE 0x01 and TVAL the word with the reason above it; a PC in no sealed object, or past the
bounds of its object, traps with CAUSE 0x03 and the PC; and so does the step that meets them.
That this core goes next is the model's choice (log entry 1). -/
def Obligations.IllegalAndFetch : Prop :=
  ∀ (s : State) (w : W32),
    let tv (r : Byte) : W64 := w64 (w.toNat + r.toNat * 2 ^ 32)
    (∀ r, decode w = .error r → exec (.illegalInstruction w) s = .next (s.trap 0x01#8 (tv r))) ∧
    (s.wordAt = none → exec .fetchFault s = .next (s.trap 0x03#8 s.core.pc)) ∧
    (Safety.coreTurn s = true → Safety.straight s = true →
      (∀ o r, s.wordAt = some (w, o) → decode w = .error r →
        step s = .next ((Safety.atHand s w o).trap 0x01#8 (tv r))) ∧
      (s.wordAt = none → step s = .next (s.clock.trap 0x03#8 s.core.pc)))

/-- R112 to R129: words written out from the encodings decode to what they stand for, and some that stand for nothing are refused with their reason. -/
def Obligations.DecodeWords : Prop :=
  decode 0x64A68022#32 = .ok (.ldw 5#5 6#5 2#9 2#4) ∧ decode 0x60642851#32 = .ok (.fmac 3#5 4#5 5#5 1#4) ∧
  decode 0x3085FFFD#32 = .ok (.beq 4#5 5#5 0xFFFD#16) ∧ decode 0x70642C00#32 = .ok (.amoadd 3#5 4#5 5#5 2#2 0#4) ∧
  decode 0x7C050000#32 = .ok (.bar 5#3) ∧ decode 0x80640000#32 = .ok (.cpy 3#5 1#3 0#4) ∧ decode 0x9108C600#32 = .ok (.vfma 4#4 2#4 3#4 0#3 0#4) ∧
  decode 0x9C020000#32 = .ok (.kdef 0#4 8#4 0#3 0#4) ∧ decode 0xA1000000#32 = .ok (.dext 4#4 0#4 0#3 0#4) ∧
  decode 0x00002810#32 = .ok (.brk 5#15) ∧ decode 0x58900003#32 = .ok (.rpt 2#4 1#2 0#2 0#2 3#16) ∧
  decode 0xBC000000#32 = .error 1#8 ∧ decode 0x00000001#32 = .error 4#8 ∧ decode 0x04000010#32 = .ok (.sub 0#5 0#5 0#5)

/-- ENCODING AND DECODING AGREE (R112 to R115): every well-formed instruction, with every operand at every value that its encoding admits, is what
its word decodes to. -/
def Obligations.DecodeEncode : Prop := ∀ i : Instr, isWord i = true → WellFormed i = true → decode (encode i) = .ok i

/-- Reset memory is in canonical form, in every memory of the module.
The form of memory is the model's (log entry 3). -/
def Obligations.ResetInvariant : Prop := Safety.memInv State.reset

/-- AN INVARIANT OF EVERY STEP: every memory of the module (its own, its host's, the local memory of every core) stays in canonical form, so that
equal memories are equal data.
The form of memory is the model's (log entry 3). -/
def Obligations.StepInvariant : Prop := ∀ s t : State, Safety.memInv s → step s = .next t → Safety.memInv t
end

