-- ==== Sys2Proof/Laws/Memory.lean ====
section
/-!
SUPPORT. The laws of byte memory: reading after writing, what a write leaves alone, and that every operation keeps the canonical form.
-/
namespace Sys2Proof.Machine

theorem Memory.get_insert (m : Memory) (a b : Nat) (x : Byte) (h : ∀ c ∈ m, c.1 ≠ a) :
    (m.insert a x).get b = if a = b then x else m.get b := by
  induction m with
  | nil => simp [Memory.insert, Memory.get]
  | cons c t ih =>
    obtain ⟨k, v⟩ := c
    have hk : k ≠ a := h (k, v) (by simp)
    have ht := ih fun c hc => h c (by simp [hc])
    simp only [Memory.insert]
    split
    · simp [Memory.get]
    · simp only [Memory.get, ht]
      split <;> split <;> simp_all

theorem Memory.get_drop (m : Memory) (a b : Nat) :
    Memory.get (m.filter fun c => c.1 != a) b = if a = b then memDefault else m.get b := by
  induction m with
  | nil => simp [Memory.get]
  | cons c t ih =>
    obtain ⟨k, v⟩ := c
    simp only [List.filter_cons]
    by_cases hk : k = a
    · subst hk
      simp only [bne_self_eq_false, Bool.false_eq_true, if_false, ih, Memory.get]
      split <;> simp_all
    · simp only [bne_iff_ne, ne_eq, hk, not_false_iff, if_true, Memory.get, ih]
      split <;> split <;> simp_all

/-- Reading after writing one byte. -/
@[simp] theorem Memory.get_put (m : Memory) (a b : Nat) (x : Byte) : (m.put a x).get b = if a = b then x else m.get b := by
  unfold Memory.put
  split
  · rw [Memory.get_drop]; simp_all
  · rw [Memory.get_insert _ _ _ _ (by simp), Memory.get_drop]
    split <;> simp_all

/-- Reading a byte after writing some. -/
theorem Memory.get_write (bs : List Byte) (m : Memory) (a b : Nat) :
    (m.write a bs).get b = if a ≤ b then (bs[b - a]?).getD (m.get b) else m.get b := by
  induction bs generalizing m a with
  | nil => simp [Memory.write]
  | cons x xs ih =>
    rw [Memory.write, ih, Memory.get_put]
    by_cases h : a = b
    · subst h; simp
    · by_cases h1 : a + 1 ≤ b
      · have h2 : a ≤ b := by omega
        have h3 : b - a = (b - (a + 1)) + 1 := by omega
        simp [h, h1, h2, h3]
      · have h2 : ¬ a ≤ b := by omega
        simp [h, h1, h2]

/-- A write leaves every byte outside it alone. -/
theorem Memory.get_write_of_outside (bs : List Byte) (m : Memory) (a b : Nat) (h : b < a ∨ a + bs.length ≤ b) :
    (m.write a bs).get b = m.get b := by
  rw [Memory.get_write]
  split
  · rw [List.getElem?_eq_none (by omega)]; rfl
  · rfl

@[simp] theorem Memory.length_read (m : Memory) (a n : Nat) : (m.read a n).length = n := by
  induction n generalizing a with
  | zero => rfl
  | succ n ih => simp [Memory.read, ih]

theorem Memory.getElem?_read (m : Memory) (a n i : Nat) : (m.read a n)[i]? = if i < n then some (m.get (a + i)) else none := by
  induction n generalizing a i with
  | zero => simp [Memory.read]
  | succ n ih =>
    cases i with
    | zero => simp [Memory.read]
    | succ i => simp [Memory.read, ih, Nat.add_assoc, Nat.add_comm 1]

/-- Reading back what was written. -/
@[simp] theorem Memory.read_write (m : Memory) (a : Nat) (bs : List Byte) : (m.write a bs).read a bs.length = bs := by
  apply List.ext_getElem?
  intro i
  rw [Memory.getElem?_read, Memory.get_write]
  by_cases h : i < bs.length
  · simp [h]
  · simp [h]

/-- Reading bytes that a write does not reach. -/
theorem Memory.read_write_of_outside (m : Memory) (a b n : Nat) (bs : List Byte) (h : b + n ≤ a ∨ a + bs.length ≤ b) :
    (m.write a bs).read b n = m.read b n := by
  apply List.ext_getElem?
  intro i
  rw [Memory.getElem?_read, Memory.getElem?_read]
  split
  · rw [Memory.get_write_of_outside _ _ _ _ (by omega)]
  · rfl

/-- Reading where two memories read alike. -/
theorem Memory.read_congr (m k : Memory) (a n : Nat) (h : ∀ b, a ≤ b → b < a + n → m.get b = k.get b) : m.read a n = k.read a n := by
  induction n generalizing a with
  | zero => rfl
  | succ n ih => rw [Memory.read, Memory.read, h a (by omega) (by omega), ih (a + 1) fun b h1 h2 => h b (by omega) (by omega)]

theorem Memory.num_congr (m k : Memory) (a n : Nat) (h : ∀ b, a ≤ b → b < a + n → m.get b = k.get b) : m.num a n = k.num a n :=
  congrArg ofBytes (Memory.read_congr m k a n h)

theorem Memory.get_clear_of_outside (m : Memory) (lo hi b : Nat) (h : b < lo ∨ hi ≤ b) : (m.clear lo hi).get b = m.get b := by
  unfold Memory.clear
  induction m with
  | nil => rfl
  | cons c t ih =>
    obtain ⟨k, v⟩ := c
    rw [List.filter_cons]
    split
    · simp only [Memory.get, ih]
    · rename_i hk
      simp only [Bool.or_eq_true, decide_eq_true_eq] at hk
      rw [ih, Memory.get, if_neg (by omega)]

/-- Bytes laid over a memory from an address up leave every byte below it alone. -/
theorem Memory.get_overlay_below (c m : Memory) (base b : Nat) (h : b < base) : (m.overlay base c).get b = m.get b := by
  unfold Memory.overlay
  induction c generalizing m with
  | nil => rfl
  | cons e t ih =>
    rw [List.foldl_cons, ih, Memory.get_put, if_neg (by omega)]

/-! ### The canonical form -/

/-- The form says that the keys rise strictly and no entry is what an unlisted byte reads as. -/
theorem Memory.wf_iff (m : Memory) : m.wf = true ↔ (m.Pairwise fun a b => a.1 < b.1) ∧ ∀ c ∈ m, c.2 ≠ memDefault := by
  induction m with
  | nil => simp [Memory.wf]
  | cons c t ih =>
    obtain ⟨k, v⟩ := c
    cases t with
    | nil => simp [Memory.wf, Memory.above]
    | cons d t =>
      obtain ⟨j, w⟩ := d
      simp only [Memory.wf, Memory.above, Bool.and_eq_true, decide_eq_true_eq] at ih ⊢
      rw [ih]
      constructor
      · rintro ⟨⟨hv, hk⟩, hp, hd⟩
        refine ⟨List.pairwise_cons.2 ⟨?_, hp⟩, by simpa using ⟨hv, by simpa using hd⟩⟩
        intro e he
        rcases List.mem_cons.1 he with rfl | he
        · exact hk
        · exact hk.trans ((List.pairwise_cons.1 hp).1 e he)
      · rintro ⟨hp, hd⟩
        have := List.pairwise_cons.1 hp
        exact ⟨⟨hd (k, v) (by simp), this.1 (j, w) (by simp)⟩, this.2, fun c hc => hd c (by simp [hc])⟩

@[simp] theorem Memory.wf_nil : Memory.wf [] = true := rfl

theorem Memory.wf_filter (m : Memory) (p : Host.Cell → Bool) (h : m.wf = true) : Memory.wf (m.filter p) = true := by
  rw [Memory.wf_iff] at h ⊢
  exact ⟨h.1.filter _, fun c hc => h.2 c (List.mem_filter.1 hc).1⟩

theorem Memory.mem_insert (m : Memory) (a : Nat) (x : Byte) (c : Host.Cell) : c ∈ m.insert a x → c = (a, x) ∨ c ∈ m := by
  induction m with
  | nil => simp [Memory.insert]
  | cons d t ih =>
    obtain ⟨k, v⟩ := d
    simp only [Memory.insert]
    split
    · simp
    · intro h
      rcases List.mem_cons.1 h with rfl | h
      · simp
      · rcases ih h with h | h <;> simp [h]

theorem Memory.wf_insert (m : Memory) (a : Nat) (x : Byte) (hx : x ≠ memDefault) (ha : ∀ c ∈ m, c.1 ≠ a) (h : m.wf = true) :
    (m.insert a x).wf = true := by
  rw [Memory.wf_iff] at h ⊢
  refine ⟨?_, fun c hc => ?_⟩
  · obtain ⟨h, -⟩ := h
    induction m with
    | nil => simp [Memory.insert]
    | cons d t ih =>
      obtain ⟨k, v⟩ := d
      have hp := List.pairwise_cons.1 h
      have hk : k ≠ a := ha (k, v) (by simp)
      simp only [Memory.insert]
      split
      · rename_i hlt
        refine List.pairwise_cons.2 ⟨fun e he => ?_, h⟩
        rcases List.mem_cons.1 he with rfl | he
        · exact hlt
        · exact Nat.lt_trans hlt (hp.1 e he)
      · refine List.pairwise_cons.2 ⟨fun e he => ?_, ih (fun c hc => ha c (by simp [hc])) hp.2⟩
        rcases Memory.mem_insert _ _ _ _ he with rfl | he
        · show k < a
          omega
        · exact hp.1 e he
  · rcases Memory.mem_insert _ _ _ _ hc with rfl | hc
    · exact hx
    · exact h.2 c hc

/-- A write of one byte keeps the form. -/
theorem Memory.wf_put (m : Memory) (a : Nat) (x : Byte) (h : m.wf = true) : (m.put a x).wf = true := by
  unfold Memory.put
  split
  · exact Memory.wf_filter _ _ h
  · rename_i hx
    exact Memory.wf_insert _ _ _ hx (by simp) (Memory.wf_filter _ _ h)

theorem Memory.wf_write (bs : List Byte) (m : Memory) (a : Nat) (h : m.wf = true) : (m.write a bs).wf = true := by
  induction bs generalizing m a with
  | nil => exact h
  | cons b bs ih => exact ih _ _ (Memory.wf_put _ _ _ h)

theorem Memory.wf_clear (m : Memory) (lo hi : Nat) (h : m.wf = true) : (m.clear lo hi).wf = true := Memory.wf_filter _ _ h

theorem Memory.wf_slice (m : Memory) (lo hi : Nat) (h : m.wf = true) : (m.slice lo hi).wf = true := by
  have h := Memory.wf_filter m (fun c => decide (lo ≤ c.1) && decide (c.1 < hi)) h
  rw [Memory.wf_iff] at h ⊢
  unfold Memory.slice
  refine ⟨?_, fun c hc => ?_⟩
  · refine List.pairwise_map.2 (List.Pairwise.imp_of_mem ?_ h.1)
    intro a b ha hb hab
    have h1 := (List.mem_filter.1 ha).2
    have h2 := (List.mem_filter.1 hb).2
    simp at h1 h2
    show a.1 - lo < b.1 - lo
    omega
  · obtain ⟨d, hd, rfl⟩ := List.mem_map.1 hc
    exact h.2 d hd

theorem Memory.wf_overlay (c m : Memory) (base : Nat) (h : m.wf = true) : (m.overlay base c).wf = true := by
  unfold Memory.overlay
  induction c generalizing m with
  | nil => exact h
  | cons e t ih => exact ih _ (Memory.wf_put _ _ _ h)

/-- Memories in canonical form that read alike at every address are the same list. -/
theorem Memory.ext_of_wf (m n : Memory) (hm : m.wf = true) (hn : n.wf = true) (h : ∀ a, m.get a = n.get a) : m = n := by
  have get_of_mem : ∀ (m : Memory), m.wf = true → ∀ c ∈ m, m.get c.1 = c.2 := by
    intro m hm
    rw [Memory.wf_iff] at hm
    obtain ⟨hm, -⟩ := hm
    induction m with
    | nil => simp
    | cons d t ih =>
      intro c hc
      have hp := List.pairwise_cons.1 hm
      rcases List.mem_cons.1 hc with rfl | hc
      · simp [Memory.get]
      · have := hp.1 c hc
        have hne : d.1 ≠ c.1 := by omega
        simp only [Memory.get, if_neg hne]
        exact ih hp.2 c hc
  have mem_of_get : ∀ (m : Memory) (a : Nat), m.get a ≠ memDefault → (a, m.get a) ∈ m := by
    intro m a
    induction m with
    | nil => simp [Memory.get]
    | cons d t ih =>
      obtain ⟨k, v⟩ := d
      simp only [Memory.get]
      split
      · rename_i hk; subst hk; simp
      · intro hne; exact List.mem_cons_of_mem _ (ih hne)
  have sub : ∀ (m n : Memory), m.wf = true → (∀ a, m.get a = n.get a) → ∀ c ∈ m, c ∈ n := by
    intro m n hm h c hc
    have h1 := get_of_mem m hm c hc
    have h2 := ((Memory.wf_iff m).1 hm).2 c hc
    have h3 := mem_of_get n c.1 (by rw [← h, h1]; exact h2)
    rw [← h, h1] at h3
    exact h3
  have hs : ∀ m : Memory, m.wf = true → m.Pairwise fun a b => a.1 < b.1 := fun m hm => ((Memory.wf_iff m).1 hm).1
  have nd : ∀ m : Memory, m.wf = true → m.Nodup := fun m hm => (hs m hm).imp fun hab heq => by subst heq; exact Nat.lt_irrefl _ hab
  have hperm : m.Perm n :=
    (List.perm_ext_iff_of_nodup (nd m hm) (nd n hn)).2 fun c => ⟨sub m n hm h c, sub n m hn (fun a => (h a).symm) c⟩
  exact List.Perm.eq_of_pairwise (fun a b _ _ h1 h2 => absurd (Nat.lt_trans h1 h2) (Nat.lt_irrefl _)) (hs m hm) (hs n hn) hperm

end Sys2Proof.Machine
end

