-- ==== Sys2Proof/Laws/State.lean ====
section
/-!
SUPPORT. What each update of the state leaves of each field: one lemma per field per update.
-/
namespace Sys2Proof.Machine

/-! ### State.setCore -/

@[simp] theorem State.setCore_core (s : State) (f : Core → Core) : (s.setCore f).core = f s.core := rfl
@[simp] theorem State.setCore_peers (s : State) (f : Core → Core) : (s.setCore f).peers = s.peers := rfl
@[simp] theorem State.setCore_sched (s : State) (f : Core → Core) : (s.setCore f).sched = s.sched := rfl
@[simp] theorem State.setCore_tick (s : State) (f : Core → Core) : (s.setCore f).tick = s.tick := rfl
@[simp] theorem State.setCore_cyc (s : State) (f : Core → Core) : (s.setCore f).cyc = s.cyc := rfl
@[simp] theorem State.setCore_mem (s : State) (f : Core → Core) : (s.setCore f).mem = s.mem := rfl
@[simp] theorem State.setCore_hostMem (s : State) (f : Core → Core) : (s.setCore f).hostMem = s.hostMem := rfl
@[simp] theorem State.setCore_bad (s : State) (f : Core → Core) : (s.setCore f).bad = s.bad := rfl
@[simp] theorem State.setCore_soft (s : State) (f : Core → Core) : (s.setCore f).soft = s.soft := rfl
@[simp] theorem State.setCore_ctxs (s : State) (f : Core → Core) : (s.setCore f).ctxs = s.ctxs := rfl
@[simp] theorem State.setCore_queues (s : State) (f : Core → Core) : (s.setCore f).queues = s.queues := rfl
@[simp] theorem State.setCore_yards (s : State) (f : Core → Core) : (s.setCore f).yards = s.yards := rfl
@[simp] theorem State.setCore_stables (s : State) (f : Core → Core) : (s.setCore f).stables = s.stables := rfl
@[simp] theorem State.setCore_routers (s : State) (f : Core → Core) : (s.setCore f).routers = s.routers := rfl
@[simp] theorem State.setCore_lanes (s : State) (f : Core → Core) : (s.setCore f).lanes = s.lanes := rfl
@[simp] theorem State.setCore_dies (s : State) (f : Core → Core) : (s.setCore f).dies = s.dies := rfl
@[simp] theorem State.setCore_modules (s : State) (f : Core → Core) : (s.setCore f).modules = s.modules := rfl
@[simp] theorem State.setCore_inc (s : State) (f : Core → Core) : (s.setCore f).inc = s.inc := rfl
@[simp] theorem State.setCore_prevInc (s : State) (f : Core → Core) : (s.setCore f).prevInc = s.prevInc := rfl
@[simp] theorem State.setCore_powered (s : State) (f : Core → Core) : (s.setCore f).powered = s.powered := rfl
@[simp] theorem State.setCore_frozen (s : State) (f : Core → Core) : (s.setCore f).frozen = s.frozen := rfl
@[simp] theorem State.setCore_bootst (s : State) (f : Core → Core) : (s.setCore f).bootst = s.bootst := rfl
@[simp] theorem State.setCore_pwrcap (s : State) (f : Core → Core) : (s.setCore f).pwrcap = s.pwrcap := rfl
@[simp] theorem State.setCore_pwrnow (s : State) (f : Core → Core) : (s.setCore f).pwrnow = s.pwrnow := rfl
@[simp] theorem State.setCore_rampcfg (s : State) (f : Core → Core) : (s.setCore f).rampcfg = s.rampcfg := rfl
@[simp] theorem State.setCore_rampNow (s : State) (f : Core → Core) : (s.setCore f).rampNow = s.rampNow := rfl
@[simp] theorem State.setCore_capNow (s : State) (f : Core → Core) : (s.setCore f).capNow = s.capNow := rfl
@[simp] theorem State.setCore_capped (s : State) (f : Core → Core) : (s.setCore f).capped = s.capped := rfl
@[simp] theorem State.setCore_rampAt (s : State) (f : Core → Core) : (s.setCore f).rampAt = s.rampAt := rfl
@[simp] theorem State.setCore_ramps (s : State) (f : Core → Core) : (s.setCore f).ramps = s.ramps := rfl
@[simp] theorem State.setCore_ramptel (s : State) (f : Core → Core) : (s.setCore f).ramptel = s.ramptel := rfl
@[simp] theorem State.setCore_coolst (s : State) (f : Core → Core) : (s.setCore f).coolst = s.coolst := rfl
@[simp] theorem State.setCore_recWin (s : State) (f : Core → Core) : (s.setCore f).recWin = s.recWin := rfl
@[simp] theorem State.setCore_image (s : State) (f : Core → Core) : (s.setCore f).image = s.image := rfl
@[simp] theorem State.setCore_mapRr (s : State) (f : Core → Core) : (s.setCore f).mapRr = s.mapRr := rfl
@[simp] theorem State.setCore_hubRot (s : State) (f : Core → Core) : (s.setCore f).hubRot = s.hubRot := rfl
@[simp] theorem State.setCore_reqs (s : State) (f : Core → Core) : (s.setCore f).reqs = s.reqs := rfl
@[simp] theorem State.setCore_nextTag (s : State) (f : Core → Core) : (s.setCore f).nextTag = s.nextTag := rfl
@[simp] theorem State.setCore_outbox (s : State) (f : Core → Core) : (s.setCore f).outbox = s.outbox := rfl

/-! ### State.setPeer -/

@[simp] theorem State.setPeer_core (s : State) (i : Nat) (f : Core → Core) : (s.setPeer i f).core = s.core := rfl
@[simp] theorem State.setPeer_peers (s : State) (i : Nat) (f : Core → Core) : (s.setPeer i f).peers = s.peers.modify i f := rfl
@[simp] theorem State.setPeer_sched (s : State) (i : Nat) (f : Core → Core) : (s.setPeer i f).sched = s.sched := rfl
@[simp] theorem State.setPeer_tick (s : State) (i : Nat) (f : Core → Core) : (s.setPeer i f).tick = s.tick := rfl
@[simp] theorem State.setPeer_cyc (s : State) (i : Nat) (f : Core → Core) : (s.setPeer i f).cyc = s.cyc := rfl
@[simp] theorem State.setPeer_mem (s : State) (i : Nat) (f : Core → Core) : (s.setPeer i f).mem = s.mem := rfl
@[simp] theorem State.setPeer_hostMem (s : State) (i : Nat) (f : Core → Core) : (s.setPeer i f).hostMem = s.hostMem := rfl
@[simp] theorem State.setPeer_bad (s : State) (i : Nat) (f : Core → Core) : (s.setPeer i f).bad = s.bad := rfl
@[simp] theorem State.setPeer_soft (s : State) (i : Nat) (f : Core → Core) : (s.setPeer i f).soft = s.soft := rfl
@[simp] theorem State.setPeer_ctxs (s : State) (i : Nat) (f : Core → Core) : (s.setPeer i f).ctxs = s.ctxs := rfl
@[simp] theorem State.setPeer_queues (s : State) (i : Nat) (f : Core → Core) : (s.setPeer i f).queues = s.queues := rfl
@[simp] theorem State.setPeer_yards (s : State) (i : Nat) (f : Core → Core) : (s.setPeer i f).yards = s.yards := rfl
@[simp] theorem State.setPeer_stables (s : State) (i : Nat) (f : Core → Core) : (s.setPeer i f).stables = s.stables := rfl
@[simp] theorem State.setPeer_routers (s : State) (i : Nat) (f : Core → Core) : (s.setPeer i f).routers = s.routers := rfl
@[simp] theorem State.setPeer_lanes (s : State) (i : Nat) (f : Core → Core) : (s.setPeer i f).lanes = s.lanes := rfl
@[simp] theorem State.setPeer_dies (s : State) (i : Nat) (f : Core → Core) : (s.setPeer i f).dies = s.dies := rfl
@[simp] theorem State.setPeer_modules (s : State) (i : Nat) (f : Core → Core) : (s.setPeer i f).modules = s.modules := rfl
@[simp] theorem State.setPeer_inc (s : State) (i : Nat) (f : Core → Core) : (s.setPeer i f).inc = s.inc := rfl
@[simp] theorem State.setPeer_prevInc (s : State) (i : Nat) (f : Core → Core) : (s.setPeer i f).prevInc = s.prevInc := rfl
@[simp] theorem State.setPeer_powered (s : State) (i : Nat) (f : Core → Core) : (s.setPeer i f).powered = s.powered := rfl
@[simp] theorem State.setPeer_frozen (s : State) (i : Nat) (f : Core → Core) : (s.setPeer i f).frozen = s.frozen := rfl
@[simp] theorem State.setPeer_bootst (s : State) (i : Nat) (f : Core → Core) : (s.setPeer i f).bootst = s.bootst := rfl
@[simp] theorem State.setPeer_pwrcap (s : State) (i : Nat) (f : Core → Core) : (s.setPeer i f).pwrcap = s.pwrcap := rfl
@[simp] theorem State.setPeer_pwrnow (s : State) (i : Nat) (f : Core → Core) : (s.setPeer i f).pwrnow = s.pwrnow := rfl
@[simp] theorem State.setPeer_rampcfg (s : State) (i : Nat) (f : Core → Core) : (s.setPeer i f).rampcfg = s.rampcfg := rfl
@[simp] theorem State.setPeer_rampNow (s : State) (i : Nat) (f : Core → Core) : (s.setPeer i f).rampNow = s.rampNow := rfl
@[simp] theorem State.setPeer_capNow (s : State) (i : Nat) (f : Core → Core) : (s.setPeer i f).capNow = s.capNow := rfl
@[simp] theorem State.setPeer_capped (s : State) (i : Nat) (f : Core → Core) : (s.setPeer i f).capped = s.capped := rfl
@[simp] theorem State.setPeer_rampAt (s : State) (i : Nat) (f : Core → Core) : (s.setPeer i f).rampAt = s.rampAt := rfl
@[simp] theorem State.setPeer_ramps (s : State) (i : Nat) (f : Core → Core) : (s.setPeer i f).ramps = s.ramps := rfl
@[simp] theorem State.setPeer_ramptel (s : State) (i : Nat) (f : Core → Core) : (s.setPeer i f).ramptel = s.ramptel := rfl
@[simp] theorem State.setPeer_coolst (s : State) (i : Nat) (f : Core → Core) : (s.setPeer i f).coolst = s.coolst := rfl
@[simp] theorem State.setPeer_recWin (s : State) (i : Nat) (f : Core → Core) : (s.setPeer i f).recWin = s.recWin := rfl
@[simp] theorem State.setPeer_image (s : State) (i : Nat) (f : Core → Core) : (s.setPeer i f).image = s.image := rfl
@[simp] theorem State.setPeer_mapRr (s : State) (i : Nat) (f : Core → Core) : (s.setPeer i f).mapRr = s.mapRr := rfl
@[simp] theorem State.setPeer_hubRot (s : State) (i : Nat) (f : Core → Core) : (s.setPeer i f).hubRot = s.hubRot := rfl
@[simp] theorem State.setPeer_reqs (s : State) (i : Nat) (f : Core → Core) : (s.setPeer i f).reqs = s.reqs := rfl
@[simp] theorem State.setPeer_nextTag (s : State) (i : Nat) (f : Core → Core) : (s.setPeer i f).nextTag = s.nextTag := rfl
@[simp] theorem State.setPeer_outbox (s : State) (i : Nat) (f : Core → Core) : (s.setPeer i f).outbox = s.outbox := rfl

/-! ### State.setDie -/

@[simp] theorem State.setDie_core (s : State) (d : Nat) (f : Die → Die) : (s.setDie d f).core = s.core := rfl
@[simp] theorem State.setDie_peers (s : State) (d : Nat) (f : Die → Die) : (s.setDie d f).peers = s.peers := rfl
@[simp] theorem State.setDie_sched (s : State) (d : Nat) (f : Die → Die) : (s.setDie d f).sched = s.sched := rfl
@[simp] theorem State.setDie_tick (s : State) (d : Nat) (f : Die → Die) : (s.setDie d f).tick = s.tick := rfl
@[simp] theorem State.setDie_cyc (s : State) (d : Nat) (f : Die → Die) : (s.setDie d f).cyc = s.cyc := rfl
@[simp] theorem State.setDie_mem (s : State) (d : Nat) (f : Die → Die) : (s.setDie d f).mem = s.mem := rfl
@[simp] theorem State.setDie_hostMem (s : State) (d : Nat) (f : Die → Die) : (s.setDie d f).hostMem = s.hostMem := rfl
@[simp] theorem State.setDie_bad (s : State) (d : Nat) (f : Die → Die) : (s.setDie d f).bad = s.bad := rfl
@[simp] theorem State.setDie_soft (s : State) (d : Nat) (f : Die → Die) : (s.setDie d f).soft = s.soft := rfl
@[simp] theorem State.setDie_ctxs (s : State) (d : Nat) (f : Die → Die) : (s.setDie d f).ctxs = s.ctxs := rfl
@[simp] theorem State.setDie_queues (s : State) (d : Nat) (f : Die → Die) : (s.setDie d f).queues = s.queues := rfl
@[simp] theorem State.setDie_yards (s : State) (d : Nat) (f : Die → Die) : (s.setDie d f).yards = s.yards := rfl
@[simp] theorem State.setDie_stables (s : State) (d : Nat) (f : Die → Die) : (s.setDie d f).stables = s.stables := rfl
@[simp] theorem State.setDie_routers (s : State) (d : Nat) (f : Die → Die) : (s.setDie d f).routers = s.routers := rfl
@[simp] theorem State.setDie_lanes (s : State) (d : Nat) (f : Die → Die) : (s.setDie d f).lanes = s.lanes := rfl
@[simp] theorem State.setDie_dies (s : State) (d : Nat) (f : Die → Die) : (s.setDie d f).dies = tmod Die.reset d f s.dies := rfl
@[simp] theorem State.setDie_modules (s : State) (d : Nat) (f : Die → Die) : (s.setDie d f).modules = s.modules := rfl
@[simp] theorem State.setDie_inc (s : State) (d : Nat) (f : Die → Die) : (s.setDie d f).inc = s.inc := rfl
@[simp] theorem State.setDie_prevInc (s : State) (d : Nat) (f : Die → Die) : (s.setDie d f).prevInc = s.prevInc := rfl
@[simp] theorem State.setDie_powered (s : State) (d : Nat) (f : Die → Die) : (s.setDie d f).powered = s.powered := rfl
@[simp] theorem State.setDie_frozen (s : State) (d : Nat) (f : Die → Die) : (s.setDie d f).frozen = s.frozen := rfl
@[simp] theorem State.setDie_bootst (s : State) (d : Nat) (f : Die → Die) : (s.setDie d f).bootst = s.bootst := rfl
@[simp] theorem State.setDie_pwrcap (s : State) (d : Nat) (f : Die → Die) : (s.setDie d f).pwrcap = s.pwrcap := rfl
@[simp] theorem State.setDie_pwrnow (s : State) (d : Nat) (f : Die → Die) : (s.setDie d f).pwrnow = s.pwrnow := rfl
@[simp] theorem State.setDie_rampcfg (s : State) (d : Nat) (f : Die → Die) : (s.setDie d f).rampcfg = s.rampcfg := rfl
@[simp] theorem State.setDie_rampNow (s : State) (d : Nat) (f : Die → Die) : (s.setDie d f).rampNow = s.rampNow := rfl
@[simp] theorem State.setDie_capNow (s : State) (d : Nat) (f : Die → Die) : (s.setDie d f).capNow = s.capNow := rfl
@[simp] theorem State.setDie_capped (s : State) (d : Nat) (f : Die → Die) : (s.setDie d f).capped = s.capped := rfl
@[simp] theorem State.setDie_rampAt (s : State) (d : Nat) (f : Die → Die) : (s.setDie d f).rampAt = s.rampAt := rfl
@[simp] theorem State.setDie_ramps (s : State) (d : Nat) (f : Die → Die) : (s.setDie d f).ramps = s.ramps := rfl
@[simp] theorem State.setDie_ramptel (s : State) (d : Nat) (f : Die → Die) : (s.setDie d f).ramptel = s.ramptel := rfl
@[simp] theorem State.setDie_coolst (s : State) (d : Nat) (f : Die → Die) : (s.setDie d f).coolst = s.coolst := rfl
@[simp] theorem State.setDie_recWin (s : State) (d : Nat) (f : Die → Die) : (s.setDie d f).recWin = s.recWin := rfl
@[simp] theorem State.setDie_image (s : State) (d : Nat) (f : Die → Die) : (s.setDie d f).image = s.image := rfl
@[simp] theorem State.setDie_mapRr (s : State) (d : Nat) (f : Die → Die) : (s.setDie d f).mapRr = s.mapRr := rfl
@[simp] theorem State.setDie_hubRot (s : State) (d : Nat) (f : Die → Die) : (s.setDie d f).hubRot = s.hubRot := rfl
@[simp] theorem State.setDie_reqs (s : State) (d : Nat) (f : Die → Die) : (s.setDie d f).reqs = s.reqs := rfl
@[simp] theorem State.setDie_nextTag (s : State) (d : Nat) (f : Die → Die) : (s.setDie d f).nextTag = s.nextTag := rfl
@[simp] theorem State.setDie_outbox (s : State) (d : Nat) (f : Die → Die) : (s.setDie d f).outbox = s.outbox := rfl

/-! ### State.setCtx -/

@[simp] theorem State.setCtx_core (s : State) (n : Nat) (f : Ctx → Ctx) : (s.setCtx n f).core = s.core := rfl
@[simp] theorem State.setCtx_peers (s : State) (n : Nat) (f : Ctx → Ctx) : (s.setCtx n f).peers = s.peers := rfl
@[simp] theorem State.setCtx_sched (s : State) (n : Nat) (f : Ctx → Ctx) : (s.setCtx n f).sched = s.sched := rfl
@[simp] theorem State.setCtx_tick (s : State) (n : Nat) (f : Ctx → Ctx) : (s.setCtx n f).tick = s.tick := rfl
@[simp] theorem State.setCtx_cyc (s : State) (n : Nat) (f : Ctx → Ctx) : (s.setCtx n f).cyc = s.cyc := rfl
@[simp] theorem State.setCtx_mem (s : State) (n : Nat) (f : Ctx → Ctx) : (s.setCtx n f).mem = s.mem := rfl
@[simp] theorem State.setCtx_hostMem (s : State) (n : Nat) (f : Ctx → Ctx) : (s.setCtx n f).hostMem = s.hostMem := rfl
@[simp] theorem State.setCtx_bad (s : State) (n : Nat) (f : Ctx → Ctx) : (s.setCtx n f).bad = s.bad := rfl
@[simp] theorem State.setCtx_soft (s : State) (n : Nat) (f : Ctx → Ctx) : (s.setCtx n f).soft = s.soft := rfl
@[simp] theorem State.setCtx_ctxs (s : State) (n : Nat) (f : Ctx → Ctx) : (s.setCtx n f).ctxs = tmod Ctx.reset n f s.ctxs := rfl
@[simp] theorem State.setCtx_queues (s : State) (n : Nat) (f : Ctx → Ctx) : (s.setCtx n f).queues = s.queues := rfl
@[simp] theorem State.setCtx_yards (s : State) (n : Nat) (f : Ctx → Ctx) : (s.setCtx n f).yards = s.yards := rfl
@[simp] theorem State.setCtx_stables (s : State) (n : Nat) (f : Ctx → Ctx) : (s.setCtx n f).stables = s.stables := rfl
@[simp] theorem State.setCtx_routers (s : State) (n : Nat) (f : Ctx → Ctx) : (s.setCtx n f).routers = s.routers := rfl
@[simp] theorem State.setCtx_lanes (s : State) (n : Nat) (f : Ctx → Ctx) : (s.setCtx n f).lanes = s.lanes := rfl
@[simp] theorem State.setCtx_dies (s : State) (n : Nat) (f : Ctx → Ctx) : (s.setCtx n f).dies = s.dies := rfl
@[simp] theorem State.setCtx_modules (s : State) (n : Nat) (f : Ctx → Ctx) : (s.setCtx n f).modules = s.modules := rfl
@[simp] theorem State.setCtx_inc (s : State) (n : Nat) (f : Ctx → Ctx) : (s.setCtx n f).inc = s.inc := rfl
@[simp] theorem State.setCtx_prevInc (s : State) (n : Nat) (f : Ctx → Ctx) : (s.setCtx n f).prevInc = s.prevInc := rfl
@[simp] theorem State.setCtx_powered (s : State) (n : Nat) (f : Ctx → Ctx) : (s.setCtx n f).powered = s.powered := rfl
@[simp] theorem State.setCtx_frozen (s : State) (n : Nat) (f : Ctx → Ctx) : (s.setCtx n f).frozen = s.frozen := rfl
@[simp] theorem State.setCtx_bootst (s : State) (n : Nat) (f : Ctx → Ctx) : (s.setCtx n f).bootst = s.bootst := rfl
@[simp] theorem State.setCtx_pwrcap (s : State) (n : Nat) (f : Ctx → Ctx) : (s.setCtx n f).pwrcap = s.pwrcap := rfl
@[simp] theorem State.setCtx_pwrnow (s : State) (n : Nat) (f : Ctx → Ctx) : (s.setCtx n f).pwrnow = s.pwrnow := rfl
@[simp] theorem State.setCtx_rampcfg (s : State) (n : Nat) (f : Ctx → Ctx) : (s.setCtx n f).rampcfg = s.rampcfg := rfl
@[simp] theorem State.setCtx_rampNow (s : State) (n : Nat) (f : Ctx → Ctx) : (s.setCtx n f).rampNow = s.rampNow := rfl
@[simp] theorem State.setCtx_capNow (s : State) (n : Nat) (f : Ctx → Ctx) : (s.setCtx n f).capNow = s.capNow := rfl
@[simp] theorem State.setCtx_capped (s : State) (n : Nat) (f : Ctx → Ctx) : (s.setCtx n f).capped = s.capped := rfl
@[simp] theorem State.setCtx_rampAt (s : State) (n : Nat) (f : Ctx → Ctx) : (s.setCtx n f).rampAt = s.rampAt := rfl
@[simp] theorem State.setCtx_ramps (s : State) (n : Nat) (f : Ctx → Ctx) : (s.setCtx n f).ramps = s.ramps := rfl
@[simp] theorem State.setCtx_ramptel (s : State) (n : Nat) (f : Ctx → Ctx) : (s.setCtx n f).ramptel = s.ramptel := rfl
@[simp] theorem State.setCtx_coolst (s : State) (n : Nat) (f : Ctx → Ctx) : (s.setCtx n f).coolst = s.coolst := rfl
@[simp] theorem State.setCtx_recWin (s : State) (n : Nat) (f : Ctx → Ctx) : (s.setCtx n f).recWin = s.recWin := rfl
@[simp] theorem State.setCtx_image (s : State) (n : Nat) (f : Ctx → Ctx) : (s.setCtx n f).image = s.image := rfl
@[simp] theorem State.setCtx_mapRr (s : State) (n : Nat) (f : Ctx → Ctx) : (s.setCtx n f).mapRr = s.mapRr := rfl
@[simp] theorem State.setCtx_hubRot (s : State) (n : Nat) (f : Ctx → Ctx) : (s.setCtx n f).hubRot = s.hubRot := rfl
@[simp] theorem State.setCtx_reqs (s : State) (n : Nat) (f : Ctx → Ctx) : (s.setCtx n f).reqs = s.reqs := rfl
@[simp] theorem State.setCtx_nextTag (s : State) (n : Nat) (f : Ctx → Ctx) : (s.setCtx n f).nextTag = s.nextTag := rfl
@[simp] theorem State.setCtx_outbox (s : State) (n : Nat) (f : Ctx → Ctx) : (s.setCtx n f).outbox = s.outbox := rfl

/-! ### State.setQueue -/

@[simp] theorem State.setQueue_core (s : State) (q : Nat) (f : Queue → Queue) : (s.setQueue q f).core = s.core := rfl
@[simp] theorem State.setQueue_peers (s : State) (q : Nat) (f : Queue → Queue) : (s.setQueue q f).peers = s.peers := rfl
@[simp] theorem State.setQueue_sched (s : State) (q : Nat) (f : Queue → Queue) : (s.setQueue q f).sched = s.sched := rfl
@[simp] theorem State.setQueue_tick (s : State) (q : Nat) (f : Queue → Queue) : (s.setQueue q f).tick = s.tick := rfl
@[simp] theorem State.setQueue_cyc (s : State) (q : Nat) (f : Queue → Queue) : (s.setQueue q f).cyc = s.cyc := rfl
@[simp] theorem State.setQueue_mem (s : State) (q : Nat) (f : Queue → Queue) : (s.setQueue q f).mem = s.mem := rfl
@[simp] theorem State.setQueue_hostMem (s : State) (q : Nat) (f : Queue → Queue) : (s.setQueue q f).hostMem = s.hostMem := rfl
@[simp] theorem State.setQueue_bad (s : State) (q : Nat) (f : Queue → Queue) : (s.setQueue q f).bad = s.bad := rfl
@[simp] theorem State.setQueue_soft (s : State) (q : Nat) (f : Queue → Queue) : (s.setQueue q f).soft = s.soft := rfl
@[simp] theorem State.setQueue_ctxs (s : State) (q : Nat) (f : Queue → Queue) : (s.setQueue q f).ctxs = s.ctxs := rfl
@[simp] theorem State.setQueue_queues (s : State) (q : Nat) (f : Queue → Queue) : (s.setQueue q f).queues = tmod Queue.reset q f s.queues := rfl
@[simp] theorem State.setQueue_yards (s : State) (q : Nat) (f : Queue → Queue) : (s.setQueue q f).yards = s.yards := rfl
@[simp] theorem State.setQueue_stables (s : State) (q : Nat) (f : Queue → Queue) : (s.setQueue q f).stables = s.stables := rfl
@[simp] theorem State.setQueue_routers (s : State) (q : Nat) (f : Queue → Queue) : (s.setQueue q f).routers = s.routers := rfl
@[simp] theorem State.setQueue_lanes (s : State) (q : Nat) (f : Queue → Queue) : (s.setQueue q f).lanes = s.lanes := rfl
@[simp] theorem State.setQueue_dies (s : State) (q : Nat) (f : Queue → Queue) : (s.setQueue q f).dies = s.dies := rfl
@[simp] theorem State.setQueue_modules (s : State) (q : Nat) (f : Queue → Queue) : (s.setQueue q f).modules = s.modules := rfl
@[simp] theorem State.setQueue_inc (s : State) (q : Nat) (f : Queue → Queue) : (s.setQueue q f).inc = s.inc := rfl
@[simp] theorem State.setQueue_prevInc (s : State) (q : Nat) (f : Queue → Queue) : (s.setQueue q f).prevInc = s.prevInc := rfl
@[simp] theorem State.setQueue_powered (s : State) (q : Nat) (f : Queue → Queue) : (s.setQueue q f).powered = s.powered := rfl
@[simp] theorem State.setQueue_frozen (s : State) (q : Nat) (f : Queue → Queue) : (s.setQueue q f).frozen = s.frozen := rfl
@[simp] theorem State.setQueue_bootst (s : State) (q : Nat) (f : Queue → Queue) : (s.setQueue q f).bootst = s.bootst := rfl
@[simp] theorem State.setQueue_pwrcap (s : State) (q : Nat) (f : Queue → Queue) : (s.setQueue q f).pwrcap = s.pwrcap := rfl
@[simp] theorem State.setQueue_pwrnow (s : State) (q : Nat) (f : Queue → Queue) : (s.setQueue q f).pwrnow = s.pwrnow := rfl
@[simp] theorem State.setQueue_rampcfg (s : State) (q : Nat) (f : Queue → Queue) : (s.setQueue q f).rampcfg = s.rampcfg := rfl
@[simp] theorem State.setQueue_rampNow (s : State) (q : Nat) (f : Queue → Queue) : (s.setQueue q f).rampNow = s.rampNow := rfl
@[simp] theorem State.setQueue_capNow (s : State) (q : Nat) (f : Queue → Queue) : (s.setQueue q f).capNow = s.capNow := rfl
@[simp] theorem State.setQueue_capped (s : State) (q : Nat) (f : Queue → Queue) : (s.setQueue q f).capped = s.capped := rfl
@[simp] theorem State.setQueue_rampAt (s : State) (q : Nat) (f : Queue → Queue) : (s.setQueue q f).rampAt = s.rampAt := rfl
@[simp] theorem State.setQueue_ramps (s : State) (q : Nat) (f : Queue → Queue) : (s.setQueue q f).ramps = s.ramps := rfl
@[simp] theorem State.setQueue_ramptel (s : State) (q : Nat) (f : Queue → Queue) : (s.setQueue q f).ramptel = s.ramptel := rfl
@[simp] theorem State.setQueue_coolst (s : State) (q : Nat) (f : Queue → Queue) : (s.setQueue q f).coolst = s.coolst := rfl
@[simp] theorem State.setQueue_recWin (s : State) (q : Nat) (f : Queue → Queue) : (s.setQueue q f).recWin = s.recWin := rfl
@[simp] theorem State.setQueue_image (s : State) (q : Nat) (f : Queue → Queue) : (s.setQueue q f).image = s.image := rfl
@[simp] theorem State.setQueue_mapRr (s : State) (q : Nat) (f : Queue → Queue) : (s.setQueue q f).mapRr = s.mapRr := rfl
@[simp] theorem State.setQueue_hubRot (s : State) (q : Nat) (f : Queue → Queue) : (s.setQueue q f).hubRot = s.hubRot := rfl
@[simp] theorem State.setQueue_reqs (s : State) (q : Nat) (f : Queue → Queue) : (s.setQueue q f).reqs = s.reqs := rfl
@[simp] theorem State.setQueue_nextTag (s : State) (q : Nat) (f : Queue → Queue) : (s.setQueue q f).nextTag = s.nextTag := rfl
@[simp] theorem State.setQueue_outbox (s : State) (q : Nat) (f : Queue → Queue) : (s.setQueue q f).outbox = s.outbox := rfl

/-! ### State.setYard -/

@[simp] theorem State.setYard_core (s : State) (y : Nat) (f : Yard → Yard) : (s.setYard y f).core = s.core := rfl
@[simp] theorem State.setYard_peers (s : State) (y : Nat) (f : Yard → Yard) : (s.setYard y f).peers = s.peers := rfl
@[simp] theorem State.setYard_sched (s : State) (y : Nat) (f : Yard → Yard) : (s.setYard y f).sched = s.sched := rfl
@[simp] theorem State.setYard_tick (s : State) (y : Nat) (f : Yard → Yard) : (s.setYard y f).tick = s.tick := rfl
@[simp] theorem State.setYard_cyc (s : State) (y : Nat) (f : Yard → Yard) : (s.setYard y f).cyc = s.cyc := rfl
@[simp] theorem State.setYard_mem (s : State) (y : Nat) (f : Yard → Yard) : (s.setYard y f).mem = s.mem := rfl
@[simp] theorem State.setYard_hostMem (s : State) (y : Nat) (f : Yard → Yard) : (s.setYard y f).hostMem = s.hostMem := rfl
@[simp] theorem State.setYard_bad (s : State) (y : Nat) (f : Yard → Yard) : (s.setYard y f).bad = s.bad := rfl
@[simp] theorem State.setYard_soft (s : State) (y : Nat) (f : Yard → Yard) : (s.setYard y f).soft = s.soft := rfl
@[simp] theorem State.setYard_ctxs (s : State) (y : Nat) (f : Yard → Yard) : (s.setYard y f).ctxs = s.ctxs := rfl
@[simp] theorem State.setYard_queues (s : State) (y : Nat) (f : Yard → Yard) : (s.setYard y f).queues = s.queues := rfl
@[simp] theorem State.setYard_yards (s : State) (y : Nat) (f : Yard → Yard) : (s.setYard y f).yards = tmod Yard.reset y f s.yards := rfl
@[simp] theorem State.setYard_stables (s : State) (y : Nat) (f : Yard → Yard) : (s.setYard y f).stables = s.stables := rfl
@[simp] theorem State.setYard_routers (s : State) (y : Nat) (f : Yard → Yard) : (s.setYard y f).routers = s.routers := rfl
@[simp] theorem State.setYard_lanes (s : State) (y : Nat) (f : Yard → Yard) : (s.setYard y f).lanes = s.lanes := rfl
@[simp] theorem State.setYard_dies (s : State) (y : Nat) (f : Yard → Yard) : (s.setYard y f).dies = s.dies := rfl
@[simp] theorem State.setYard_modules (s : State) (y : Nat) (f : Yard → Yard) : (s.setYard y f).modules = s.modules := rfl
@[simp] theorem State.setYard_inc (s : State) (y : Nat) (f : Yard → Yard) : (s.setYard y f).inc = s.inc := rfl
@[simp] theorem State.setYard_prevInc (s : State) (y : Nat) (f : Yard → Yard) : (s.setYard y f).prevInc = s.prevInc := rfl
@[simp] theorem State.setYard_powered (s : State) (y : Nat) (f : Yard → Yard) : (s.setYard y f).powered = s.powered := rfl
@[simp] theorem State.setYard_frozen (s : State) (y : Nat) (f : Yard → Yard) : (s.setYard y f).frozen = s.frozen := rfl
@[simp] theorem State.setYard_bootst (s : State) (y : Nat) (f : Yard → Yard) : (s.setYard y f).bootst = s.bootst := rfl
@[simp] theorem State.setYard_pwrcap (s : State) (y : Nat) (f : Yard → Yard) : (s.setYard y f).pwrcap = s.pwrcap := rfl
@[simp] theorem State.setYard_pwrnow (s : State) (y : Nat) (f : Yard → Yard) : (s.setYard y f).pwrnow = s.pwrnow := rfl
@[simp] theorem State.setYard_rampcfg (s : State) (y : Nat) (f : Yard → Yard) : (s.setYard y f).rampcfg = s.rampcfg := rfl
@[simp] theorem State.setYard_rampNow (s : State) (y : Nat) (f : Yard → Yard) : (s.setYard y f).rampNow = s.rampNow := rfl
@[simp] theorem State.setYard_capNow (s : State) (y : Nat) (f : Yard → Yard) : (s.setYard y f).capNow = s.capNow := rfl
@[simp] theorem State.setYard_capped (s : State) (y : Nat) (f : Yard → Yard) : (s.setYard y f).capped = s.capped := rfl
@[simp] theorem State.setYard_rampAt (s : State) (y : Nat) (f : Yard → Yard) : (s.setYard y f).rampAt = s.rampAt := rfl
@[simp] theorem State.setYard_ramps (s : State) (y : Nat) (f : Yard → Yard) : (s.setYard y f).ramps = s.ramps := rfl
@[simp] theorem State.setYard_ramptel (s : State) (y : Nat) (f : Yard → Yard) : (s.setYard y f).ramptel = s.ramptel := rfl
@[simp] theorem State.setYard_coolst (s : State) (y : Nat) (f : Yard → Yard) : (s.setYard y f).coolst = s.coolst := rfl
@[simp] theorem State.setYard_recWin (s : State) (y : Nat) (f : Yard → Yard) : (s.setYard y f).recWin = s.recWin := rfl
@[simp] theorem State.setYard_image (s : State) (y : Nat) (f : Yard → Yard) : (s.setYard y f).image = s.image := rfl
@[simp] theorem State.setYard_mapRr (s : State) (y : Nat) (f : Yard → Yard) : (s.setYard y f).mapRr = s.mapRr := rfl
@[simp] theorem State.setYard_hubRot (s : State) (y : Nat) (f : Yard → Yard) : (s.setYard y f).hubRot = s.hubRot := rfl
@[simp] theorem State.setYard_reqs (s : State) (y : Nat) (f : Yard → Yard) : (s.setYard y f).reqs = s.reqs := rfl
@[simp] theorem State.setYard_nextTag (s : State) (y : Nat) (f : Yard → Yard) : (s.setYard y f).nextTag = s.nextTag := rfl
@[simp] theorem State.setYard_outbox (s : State) (y : Nat) (f : Yard → Yard) : (s.setYard y f).outbox = s.outbox := rfl

/-! ### State.setStable -/

@[simp] theorem State.setStable_core (s : State) (n : Nat) (f : Stable → Stable) : (s.setStable n f).core = s.core := rfl
@[simp] theorem State.setStable_peers (s : State) (n : Nat) (f : Stable → Stable) : (s.setStable n f).peers = s.peers := rfl
@[simp] theorem State.setStable_sched (s : State) (n : Nat) (f : Stable → Stable) : (s.setStable n f).sched = s.sched := rfl
@[simp] theorem State.setStable_tick (s : State) (n : Nat) (f : Stable → Stable) : (s.setStable n f).tick = s.tick := rfl
@[simp] theorem State.setStable_cyc (s : State) (n : Nat) (f : Stable → Stable) : (s.setStable n f).cyc = s.cyc := rfl
@[simp] theorem State.setStable_mem (s : State) (n : Nat) (f : Stable → Stable) : (s.setStable n f).mem = s.mem := rfl
@[simp] theorem State.setStable_hostMem (s : State) (n : Nat) (f : Stable → Stable) : (s.setStable n f).hostMem = s.hostMem := rfl
@[simp] theorem State.setStable_bad (s : State) (n : Nat) (f : Stable → Stable) : (s.setStable n f).bad = s.bad := rfl
@[simp] theorem State.setStable_soft (s : State) (n : Nat) (f : Stable → Stable) : (s.setStable n f).soft = s.soft := rfl
@[simp] theorem State.setStable_ctxs (s : State) (n : Nat) (f : Stable → Stable) : (s.setStable n f).ctxs = s.ctxs := rfl
@[simp] theorem State.setStable_queues (s : State) (n : Nat) (f : Stable → Stable) : (s.setStable n f).queues = s.queues := rfl
@[simp] theorem State.setStable_yards (s : State) (n : Nat) (f : Stable → Stable) : (s.setStable n f).yards = s.yards := rfl
@[simp] theorem State.setStable_stables (s : State) (n : Nat) (f : Stable → Stable) : (s.setStable n f).stables = tmod Stable.reset n f s.stables := rfl
@[simp] theorem State.setStable_routers (s : State) (n : Nat) (f : Stable → Stable) : (s.setStable n f).routers = s.routers := rfl
@[simp] theorem State.setStable_lanes (s : State) (n : Nat) (f : Stable → Stable) : (s.setStable n f).lanes = s.lanes := rfl
@[simp] theorem State.setStable_dies (s : State) (n : Nat) (f : Stable → Stable) : (s.setStable n f).dies = s.dies := rfl
@[simp] theorem State.setStable_modules (s : State) (n : Nat) (f : Stable → Stable) : (s.setStable n f).modules = s.modules := rfl
@[simp] theorem State.setStable_inc (s : State) (n : Nat) (f : Stable → Stable) : (s.setStable n f).inc = s.inc := rfl
@[simp] theorem State.setStable_prevInc (s : State) (n : Nat) (f : Stable → Stable) : (s.setStable n f).prevInc = s.prevInc := rfl
@[simp] theorem State.setStable_powered (s : State) (n : Nat) (f : Stable → Stable) : (s.setStable n f).powered = s.powered := rfl
@[simp] theorem State.setStable_frozen (s : State) (n : Nat) (f : Stable → Stable) : (s.setStable n f).frozen = s.frozen := rfl
@[simp] theorem State.setStable_bootst (s : State) (n : Nat) (f : Stable → Stable) : (s.setStable n f).bootst = s.bootst := rfl
@[simp] theorem State.setStable_pwrcap (s : State) (n : Nat) (f : Stable → Stable) : (s.setStable n f).pwrcap = s.pwrcap := rfl
@[simp] theorem State.setStable_pwrnow (s : State) (n : Nat) (f : Stable → Stable) : (s.setStable n f).pwrnow = s.pwrnow := rfl
@[simp] theorem State.setStable_rampcfg (s : State) (n : Nat) (f : Stable → Stable) : (s.setStable n f).rampcfg = s.rampcfg := rfl
@[simp] theorem State.setStable_rampNow (s : State) (n : Nat) (f : Stable → Stable) : (s.setStable n f).rampNow = s.rampNow := rfl
@[simp] theorem State.setStable_capNow (s : State) (n : Nat) (f : Stable → Stable) : (s.setStable n f).capNow = s.capNow := rfl
@[simp] theorem State.setStable_capped (s : State) (n : Nat) (f : Stable → Stable) : (s.setStable n f).capped = s.capped := rfl
@[simp] theorem State.setStable_rampAt (s : State) (n : Nat) (f : Stable → Stable) : (s.setStable n f).rampAt = s.rampAt := rfl
@[simp] theorem State.setStable_ramps (s : State) (n : Nat) (f : Stable → Stable) : (s.setStable n f).ramps = s.ramps := rfl
@[simp] theorem State.setStable_ramptel (s : State) (n : Nat) (f : Stable → Stable) : (s.setStable n f).ramptel = s.ramptel := rfl
@[simp] theorem State.setStable_coolst (s : State) (n : Nat) (f : Stable → Stable) : (s.setStable n f).coolst = s.coolst := rfl
@[simp] theorem State.setStable_recWin (s : State) (n : Nat) (f : Stable → Stable) : (s.setStable n f).recWin = s.recWin := rfl
@[simp] theorem State.setStable_image (s : State) (n : Nat) (f : Stable → Stable) : (s.setStable n f).image = s.image := rfl
@[simp] theorem State.setStable_mapRr (s : State) (n : Nat) (f : Stable → Stable) : (s.setStable n f).mapRr = s.mapRr := rfl
@[simp] theorem State.setStable_hubRot (s : State) (n : Nat) (f : Stable → Stable) : (s.setStable n f).hubRot = s.hubRot := rfl
@[simp] theorem State.setStable_reqs (s : State) (n : Nat) (f : Stable → Stable) : (s.setStable n f).reqs = s.reqs := rfl
@[simp] theorem State.setStable_nextTag (s : State) (n : Nat) (f : Stable → Stable) : (s.setStable n f).nextTag = s.nextTag := rfl
@[simp] theorem State.setStable_outbox (s : State) (n : Nat) (f : Stable → Stable) : (s.setStable n f).outbox = s.outbox := rfl

/-! ### State.wr -/

@[simp] theorem State.wr_core (s : State) (r : SReg) (v : W64) : (s.wr r v).core = s.core.wr r v := rfl
@[simp] theorem State.wr_peers (s : State) (r : SReg) (v : W64) : (s.wr r v).peers = s.peers := rfl
@[simp] theorem State.wr_sched (s : State) (r : SReg) (v : W64) : (s.wr r v).sched = s.sched := rfl
@[simp] theorem State.wr_tick (s : State) (r : SReg) (v : W64) : (s.wr r v).tick = s.tick := rfl
@[simp] theorem State.wr_cyc (s : State) (r : SReg) (v : W64) : (s.wr r v).cyc = s.cyc := rfl
@[simp] theorem State.wr_mem (s : State) (r : SReg) (v : W64) : (s.wr r v).mem = s.mem := rfl
@[simp] theorem State.wr_hostMem (s : State) (r : SReg) (v : W64) : (s.wr r v).hostMem = s.hostMem := rfl
@[simp] theorem State.wr_bad (s : State) (r : SReg) (v : W64) : (s.wr r v).bad = s.bad := rfl
@[simp] theorem State.wr_soft (s : State) (r : SReg) (v : W64) : (s.wr r v).soft = s.soft := rfl
@[simp] theorem State.wr_ctxs (s : State) (r : SReg) (v : W64) : (s.wr r v).ctxs = s.ctxs := rfl
@[simp] theorem State.wr_queues (s : State) (r : SReg) (v : W64) : (s.wr r v).queues = s.queues := rfl
@[simp] theorem State.wr_yards (s : State) (r : SReg) (v : W64) : (s.wr r v).yards = s.yards := rfl
@[simp] theorem State.wr_stables (s : State) (r : SReg) (v : W64) : (s.wr r v).stables = s.stables := rfl
@[simp] theorem State.wr_routers (s : State) (r : SReg) (v : W64) : (s.wr r v).routers = s.routers := rfl
@[simp] theorem State.wr_lanes (s : State) (r : SReg) (v : W64) : (s.wr r v).lanes = s.lanes := rfl
@[simp] theorem State.wr_dies (s : State) (r : SReg) (v : W64) : (s.wr r v).dies = s.dies := rfl
@[simp] theorem State.wr_modules (s : State) (r : SReg) (v : W64) : (s.wr r v).modules = s.modules := rfl
@[simp] theorem State.wr_inc (s : State) (r : SReg) (v : W64) : (s.wr r v).inc = s.inc := rfl
@[simp] theorem State.wr_prevInc (s : State) (r : SReg) (v : W64) : (s.wr r v).prevInc = s.prevInc := rfl
@[simp] theorem State.wr_powered (s : State) (r : SReg) (v : W64) : (s.wr r v).powered = s.powered := rfl
@[simp] theorem State.wr_frozen (s : State) (r : SReg) (v : W64) : (s.wr r v).frozen = s.frozen := rfl
@[simp] theorem State.wr_bootst (s : State) (r : SReg) (v : W64) : (s.wr r v).bootst = s.bootst := rfl
@[simp] theorem State.wr_pwrcap (s : State) (r : SReg) (v : W64) : (s.wr r v).pwrcap = s.pwrcap := rfl
@[simp] theorem State.wr_pwrnow (s : State) (r : SReg) (v : W64) : (s.wr r v).pwrnow = s.pwrnow := rfl
@[simp] theorem State.wr_rampcfg (s : State) (r : SReg) (v : W64) : (s.wr r v).rampcfg = s.rampcfg := rfl
@[simp] theorem State.wr_rampNow (s : State) (r : SReg) (v : W64) : (s.wr r v).rampNow = s.rampNow := rfl
@[simp] theorem State.wr_capNow (s : State) (r : SReg) (v : W64) : (s.wr r v).capNow = s.capNow := rfl
@[simp] theorem State.wr_capped (s : State) (r : SReg) (v : W64) : (s.wr r v).capped = s.capped := rfl
@[simp] theorem State.wr_rampAt (s : State) (r : SReg) (v : W64) : (s.wr r v).rampAt = s.rampAt := rfl
@[simp] theorem State.wr_ramps (s : State) (r : SReg) (v : W64) : (s.wr r v).ramps = s.ramps := rfl
@[simp] theorem State.wr_ramptel (s : State) (r : SReg) (v : W64) : (s.wr r v).ramptel = s.ramptel := rfl
@[simp] theorem State.wr_coolst (s : State) (r : SReg) (v : W64) : (s.wr r v).coolst = s.coolst := rfl
@[simp] theorem State.wr_recWin (s : State) (r : SReg) (v : W64) : (s.wr r v).recWin = s.recWin := rfl
@[simp] theorem State.wr_image (s : State) (r : SReg) (v : W64) : (s.wr r v).image = s.image := rfl
@[simp] theorem State.wr_mapRr (s : State) (r : SReg) (v : W64) : (s.wr r v).mapRr = s.mapRr := rfl
@[simp] theorem State.wr_hubRot (s : State) (r : SReg) (v : W64) : (s.wr r v).hubRot = s.hubRot := rfl
@[simp] theorem State.wr_reqs (s : State) (r : SReg) (v : W64) : (s.wr r v).reqs = s.reqs := rfl
@[simp] theorem State.wr_nextTag (s : State) (r : SReg) (v : W64) : (s.wr r v).nextTag = s.nextTag := rfl
@[simp] theorem State.wr_outbox (s : State) (r : SReg) (v : W64) : (s.wr r v).outbox = s.outbox := rfl

/-! ### State.wp -/

@[simp] theorem State.wp_core (s : State) (r : PReg) (v : Bool) : (s.wp r v).core = s.core.wp r v := rfl
@[simp] theorem State.wp_peers (s : State) (r : PReg) (v : Bool) : (s.wp r v).peers = s.peers := rfl
@[simp] theorem State.wp_sched (s : State) (r : PReg) (v : Bool) : (s.wp r v).sched = s.sched := rfl
@[simp] theorem State.wp_tick (s : State) (r : PReg) (v : Bool) : (s.wp r v).tick = s.tick := rfl
@[simp] theorem State.wp_cyc (s : State) (r : PReg) (v : Bool) : (s.wp r v).cyc = s.cyc := rfl
@[simp] theorem State.wp_mem (s : State) (r : PReg) (v : Bool) : (s.wp r v).mem = s.mem := rfl
@[simp] theorem State.wp_hostMem (s : State) (r : PReg) (v : Bool) : (s.wp r v).hostMem = s.hostMem := rfl
@[simp] theorem State.wp_bad (s : State) (r : PReg) (v : Bool) : (s.wp r v).bad = s.bad := rfl
@[simp] theorem State.wp_soft (s : State) (r : PReg) (v : Bool) : (s.wp r v).soft = s.soft := rfl
@[simp] theorem State.wp_ctxs (s : State) (r : PReg) (v : Bool) : (s.wp r v).ctxs = s.ctxs := rfl
@[simp] theorem State.wp_queues (s : State) (r : PReg) (v : Bool) : (s.wp r v).queues = s.queues := rfl
@[simp] theorem State.wp_yards (s : State) (r : PReg) (v : Bool) : (s.wp r v).yards = s.yards := rfl
@[simp] theorem State.wp_stables (s : State) (r : PReg) (v : Bool) : (s.wp r v).stables = s.stables := rfl
@[simp] theorem State.wp_routers (s : State) (r : PReg) (v : Bool) : (s.wp r v).routers = s.routers := rfl
@[simp] theorem State.wp_lanes (s : State) (r : PReg) (v : Bool) : (s.wp r v).lanes = s.lanes := rfl
@[simp] theorem State.wp_dies (s : State) (r : PReg) (v : Bool) : (s.wp r v).dies = s.dies := rfl
@[simp] theorem State.wp_modules (s : State) (r : PReg) (v : Bool) : (s.wp r v).modules = s.modules := rfl
@[simp] theorem State.wp_inc (s : State) (r : PReg) (v : Bool) : (s.wp r v).inc = s.inc := rfl
@[simp] theorem State.wp_prevInc (s : State) (r : PReg) (v : Bool) : (s.wp r v).prevInc = s.prevInc := rfl
@[simp] theorem State.wp_powered (s : State) (r : PReg) (v : Bool) : (s.wp r v).powered = s.powered := rfl
@[simp] theorem State.wp_frozen (s : State) (r : PReg) (v : Bool) : (s.wp r v).frozen = s.frozen := rfl
@[simp] theorem State.wp_bootst (s : State) (r : PReg) (v : Bool) : (s.wp r v).bootst = s.bootst := rfl
@[simp] theorem State.wp_pwrcap (s : State) (r : PReg) (v : Bool) : (s.wp r v).pwrcap = s.pwrcap := rfl
@[simp] theorem State.wp_pwrnow (s : State) (r : PReg) (v : Bool) : (s.wp r v).pwrnow = s.pwrnow := rfl
@[simp] theorem State.wp_rampcfg (s : State) (r : PReg) (v : Bool) : (s.wp r v).rampcfg = s.rampcfg := rfl
@[simp] theorem State.wp_rampNow (s : State) (r : PReg) (v : Bool) : (s.wp r v).rampNow = s.rampNow := rfl
@[simp] theorem State.wp_capNow (s : State) (r : PReg) (v : Bool) : (s.wp r v).capNow = s.capNow := rfl
@[simp] theorem State.wp_capped (s : State) (r : PReg) (v : Bool) : (s.wp r v).capped = s.capped := rfl
@[simp] theorem State.wp_rampAt (s : State) (r : PReg) (v : Bool) : (s.wp r v).rampAt = s.rampAt := rfl
@[simp] theorem State.wp_ramps (s : State) (r : PReg) (v : Bool) : (s.wp r v).ramps = s.ramps := rfl
@[simp] theorem State.wp_ramptel (s : State) (r : PReg) (v : Bool) : (s.wp r v).ramptel = s.ramptel := rfl
@[simp] theorem State.wp_coolst (s : State) (r : PReg) (v : Bool) : (s.wp r v).coolst = s.coolst := rfl
@[simp] theorem State.wp_recWin (s : State) (r : PReg) (v : Bool) : (s.wp r v).recWin = s.recWin := rfl
@[simp] theorem State.wp_image (s : State) (r : PReg) (v : Bool) : (s.wp r v).image = s.image := rfl
@[simp] theorem State.wp_mapRr (s : State) (r : PReg) (v : Bool) : (s.wp r v).mapRr = s.mapRr := rfl
@[simp] theorem State.wp_hubRot (s : State) (r : PReg) (v : Bool) : (s.wp r v).hubRot = s.hubRot := rfl
@[simp] theorem State.wp_reqs (s : State) (r : PReg) (v : Bool) : (s.wp r v).reqs = s.reqs := rfl
@[simp] theorem State.wp_nextTag (s : State) (r : PReg) (v : Bool) : (s.wp r v).nextTag = s.nextTag := rfl
@[simp] theorem State.wp_outbox (s : State) (r : PReg) (v : Bool) : (s.wp r v).outbox = s.outbox := rfl

/-! ### State.wk -/

@[simp] theorem State.wk_core (s : State) (r : KReg) (v : Handle) : (s.wk r v).core = s.core.wk r v := rfl
@[simp] theorem State.wk_peers (s : State) (r : KReg) (v : Handle) : (s.wk r v).peers = s.peers := rfl
@[simp] theorem State.wk_sched (s : State) (r : KReg) (v : Handle) : (s.wk r v).sched = s.sched := rfl
@[simp] theorem State.wk_tick (s : State) (r : KReg) (v : Handle) : (s.wk r v).tick = s.tick := rfl
@[simp] theorem State.wk_cyc (s : State) (r : KReg) (v : Handle) : (s.wk r v).cyc = s.cyc := rfl
@[simp] theorem State.wk_mem (s : State) (r : KReg) (v : Handle) : (s.wk r v).mem = s.mem := rfl
@[simp] theorem State.wk_hostMem (s : State) (r : KReg) (v : Handle) : (s.wk r v).hostMem = s.hostMem := rfl
@[simp] theorem State.wk_bad (s : State) (r : KReg) (v : Handle) : (s.wk r v).bad = s.bad := rfl
@[simp] theorem State.wk_soft (s : State) (r : KReg) (v : Handle) : (s.wk r v).soft = s.soft := rfl
@[simp] theorem State.wk_ctxs (s : State) (r : KReg) (v : Handle) : (s.wk r v).ctxs = s.ctxs := rfl
@[simp] theorem State.wk_queues (s : State) (r : KReg) (v : Handle) : (s.wk r v).queues = s.queues := rfl
@[simp] theorem State.wk_yards (s : State) (r : KReg) (v : Handle) : (s.wk r v).yards = s.yards := rfl
@[simp] theorem State.wk_stables (s : State) (r : KReg) (v : Handle) : (s.wk r v).stables = s.stables := rfl
@[simp] theorem State.wk_routers (s : State) (r : KReg) (v : Handle) : (s.wk r v).routers = s.routers := rfl
@[simp] theorem State.wk_lanes (s : State) (r : KReg) (v : Handle) : (s.wk r v).lanes = s.lanes := rfl
@[simp] theorem State.wk_dies (s : State) (r : KReg) (v : Handle) : (s.wk r v).dies = s.dies := rfl
@[simp] theorem State.wk_modules (s : State) (r : KReg) (v : Handle) : (s.wk r v).modules = s.modules := rfl
@[simp] theorem State.wk_inc (s : State) (r : KReg) (v : Handle) : (s.wk r v).inc = s.inc := rfl
@[simp] theorem State.wk_prevInc (s : State) (r : KReg) (v : Handle) : (s.wk r v).prevInc = s.prevInc := rfl
@[simp] theorem State.wk_powered (s : State) (r : KReg) (v : Handle) : (s.wk r v).powered = s.powered := rfl
@[simp] theorem State.wk_frozen (s : State) (r : KReg) (v : Handle) : (s.wk r v).frozen = s.frozen := rfl
@[simp] theorem State.wk_bootst (s : State) (r : KReg) (v : Handle) : (s.wk r v).bootst = s.bootst := rfl
@[simp] theorem State.wk_pwrcap (s : State) (r : KReg) (v : Handle) : (s.wk r v).pwrcap = s.pwrcap := rfl
@[simp] theorem State.wk_pwrnow (s : State) (r : KReg) (v : Handle) : (s.wk r v).pwrnow = s.pwrnow := rfl
@[simp] theorem State.wk_rampcfg (s : State) (r : KReg) (v : Handle) : (s.wk r v).rampcfg = s.rampcfg := rfl
@[simp] theorem State.wk_rampNow (s : State) (r : KReg) (v : Handle) : (s.wk r v).rampNow = s.rampNow := rfl
@[simp] theorem State.wk_capNow (s : State) (r : KReg) (v : Handle) : (s.wk r v).capNow = s.capNow := rfl
@[simp] theorem State.wk_capped (s : State) (r : KReg) (v : Handle) : (s.wk r v).capped = s.capped := rfl
@[simp] theorem State.wk_rampAt (s : State) (r : KReg) (v : Handle) : (s.wk r v).rampAt = s.rampAt := rfl
@[simp] theorem State.wk_ramps (s : State) (r : KReg) (v : Handle) : (s.wk r v).ramps = s.ramps := rfl
@[simp] theorem State.wk_ramptel (s : State) (r : KReg) (v : Handle) : (s.wk r v).ramptel = s.ramptel := rfl
@[simp] theorem State.wk_coolst (s : State) (r : KReg) (v : Handle) : (s.wk r v).coolst = s.coolst := rfl
@[simp] theorem State.wk_recWin (s : State) (r : KReg) (v : Handle) : (s.wk r v).recWin = s.recWin := rfl
@[simp] theorem State.wk_image (s : State) (r : KReg) (v : Handle) : (s.wk r v).image = s.image := rfl
@[simp] theorem State.wk_mapRr (s : State) (r : KReg) (v : Handle) : (s.wk r v).mapRr = s.mapRr := rfl
@[simp] theorem State.wk_hubRot (s : State) (r : KReg) (v : Handle) : (s.wk r v).hubRot = s.hubRot := rfl
@[simp] theorem State.wk_reqs (s : State) (r : KReg) (v : Handle) : (s.wk r v).reqs = s.reqs := rfl
@[simp] theorem State.wk_nextTag (s : State) (r : KReg) (v : Handle) : (s.wk r v).nextTag = s.nextTag := rfl
@[simp] theorem State.wk_outbox (s : State) (r : KReg) (v : Handle) : (s.wk r v).outbox = s.outbox := rfl

/-! ### Core.wr -/

@[simp] theorem Core.wr_st (c : Core) (r : SReg) (v : W64) : (c.wr r v).st = c.st := by unfold Core.wr; split <;> rfl
@[simp] theorem Core.wr_pcid (c : Core) (r : SReg) (v : W64) : (c.wr r v).pcid = c.pcid := by unfold Core.wr; split <;> rfl
@[simp] theorem Core.wr_queue (c : Core) (r : SReg) (v : W64) : (c.wr r v).queue = c.queue := by unfold Core.wr; split <;> rfl
@[simp] theorem Core.wr_pc (c : Core) (r : SReg) (v : W64) : (c.wr r v).pc = c.pc := by unfold Core.wr; split <;> rfl
@[simp] theorem Core.wr_obj (c : Core) (r : SReg) (v : W64) : (c.wr r v).obj = c.obj := by unfold Core.wr; split <;> rfl
@[simp] theorem Core.wr_latch (c : Core) (r : SReg) (v : W64) : (c.wr r v).latch = c.latch := by unfold Core.wr; split <;> rfl
@[simp] theorem Core.wr_p (c : Core) (r : SReg) (v : W64) : (c.wr r v).p = c.p := by unfold Core.wr; split <;> rfl
@[simp] theorem Core.wr_k (c : Core) (r : SReg) (v : W64) : (c.wr r v).k = c.k := by unfold Core.wr; split <;> rfl
@[simp] theorem Core.wr_tiles (c : Core) (r : SReg) (v : W64) : (c.wr r v).tiles = c.tiles := by unfold Core.wr; split <;> rfl
@[simp] theorem Core.wr_types (c : Core) (r : SReg) (v : W64) : (c.wr r v).types = c.types := by unfold Core.wr; split <;> rfl
@[simp] theorem Core.wr_lcn (c : Core) (r : SReg) (v : W64) : (c.wr r v).lcn = c.lcn := by unfold Core.wr; split <;> rfl
@[simp] theorem Core.wr_ncores (c : Core) (r : SReg) (v : W64) : (c.wr r v).ncores = c.ncores := by unfold Core.wr; split <;> rfl
@[simp] theorem Core.wr_ltorus (c : Core) (r : SReg) (v : W64) : (c.wr r v).ltorus = c.ltorus := by unfold Core.wr; split <;> rfl
@[simp] theorem Core.wr_dom (c : Core) (r : SReg) (v : W64) : (c.wr r v).dom = c.dom := by unfold Core.wr; split <;> rfl
@[simp] theorem Core.wr_domph (c : Core) (r : SReg) (v : W64) : (c.wr r v).domph = c.domph := by unfold Core.wr; split <;> rfl
@[simp] theorem Core.wr_jobseed (c : Core) (r : SReg) (v : W64) : (c.wr r v).jobseed = c.jobseed := by unfold Core.wr; split <;> rfl
@[simp] theorem Core.wr_gangst (c : Core) (r : SReg) (v : W64) : (c.wr r v).gangst = c.gangst := by unfold Core.wr; split <;> rfl
@[simp] theorem Core.wr_streamid (c : Core) (r : SReg) (v : W64) : (c.wr r v).streamid = c.streamid := by unfold Core.wr; split <;> rfl
@[simp] theorem Core.wr_mintkey (c : Core) (r : SReg) (v : W64) : (c.wr r v).mintkey = c.mintkey := by unfold Core.wr; split <;> rfl
@[simp] theorem Core.wr_srsite (c : Core) (r : SReg) (v : W64) : (c.wr r v).srsite = c.srsite := by unfold Core.wr; split <;> rfl
@[simp] theorem Core.wr_srbase (c : Core) (r : SReg) (v : W64) : (c.wr r v).srbase = c.srbase := by unfold Core.wr; split <;> rfl
@[simp] theorem Core.wr_fflags (c : Core) (r : SReg) (v : W64) : (c.wr r v).fflags = c.fflags := by unfold Core.wr; split <;> rfl
@[simp] theorem Core.wr_frm (c : Core) (r : SReg) (v : W64) : (c.wr r v).frm = c.frm := by unfold Core.wr; split <;> rfl
@[simp] theorem Core.wr_vrm (c : Core) (r : SReg) (v : W64) : (c.wr r v).vrm = c.vrm := by unfold Core.wr; split <;> rfl
@[simp] theorem Core.wr_cause (c : Core) (r : SReg) (v : W64) : (c.wr r v).cause = c.cause := by unfold Core.wr; split <;> rfl
@[simp] theorem Core.wr_tval (c : Core) (r : SReg) (v : W64) : (c.wr r v).tval = c.tval := by unfold Core.wr; split <;> rfl
@[simp] theorem Core.wr_epc (c : Core) (r : SReg) (v : W64) : (c.wr r v).epc = c.epc := by unfold Core.wr; split <;> rfl
@[simp] theorem Core.wr_raised (c : Core) (r : SReg) (v : W64) : (c.wr r v).raised = c.raised := by unfold Core.wr; split <;> rfl
@[simp] theorem Core.wr_tseq (c : Core) (r : SReg) (v : W64) : (c.wr r v).tseq = c.tseq := by unfold Core.wr; split <;> rfl
@[simp] theorem Core.wr_shdone (c : Core) (r : SReg) (v : W64) : (c.wr r v).shdone = c.shdone := by unfold Core.wr; split <;> rfl
@[simp] theorem Core.wr_rptst (c : Core) (r : SReg) (v : W64) : (c.wr r v).rptst = c.rptst := by unfold Core.wr; split <;> rfl
@[simp] theorem Core.wr_fstat (c : Core) (r : SReg) (v : W64) : (c.wr r v).fstat = c.fstat := by unfold Core.wr; split <;> rfl
@[simp] theorem Core.wr_evlatch (c : Core) (r : SReg) (v : W64) : (c.wr r v).evlatch = c.evlatch := by unfold Core.wr; split <;> rfl
@[simp] theorem Core.wr_vshare (c : Core) (r : SReg) (v : W64) : (c.wr r v).vshare = c.vshare := by unfold Core.wr; split <;> rfl
@[simp] theorem Core.wr_copyperm (c : Core) (r : SReg) (v : W64) : (c.wr r v).copyperm = c.copyperm := by unfold Core.wr; split <;> rfl
@[simp] theorem Core.wr_penbase (c : Core) (r : SReg) (v : W64) : (c.wr r v).penbase = c.penbase := by unfold Core.wr; split <;> rfl
@[simp] theorem Core.wr_pensize (c : Core) (r : SReg) (v : W64) : (c.wr r v).pensize = c.pensize := by unfold Core.wr; split <;> rfl
@[simp] theorem Core.wr_tkbase (c : Core) (r : SReg) (v : W64) : (c.wr r v).tkbase = c.tkbase := by unfold Core.wr; split <;> rfl
@[simp] theorem Core.wr_tksize (c : Core) (r : SReg) (v : W64) : (c.wr r v).tksize = c.tksize := by unfold Core.wr; split <;> rfl
@[simp] theorem Core.wr_steallvl (c : Core) (r : SReg) (v : W64) : (c.wr r v).steallvl = c.steallvl := by unfold Core.wr; split <;> rfl
@[simp] theorem Core.wr_stealtry (c : Core) (r : SReg) (v : W64) : (c.wr r v).stealtry = c.stealtry := by unfold Core.wr; split <;> rfl
@[simp] theorem Core.wr_twin (c : Core) (r : SReg) (v : W64) : (c.wr r v).twin = c.twin := by unfold Core.wr; split <;> rfl
@[simp] theorem Core.wr_migthresh (c : Core) (r : SReg) (v : W64) : (c.wr r v).migthresh = c.migthresh := by unfold Core.wr; split <;> rfl
@[simp] theorem Core.wr_bayfmt (c : Core) (r : SReg) (v : W64) : (c.wr r v).bayfmt = c.bayfmt := by unfold Core.wr; split <;> rfl
@[simp] theorem Core.wr_lmin (c : Core) (r : SReg) (v : W64) : (c.wr r v).lmin = c.lmin := by unfold Core.wr; split <;> rfl
@[simp] theorem Core.wr_lmem (c : Core) (r : SReg) (v : W64) : (c.wr r v).lmem = c.lmem := by unfold Core.wr; split <;> rfl
@[simp] theorem Core.wr_empties (c : Core) (r : SReg) (v : W64) : (c.wr r v).empties = c.empties := by unfold Core.wr; split <;> rfl
@[simp] theorem Core.wr_desc (c : Core) (r : SReg) (v : W64) : (c.wr r v).desc = c.desc := by unfold Core.wr; split <;> rfl
@[simp] theorem Core.wr_ports (c : Core) (r : SReg) (v : W64) : (c.wr r v).ports = c.ports := by unfold Core.wr; split <;> rfl
@[simp] theorem Core.wr_modp (c : Core) (r : SReg) (v : W64) : (c.wr r v).modp = c.modp := by unfold Core.wr; split <;> rfl
@[simp] theorem Core.wr_frame (c : Core) (r : SReg) (v : W64) : (c.wr r v).frame = c.frame := by unfold Core.wr; split <;> rfl
@[simp] theorem Core.wr_shadow (c : Core) (r : SReg) (v : W64) : (c.wr r v).shadow = c.shadow := by unfold Core.wr; split <;> rfl
@[simp] theorem Core.wr_resume (c : Core) (r : SReg) (v : W64) : (c.wr r v).resume = c.resume := by unfold Core.wr; split <;> rfl
@[simp] theorem Core.wr_cq (c : Core) (r : SReg) (v : W64) : (c.wr r v).cq = c.cq := by unfold Core.wr; split <;> rfl
@[simp] theorem Core.wr_cqNext (c : Core) (r : SReg) (v : W64) : (c.wr r v).cqNext = c.cqNext := by unfold Core.wr; split <;> rfl
@[simp] theorem Core.wr_mx (c : Core) (r : SReg) (v : W64) : (c.wr r v).mx = c.mx := by unfold Core.wr; split <;> rfl
@[simp] theorem Core.wr_cf (c : Core) (r : SReg) (v : W64) : (c.wr r v).cf = c.cf := by unfold Core.wr; split <;> rfl
@[simp] theorem Core.wr_slots (c : Core) (r : SReg) (v : W64) : (c.wr r v).slots = c.slots := by unfold Core.wr; split <;> rfl
@[simp] theorem Core.wr_deque (c : Core) (r : SReg) (v : W64) : (c.wr r v).deque = c.deque := by unfold Core.wr; split <;> rfl
@[simp] theorem Core.wr_task (c : Core) (r : SReg) (v : W64) : (c.wr r v).task = c.task := by unfold Core.wr; split <;> rfl
@[simp] theorem Core.wr_kpops (c : Core) (r : SReg) (v : W64) : (c.wr r v).kpops = c.kpops := by unfold Core.wr; split <;> rfl
@[simp] theorem Core.wr_probe (c : Core) (r : SReg) (v : W64) : (c.wr r v).probe = c.probe := by unfold Core.wr; split <;> rfl
@[simp] theorem Core.wr_wsret (c : Core) (r : SReg) (v : W64) : (c.wr r v).wsret = c.wsret := by unfold Core.wr; split <;> rfl
@[simp] theorem Core.wr_stash (c : Core) (r : SReg) (v : W64) : (c.wr r v).stash = c.stash := by unfold Core.wr; split <;> rfl
@[simp] theorem Core.wr_lent (c : Core) (r : SReg) (v : W64) : (c.wr r v).lent = c.lent := by unfold Core.wr; split <;> rfl
@[simp] theorem Core.wr_erd (c : Core) (r : SReg) (v : W64) : (c.wr r v).erd = c.erd := by unfold Core.wr; split <;> rfl
@[simp] theorem Core.wr_dack (c : Core) (r : SReg) (v : W64) : (c.wr r v).dack = c.dack := by unfold Core.wr; split <;> rfl
@[simp] theorem Core.wr_raceLost (c : Core) (r : SReg) (v : W64) : (c.wr r v).raceLost = c.raceLost := by unfold Core.wr; split <;> rfl
@[simp] theorem Core.wr_rx (c : Core) (r : SReg) (v : W64) : (c.wr r v).rx = c.rx := by unfold Core.wr; split <;> rfl
@[simp] theorem Core.wr_penAt (c : Core) (r : SReg) (v : W64) : (c.wr r v).penAt = c.penAt := by unfold Core.wr; split <;> rfl
@[simp] theorem Core.wr_posted (c : Core) (r : SReg) (v : W64) : (c.wr r v).posted = c.posted := by unfold Core.wr; split <;> rfl
@[simp] theorem Core.wr_far (c : Core) (r : SReg) (v : W64) : (c.wr r v).far = c.far := by unfold Core.wr; split <;> rfl
@[simp] theorem Core.wr_episodes (c : Core) (r : SReg) (v : W64) : (c.wr r v).episodes = c.episodes := by unfold Core.wr; split <;> rfl
@[simp] theorem Core.wr_arrival (c : Core) (r : SReg) (v : W64) : (c.wr r v).arrival = c.arrival := by unfold Core.wr; split <;> rfl
@[simp] theorem Core.wr_owed (c : Core) (r : SReg) (v : W64) : (c.wr r v).owed = c.owed := by unfold Core.wr; split <;> rfl
@[simp] theorem Core.wr_xch (c : Core) (r : SReg) (v : W64) : (c.wr r v).xch = c.xch := by unfold Core.wr; split <;> rfl
@[simp] theorem Core.wr_utlb (c : Core) (r : SReg) (v : W64) : (c.wr r v).utlb = c.utlb := by unfold Core.wr; split <;> rfl
@[simp] theorem Core.wr_l1 (c : Core) (r : SReg) (v : W64) : (c.wr r v).l1 = c.l1 := by unfold Core.wr; split <;> rfl
@[simp] theorem Core.wr_fwd (c : Core) (r : SReg) (v : W64) : (c.wr r v).fwd = c.fwd := by unfold Core.wr; split <;> rfl
@[simp] theorem Core.wr_gangWait (c : Core) (r : SReg) (v : W64) : (c.wr r v).gangWait = c.gangWait := by unfold Core.wr; split <;> rfl
@[simp] theorem Core.wr_unsent (c : Core) (r : SReg) (v : W64) : (c.wr r v).unsent = c.unsent := by unfold Core.wr; split <;> rfl
@[simp] theorem Core.wr_retained (c : Core) (r : SReg) (v : W64) : (c.wr r v).retained = c.retained := by unfold Core.wr; split <;> rfl
@[simp] theorem Core.wr_saveArrived (c : Core) (r : SReg) (v : W64) : (c.wr r v).saveArrived = c.saveArrived := by unfold Core.wr; split <;> rfl
@[simp] theorem Core.wr_saveTrapped (c : Core) (r : SReg) (v : W64) : (c.wr r v).saveTrapped = c.saveTrapped := by unfold Core.wr; split <;> rfl
@[simp] theorem Core.wr_placed (c : Core) (r : SReg) (v : W64) : (c.wr r v).placed = c.placed := by unfold Core.wr; split <;> rfl

/-! ### Core.wp -/

@[simp] theorem Core.wp_st (c : Core) (r : PReg) (v : Bool) : (c.wp r v).st = c.st := by unfold Core.wp; split <;> rfl
@[simp] theorem Core.wp_pcid (c : Core) (r : PReg) (v : Bool) : (c.wp r v).pcid = c.pcid := by unfold Core.wp; split <;> rfl
@[simp] theorem Core.wp_queue (c : Core) (r : PReg) (v : Bool) : (c.wp r v).queue = c.queue := by unfold Core.wp; split <;> rfl
@[simp] theorem Core.wp_pc (c : Core) (r : PReg) (v : Bool) : (c.wp r v).pc = c.pc := by unfold Core.wp; split <;> rfl
@[simp] theorem Core.wp_obj (c : Core) (r : PReg) (v : Bool) : (c.wp r v).obj = c.obj := by unfold Core.wp; split <;> rfl
@[simp] theorem Core.wp_latch (c : Core) (r : PReg) (v : Bool) : (c.wp r v).latch = c.latch := by unfold Core.wp; split <;> rfl
@[simp] theorem Core.wp_s (c : Core) (r : PReg) (v : Bool) : (c.wp r v).s = c.s := by unfold Core.wp; split <;> rfl
@[simp] theorem Core.wp_k (c : Core) (r : PReg) (v : Bool) : (c.wp r v).k = c.k := by unfold Core.wp; split <;> rfl
@[simp] theorem Core.wp_tiles (c : Core) (r : PReg) (v : Bool) : (c.wp r v).tiles = c.tiles := by unfold Core.wp; split <;> rfl
@[simp] theorem Core.wp_types (c : Core) (r : PReg) (v : Bool) : (c.wp r v).types = c.types := by unfold Core.wp; split <;> rfl
@[simp] theorem Core.wp_lcn (c : Core) (r : PReg) (v : Bool) : (c.wp r v).lcn = c.lcn := by unfold Core.wp; split <;> rfl
@[simp] theorem Core.wp_ncores (c : Core) (r : PReg) (v : Bool) : (c.wp r v).ncores = c.ncores := by unfold Core.wp; split <;> rfl
@[simp] theorem Core.wp_ltorus (c : Core) (r : PReg) (v : Bool) : (c.wp r v).ltorus = c.ltorus := by unfold Core.wp; split <;> rfl
@[simp] theorem Core.wp_dom (c : Core) (r : PReg) (v : Bool) : (c.wp r v).dom = c.dom := by unfold Core.wp; split <;> rfl
@[simp] theorem Core.wp_domph (c : Core) (r : PReg) (v : Bool) : (c.wp r v).domph = c.domph := by unfold Core.wp; split <;> rfl
@[simp] theorem Core.wp_jobseed (c : Core) (r : PReg) (v : Bool) : (c.wp r v).jobseed = c.jobseed := by unfold Core.wp; split <;> rfl
@[simp] theorem Core.wp_gangst (c : Core) (r : PReg) (v : Bool) : (c.wp r v).gangst = c.gangst := by unfold Core.wp; split <;> rfl
@[simp] theorem Core.wp_streamid (c : Core) (r : PReg) (v : Bool) : (c.wp r v).streamid = c.streamid := by unfold Core.wp; split <;> rfl
@[simp] theorem Core.wp_mintkey (c : Core) (r : PReg) (v : Bool) : (c.wp r v).mintkey = c.mintkey := by unfold Core.wp; split <;> rfl
@[simp] theorem Core.wp_srsite (c : Core) (r : PReg) (v : Bool) : (c.wp r v).srsite = c.srsite := by unfold Core.wp; split <;> rfl
@[simp] theorem Core.wp_srbase (c : Core) (r : PReg) (v : Bool) : (c.wp r v).srbase = c.srbase := by unfold Core.wp; split <;> rfl
@[simp] theorem Core.wp_fflags (c : Core) (r : PReg) (v : Bool) : (c.wp r v).fflags = c.fflags := by unfold Core.wp; split <;> rfl
@[simp] theorem Core.wp_frm (c : Core) (r : PReg) (v : Bool) : (c.wp r v).frm = c.frm := by unfold Core.wp; split <;> rfl
@[simp] theorem Core.wp_vrm (c : Core) (r : PReg) (v : Bool) : (c.wp r v).vrm = c.vrm := by unfold Core.wp; split <;> rfl
@[simp] theorem Core.wp_cause (c : Core) (r : PReg) (v : Bool) : (c.wp r v).cause = c.cause := by unfold Core.wp; split <;> rfl
@[simp] theorem Core.wp_tval (c : Core) (r : PReg) (v : Bool) : (c.wp r v).tval = c.tval := by unfold Core.wp; split <;> rfl
@[simp] theorem Core.wp_epc (c : Core) (r : PReg) (v : Bool) : (c.wp r v).epc = c.epc := by unfold Core.wp; split <;> rfl
@[simp] theorem Core.wp_raised (c : Core) (r : PReg) (v : Bool) : (c.wp r v).raised = c.raised := by unfold Core.wp; split <;> rfl
@[simp] theorem Core.wp_tseq (c : Core) (r : PReg) (v : Bool) : (c.wp r v).tseq = c.tseq := by unfold Core.wp; split <;> rfl
@[simp] theorem Core.wp_shdone (c : Core) (r : PReg) (v : Bool) : (c.wp r v).shdone = c.shdone := by unfold Core.wp; split <;> rfl
@[simp] theorem Core.wp_rptst (c : Core) (r : PReg) (v : Bool) : (c.wp r v).rptst = c.rptst := by unfold Core.wp; split <;> rfl
@[simp] theorem Core.wp_fstat (c : Core) (r : PReg) (v : Bool) : (c.wp r v).fstat = c.fstat := by unfold Core.wp; split <;> rfl
@[simp] theorem Core.wp_evlatch (c : Core) (r : PReg) (v : Bool) : (c.wp r v).evlatch = c.evlatch := by unfold Core.wp; split <;> rfl
@[simp] theorem Core.wp_vshare (c : Core) (r : PReg) (v : Bool) : (c.wp r v).vshare = c.vshare := by unfold Core.wp; split <;> rfl
@[simp] theorem Core.wp_copyperm (c : Core) (r : PReg) (v : Bool) : (c.wp r v).copyperm = c.copyperm := by unfold Core.wp; split <;> rfl
@[simp] theorem Core.wp_penbase (c : Core) (r : PReg) (v : Bool) : (c.wp r v).penbase = c.penbase := by unfold Core.wp; split <;> rfl
@[simp] theorem Core.wp_pensize (c : Core) (r : PReg) (v : Bool) : (c.wp r v).pensize = c.pensize := by unfold Core.wp; split <;> rfl
@[simp] theorem Core.wp_tkbase (c : Core) (r : PReg) (v : Bool) : (c.wp r v).tkbase = c.tkbase := by unfold Core.wp; split <;> rfl
@[simp] theorem Core.wp_tksize (c : Core) (r : PReg) (v : Bool) : (c.wp r v).tksize = c.tksize := by unfold Core.wp; split <;> rfl
@[simp] theorem Core.wp_steallvl (c : Core) (r : PReg) (v : Bool) : (c.wp r v).steallvl = c.steallvl := by unfold Core.wp; split <;> rfl
@[simp] theorem Core.wp_stealtry (c : Core) (r : PReg) (v : Bool) : (c.wp r v).stealtry = c.stealtry := by unfold Core.wp; split <;> rfl
@[simp] theorem Core.wp_twin (c : Core) (r : PReg) (v : Bool) : (c.wp r v).twin = c.twin := by unfold Core.wp; split <;> rfl
@[simp] theorem Core.wp_migthresh (c : Core) (r : PReg) (v : Bool) : (c.wp r v).migthresh = c.migthresh := by unfold Core.wp; split <;> rfl
@[simp] theorem Core.wp_bayfmt (c : Core) (r : PReg) (v : Bool) : (c.wp r v).bayfmt = c.bayfmt := by unfold Core.wp; split <;> rfl
@[simp] theorem Core.wp_lmin (c : Core) (r : PReg) (v : Bool) : (c.wp r v).lmin = c.lmin := by unfold Core.wp; split <;> rfl
@[simp] theorem Core.wp_lmem (c : Core) (r : PReg) (v : Bool) : (c.wp r v).lmem = c.lmem := by unfold Core.wp; split <;> rfl
@[simp] theorem Core.wp_empties (c : Core) (r : PReg) (v : Bool) : (c.wp r v).empties = c.empties := by unfold Core.wp; split <;> rfl
@[simp] theorem Core.wp_desc (c : Core) (r : PReg) (v : Bool) : (c.wp r v).desc = c.desc := by unfold Core.wp; split <;> rfl
@[simp] theorem Core.wp_ports (c : Core) (r : PReg) (v : Bool) : (c.wp r v).ports = c.ports := by unfold Core.wp; split <;> rfl
@[simp] theorem Core.wp_modp (c : Core) (r : PReg) (v : Bool) : (c.wp r v).modp = c.modp := by unfold Core.wp; split <;> rfl
@[simp] theorem Core.wp_frame (c : Core) (r : PReg) (v : Bool) : (c.wp r v).frame = c.frame := by unfold Core.wp; split <;> rfl
@[simp] theorem Core.wp_shadow (c : Core) (r : PReg) (v : Bool) : (c.wp r v).shadow = c.shadow := by unfold Core.wp; split <;> rfl
@[simp] theorem Core.wp_resume (c : Core) (r : PReg) (v : Bool) : (c.wp r v).resume = c.resume := by unfold Core.wp; split <;> rfl
@[simp] theorem Core.wp_cq (c : Core) (r : PReg) (v : Bool) : (c.wp r v).cq = c.cq := by unfold Core.wp; split <;> rfl
@[simp] theorem Core.wp_cqNext (c : Core) (r : PReg) (v : Bool) : (c.wp r v).cqNext = c.cqNext := by unfold Core.wp; split <;> rfl
@[simp] theorem Core.wp_mx (c : Core) (r : PReg) (v : Bool) : (c.wp r v).mx = c.mx := by unfold Core.wp; split <;> rfl
@[simp] theorem Core.wp_cf (c : Core) (r : PReg) (v : Bool) : (c.wp r v).cf = c.cf := by unfold Core.wp; split <;> rfl
@[simp] theorem Core.wp_slots (c : Core) (r : PReg) (v : Bool) : (c.wp r v).slots = c.slots := by unfold Core.wp; split <;> rfl
@[simp] theorem Core.wp_deque (c : Core) (r : PReg) (v : Bool) : (c.wp r v).deque = c.deque := by unfold Core.wp; split <;> rfl
@[simp] theorem Core.wp_task (c : Core) (r : PReg) (v : Bool) : (c.wp r v).task = c.task := by unfold Core.wp; split <;> rfl
@[simp] theorem Core.wp_kpops (c : Core) (r : PReg) (v : Bool) : (c.wp r v).kpops = c.kpops := by unfold Core.wp; split <;> rfl
@[simp] theorem Core.wp_probe (c : Core) (r : PReg) (v : Bool) : (c.wp r v).probe = c.probe := by unfold Core.wp; split <;> rfl
@[simp] theorem Core.wp_wsret (c : Core) (r : PReg) (v : Bool) : (c.wp r v).wsret = c.wsret := by unfold Core.wp; split <;> rfl
@[simp] theorem Core.wp_stash (c : Core) (r : PReg) (v : Bool) : (c.wp r v).stash = c.stash := by unfold Core.wp; split <;> rfl
@[simp] theorem Core.wp_lent (c : Core) (r : PReg) (v : Bool) : (c.wp r v).lent = c.lent := by unfold Core.wp; split <;> rfl
@[simp] theorem Core.wp_erd (c : Core) (r : PReg) (v : Bool) : (c.wp r v).erd = c.erd := by unfold Core.wp; split <;> rfl
@[simp] theorem Core.wp_dack (c : Core) (r : PReg) (v : Bool) : (c.wp r v).dack = c.dack := by unfold Core.wp; split <;> rfl
@[simp] theorem Core.wp_raceLost (c : Core) (r : PReg) (v : Bool) : (c.wp r v).raceLost = c.raceLost := by unfold Core.wp; split <;> rfl
@[simp] theorem Core.wp_rx (c : Core) (r : PReg) (v : Bool) : (c.wp r v).rx = c.rx := by unfold Core.wp; split <;> rfl
@[simp] theorem Core.wp_penAt (c : Core) (r : PReg) (v : Bool) : (c.wp r v).penAt = c.penAt := by unfold Core.wp; split <;> rfl
@[simp] theorem Core.wp_posted (c : Core) (r : PReg) (v : Bool) : (c.wp r v).posted = c.posted := by unfold Core.wp; split <;> rfl
@[simp] theorem Core.wp_far (c : Core) (r : PReg) (v : Bool) : (c.wp r v).far = c.far := by unfold Core.wp; split <;> rfl
@[simp] theorem Core.wp_episodes (c : Core) (r : PReg) (v : Bool) : (c.wp r v).episodes = c.episodes := by unfold Core.wp; split <;> rfl
@[simp] theorem Core.wp_arrival (c : Core) (r : PReg) (v : Bool) : (c.wp r v).arrival = c.arrival := by unfold Core.wp; split <;> rfl
@[simp] theorem Core.wp_owed (c : Core) (r : PReg) (v : Bool) : (c.wp r v).owed = c.owed := by unfold Core.wp; split <;> rfl
@[simp] theorem Core.wp_xch (c : Core) (r : PReg) (v : Bool) : (c.wp r v).xch = c.xch := by unfold Core.wp; split <;> rfl
@[simp] theorem Core.wp_utlb (c : Core) (r : PReg) (v : Bool) : (c.wp r v).utlb = c.utlb := by unfold Core.wp; split <;> rfl
@[simp] theorem Core.wp_l1 (c : Core) (r : PReg) (v : Bool) : (c.wp r v).l1 = c.l1 := by unfold Core.wp; split <;> rfl
@[simp] theorem Core.wp_fwd (c : Core) (r : PReg) (v : Bool) : (c.wp r v).fwd = c.fwd := by unfold Core.wp; split <;> rfl
@[simp] theorem Core.wp_gangWait (c : Core) (r : PReg) (v : Bool) : (c.wp r v).gangWait = c.gangWait := by unfold Core.wp; split <;> rfl
@[simp] theorem Core.wp_unsent (c : Core) (r : PReg) (v : Bool) : (c.wp r v).unsent = c.unsent := by unfold Core.wp; split <;> rfl
@[simp] theorem Core.wp_retained (c : Core) (r : PReg) (v : Bool) : (c.wp r v).retained = c.retained := by unfold Core.wp; split <;> rfl
@[simp] theorem Core.wp_saveArrived (c : Core) (r : PReg) (v : Bool) : (c.wp r v).saveArrived = c.saveArrived := by unfold Core.wp; split <;> rfl
@[simp] theorem Core.wp_saveTrapped (c : Core) (r : PReg) (v : Bool) : (c.wp r v).saveTrapped = c.saveTrapped := by unfold Core.wp; split <;> rfl
@[simp] theorem Core.wp_placed (c : Core) (r : PReg) (v : Bool) : (c.wp r v).placed = c.placed := by unfold Core.wp; split <;> rfl

/-! ### Core.wk -/

@[simp] theorem Core.wk_st (c : Core) (r : KReg) (v : Handle) : (c.wk r v).st = c.st := rfl
@[simp] theorem Core.wk_pcid (c : Core) (r : KReg) (v : Handle) : (c.wk r v).pcid = c.pcid := rfl
@[simp] theorem Core.wk_queue (c : Core) (r : KReg) (v : Handle) : (c.wk r v).queue = c.queue := rfl
@[simp] theorem Core.wk_pc (c : Core) (r : KReg) (v : Handle) : (c.wk r v).pc = c.pc := rfl
@[simp] theorem Core.wk_obj (c : Core) (r : KReg) (v : Handle) : (c.wk r v).obj = c.obj := rfl
@[simp] theorem Core.wk_latch (c : Core) (r : KReg) (v : Handle) : (c.wk r v).latch = c.latch := rfl
@[simp] theorem Core.wk_s (c : Core) (r : KReg) (v : Handle) : (c.wk r v).s = c.s := rfl
@[simp] theorem Core.wk_p (c : Core) (r : KReg) (v : Handle) : (c.wk r v).p = c.p := rfl
@[simp] theorem Core.wk_tiles (c : Core) (r : KReg) (v : Handle) : (c.wk r v).tiles = c.tiles := rfl
@[simp] theorem Core.wk_types (c : Core) (r : KReg) (v : Handle) : (c.wk r v).types = c.types := rfl
@[simp] theorem Core.wk_lcn (c : Core) (r : KReg) (v : Handle) : (c.wk r v).lcn = c.lcn := rfl
@[simp] theorem Core.wk_ncores (c : Core) (r : KReg) (v : Handle) : (c.wk r v).ncores = c.ncores := rfl
@[simp] theorem Core.wk_ltorus (c : Core) (r : KReg) (v : Handle) : (c.wk r v).ltorus = c.ltorus := rfl
@[simp] theorem Core.wk_dom (c : Core) (r : KReg) (v : Handle) : (c.wk r v).dom = c.dom := rfl
@[simp] theorem Core.wk_domph (c : Core) (r : KReg) (v : Handle) : (c.wk r v).domph = c.domph := rfl
@[simp] theorem Core.wk_jobseed (c : Core) (r : KReg) (v : Handle) : (c.wk r v).jobseed = c.jobseed := rfl
@[simp] theorem Core.wk_gangst (c : Core) (r : KReg) (v : Handle) : (c.wk r v).gangst = c.gangst := rfl
@[simp] theorem Core.wk_streamid (c : Core) (r : KReg) (v : Handle) : (c.wk r v).streamid = c.streamid := rfl
@[simp] theorem Core.wk_mintkey (c : Core) (r : KReg) (v : Handle) : (c.wk r v).mintkey = c.mintkey := rfl
@[simp] theorem Core.wk_srsite (c : Core) (r : KReg) (v : Handle) : (c.wk r v).srsite = c.srsite := rfl
@[simp] theorem Core.wk_srbase (c : Core) (r : KReg) (v : Handle) : (c.wk r v).srbase = c.srbase := rfl
@[simp] theorem Core.wk_fflags (c : Core) (r : KReg) (v : Handle) : (c.wk r v).fflags = c.fflags := rfl
@[simp] theorem Core.wk_frm (c : Core) (r : KReg) (v : Handle) : (c.wk r v).frm = c.frm := rfl
@[simp] theorem Core.wk_vrm (c : Core) (r : KReg) (v : Handle) : (c.wk r v).vrm = c.vrm := rfl
@[simp] theorem Core.wk_cause (c : Core) (r : KReg) (v : Handle) : (c.wk r v).cause = c.cause := rfl
@[simp] theorem Core.wk_tval (c : Core) (r : KReg) (v : Handle) : (c.wk r v).tval = c.tval := rfl
@[simp] theorem Core.wk_epc (c : Core) (r : KReg) (v : Handle) : (c.wk r v).epc = c.epc := rfl
@[simp] theorem Core.wk_raised (c : Core) (r : KReg) (v : Handle) : (c.wk r v).raised = c.raised := rfl
@[simp] theorem Core.wk_tseq (c : Core) (r : KReg) (v : Handle) : (c.wk r v).tseq = c.tseq := rfl
@[simp] theorem Core.wk_shdone (c : Core) (r : KReg) (v : Handle) : (c.wk r v).shdone = c.shdone := rfl
@[simp] theorem Core.wk_rptst (c : Core) (r : KReg) (v : Handle) : (c.wk r v).rptst = c.rptst := rfl
@[simp] theorem Core.wk_fstat (c : Core) (r : KReg) (v : Handle) : (c.wk r v).fstat = c.fstat := rfl
@[simp] theorem Core.wk_evlatch (c : Core) (r : KReg) (v : Handle) : (c.wk r v).evlatch = c.evlatch := rfl
@[simp] theorem Core.wk_vshare (c : Core) (r : KReg) (v : Handle) : (c.wk r v).vshare = c.vshare := rfl
@[simp] theorem Core.wk_copyperm (c : Core) (r : KReg) (v : Handle) : (c.wk r v).copyperm = c.copyperm := rfl
@[simp] theorem Core.wk_penbase (c : Core) (r : KReg) (v : Handle) : (c.wk r v).penbase = c.penbase := rfl
@[simp] theorem Core.wk_pensize (c : Core) (r : KReg) (v : Handle) : (c.wk r v).pensize = c.pensize := rfl
@[simp] theorem Core.wk_tkbase (c : Core) (r : KReg) (v : Handle) : (c.wk r v).tkbase = c.tkbase := rfl
@[simp] theorem Core.wk_tksize (c : Core) (r : KReg) (v : Handle) : (c.wk r v).tksize = c.tksize := rfl
@[simp] theorem Core.wk_steallvl (c : Core) (r : KReg) (v : Handle) : (c.wk r v).steallvl = c.steallvl := rfl
@[simp] theorem Core.wk_stealtry (c : Core) (r : KReg) (v : Handle) : (c.wk r v).stealtry = c.stealtry := rfl
@[simp] theorem Core.wk_twin (c : Core) (r : KReg) (v : Handle) : (c.wk r v).twin = c.twin := rfl
@[simp] theorem Core.wk_migthresh (c : Core) (r : KReg) (v : Handle) : (c.wk r v).migthresh = c.migthresh := rfl
@[simp] theorem Core.wk_bayfmt (c : Core) (r : KReg) (v : Handle) : (c.wk r v).bayfmt = c.bayfmt := rfl
@[simp] theorem Core.wk_lmin (c : Core) (r : KReg) (v : Handle) : (c.wk r v).lmin = c.lmin := rfl
@[simp] theorem Core.wk_lmem (c : Core) (r : KReg) (v : Handle) : (c.wk r v).lmem = c.lmem := rfl
@[simp] theorem Core.wk_empties (c : Core) (r : KReg) (v : Handle) : (c.wk r v).empties = c.empties := rfl
@[simp] theorem Core.wk_desc (c : Core) (r : KReg) (v : Handle) : (c.wk r v).desc = c.desc := rfl
@[simp] theorem Core.wk_ports (c : Core) (r : KReg) (v : Handle) : (c.wk r v).ports = c.ports := rfl
@[simp] theorem Core.wk_modp (c : Core) (r : KReg) (v : Handle) : (c.wk r v).modp = c.modp := rfl
@[simp] theorem Core.wk_frame (c : Core) (r : KReg) (v : Handle) : (c.wk r v).frame = c.frame := rfl
@[simp] theorem Core.wk_shadow (c : Core) (r : KReg) (v : Handle) : (c.wk r v).shadow = c.shadow := rfl
@[simp] theorem Core.wk_resume (c : Core) (r : KReg) (v : Handle) : (c.wk r v).resume = c.resume := rfl
@[simp] theorem Core.wk_cq (c : Core) (r : KReg) (v : Handle) : (c.wk r v).cq = c.cq := rfl
@[simp] theorem Core.wk_cqNext (c : Core) (r : KReg) (v : Handle) : (c.wk r v).cqNext = c.cqNext := rfl
@[simp] theorem Core.wk_mx (c : Core) (r : KReg) (v : Handle) : (c.wk r v).mx = c.mx := rfl
@[simp] theorem Core.wk_cf (c : Core) (r : KReg) (v : Handle) : (c.wk r v).cf = c.cf := rfl
@[simp] theorem Core.wk_slots (c : Core) (r : KReg) (v : Handle) : (c.wk r v).slots = c.slots := rfl
@[simp] theorem Core.wk_deque (c : Core) (r : KReg) (v : Handle) : (c.wk r v).deque = c.deque := rfl
@[simp] theorem Core.wk_task (c : Core) (r : KReg) (v : Handle) : (c.wk r v).task = c.task := rfl
@[simp] theorem Core.wk_kpops (c : Core) (r : KReg) (v : Handle) : (c.wk r v).kpops = c.kpops := rfl
@[simp] theorem Core.wk_probe (c : Core) (r : KReg) (v : Handle) : (c.wk r v).probe = c.probe := rfl
@[simp] theorem Core.wk_wsret (c : Core) (r : KReg) (v : Handle) : (c.wk r v).wsret = c.wsret := rfl
@[simp] theorem Core.wk_stash (c : Core) (r : KReg) (v : Handle) : (c.wk r v).stash = c.stash := rfl
@[simp] theorem Core.wk_lent (c : Core) (r : KReg) (v : Handle) : (c.wk r v).lent = c.lent := rfl
@[simp] theorem Core.wk_erd (c : Core) (r : KReg) (v : Handle) : (c.wk r v).erd = c.erd := rfl
@[simp] theorem Core.wk_dack (c : Core) (r : KReg) (v : Handle) : (c.wk r v).dack = c.dack := rfl
@[simp] theorem Core.wk_raceLost (c : Core) (r : KReg) (v : Handle) : (c.wk r v).raceLost = c.raceLost := rfl
@[simp] theorem Core.wk_rx (c : Core) (r : KReg) (v : Handle) : (c.wk r v).rx = c.rx := rfl
@[simp] theorem Core.wk_penAt (c : Core) (r : KReg) (v : Handle) : (c.wk r v).penAt = c.penAt := rfl
@[simp] theorem Core.wk_posted (c : Core) (r : KReg) (v : Handle) : (c.wk r v).posted = c.posted := rfl
@[simp] theorem Core.wk_far (c : Core) (r : KReg) (v : Handle) : (c.wk r v).far = c.far := rfl
@[simp] theorem Core.wk_episodes (c : Core) (r : KReg) (v : Handle) : (c.wk r v).episodes = c.episodes := rfl
@[simp] theorem Core.wk_arrival (c : Core) (r : KReg) (v : Handle) : (c.wk r v).arrival = c.arrival := rfl
@[simp] theorem Core.wk_owed (c : Core) (r : KReg) (v : Handle) : (c.wk r v).owed = c.owed := rfl
@[simp] theorem Core.wk_xch (c : Core) (r : KReg) (v : Handle) : (c.wk r v).xch = c.xch := rfl
@[simp] theorem Core.wk_utlb (c : Core) (r : KReg) (v : Handle) : (c.wk r v).utlb = c.utlb := rfl
@[simp] theorem Core.wk_l1 (c : Core) (r : KReg) (v : Handle) : (c.wk r v).l1 = c.l1 := rfl
@[simp] theorem Core.wk_fwd (c : Core) (r : KReg) (v : Handle) : (c.wk r v).fwd = c.fwd := rfl
@[simp] theorem Core.wk_gangWait (c : Core) (r : KReg) (v : Handle) : (c.wk r v).gangWait = c.gangWait := rfl
@[simp] theorem Core.wk_unsent (c : Core) (r : KReg) (v : Handle) : (c.wk r v).unsent = c.unsent := rfl
@[simp] theorem Core.wk_retained (c : Core) (r : KReg) (v : Handle) : (c.wk r v).retained = c.retained := rfl
@[simp] theorem Core.wk_saveArrived (c : Core) (r : KReg) (v : Handle) : (c.wk r v).saveArrived = c.saveArrived := rfl
@[simp] theorem Core.wk_saveTrapped (c : Core) (r : KReg) (v : Handle) : (c.wk r v).saveTrapped = c.saveTrapped := rfl
@[simp] theorem Core.wk_placed (c : Core) (r : KReg) (v : Handle) : (c.wk r v).placed = c.placed := rfl

/-! ### Core.setPort -/

@[simp] theorem Core.setPort_st (c : Core) (n : Fin 8) (f : Port → Port) : (c.setPort n f).st = c.st := rfl
@[simp] theorem Core.setPort_pcid (c : Core) (n : Fin 8) (f : Port → Port) : (c.setPort n f).pcid = c.pcid := rfl
@[simp] theorem Core.setPort_queue (c : Core) (n : Fin 8) (f : Port → Port) : (c.setPort n f).queue = c.queue := rfl
@[simp] theorem Core.setPort_pc (c : Core) (n : Fin 8) (f : Port → Port) : (c.setPort n f).pc = c.pc := rfl
@[simp] theorem Core.setPort_obj (c : Core) (n : Fin 8) (f : Port → Port) : (c.setPort n f).obj = c.obj := rfl
@[simp] theorem Core.setPort_latch (c : Core) (n : Fin 8) (f : Port → Port) : (c.setPort n f).latch = c.latch := rfl
@[simp] theorem Core.setPort_s (c : Core) (n : Fin 8) (f : Port → Port) : (c.setPort n f).s = c.s := rfl
@[simp] theorem Core.setPort_p (c : Core) (n : Fin 8) (f : Port → Port) : (c.setPort n f).p = c.p := rfl
@[simp] theorem Core.setPort_k (c : Core) (n : Fin 8) (f : Port → Port) : (c.setPort n f).k = c.k := rfl
@[simp] theorem Core.setPort_tiles (c : Core) (n : Fin 8) (f : Port → Port) : (c.setPort n f).tiles = c.tiles := rfl
@[simp] theorem Core.setPort_types (c : Core) (n : Fin 8) (f : Port → Port) : (c.setPort n f).types = c.types := rfl
@[simp] theorem Core.setPort_lcn (c : Core) (n : Fin 8) (f : Port → Port) : (c.setPort n f).lcn = c.lcn := rfl
@[simp] theorem Core.setPort_ncores (c : Core) (n : Fin 8) (f : Port → Port) : (c.setPort n f).ncores = c.ncores := rfl
@[simp] theorem Core.setPort_ltorus (c : Core) (n : Fin 8) (f : Port → Port) : (c.setPort n f).ltorus = c.ltorus := rfl
@[simp] theorem Core.setPort_dom (c : Core) (n : Fin 8) (f : Port → Port) : (c.setPort n f).dom = c.dom := rfl
@[simp] theorem Core.setPort_domph (c : Core) (n : Fin 8) (f : Port → Port) : (c.setPort n f).domph = c.domph := rfl
@[simp] theorem Core.setPort_jobseed (c : Core) (n : Fin 8) (f : Port → Port) : (c.setPort n f).jobseed = c.jobseed := rfl
@[simp] theorem Core.setPort_gangst (c : Core) (n : Fin 8) (f : Port → Port) : (c.setPort n f).gangst = c.gangst := rfl
@[simp] theorem Core.setPort_streamid (c : Core) (n : Fin 8) (f : Port → Port) : (c.setPort n f).streamid = c.streamid := rfl
@[simp] theorem Core.setPort_mintkey (c : Core) (n : Fin 8) (f : Port → Port) : (c.setPort n f).mintkey = c.mintkey := rfl
@[simp] theorem Core.setPort_srsite (c : Core) (n : Fin 8) (f : Port → Port) : (c.setPort n f).srsite = c.srsite := rfl
@[simp] theorem Core.setPort_srbase (c : Core) (n : Fin 8) (f : Port → Port) : (c.setPort n f).srbase = c.srbase := rfl
@[simp] theorem Core.setPort_fflags (c : Core) (n : Fin 8) (f : Port → Port) : (c.setPort n f).fflags = c.fflags := rfl
@[simp] theorem Core.setPort_frm (c : Core) (n : Fin 8) (f : Port → Port) : (c.setPort n f).frm = c.frm := rfl
@[simp] theorem Core.setPort_vrm (c : Core) (n : Fin 8) (f : Port → Port) : (c.setPort n f).vrm = c.vrm := rfl
@[simp] theorem Core.setPort_cause (c : Core) (n : Fin 8) (f : Port → Port) : (c.setPort n f).cause = c.cause := rfl
@[simp] theorem Core.setPort_tval (c : Core) (n : Fin 8) (f : Port → Port) : (c.setPort n f).tval = c.tval := rfl
@[simp] theorem Core.setPort_epc (c : Core) (n : Fin 8) (f : Port → Port) : (c.setPort n f).epc = c.epc := rfl
@[simp] theorem Core.setPort_raised (c : Core) (n : Fin 8) (f : Port → Port) : (c.setPort n f).raised = c.raised := rfl
@[simp] theorem Core.setPort_tseq (c : Core) (n : Fin 8) (f : Port → Port) : (c.setPort n f).tseq = c.tseq := rfl
@[simp] theorem Core.setPort_shdone (c : Core) (n : Fin 8) (f : Port → Port) : (c.setPort n f).shdone = c.shdone := rfl
@[simp] theorem Core.setPort_rptst (c : Core) (n : Fin 8) (f : Port → Port) : (c.setPort n f).rptst = c.rptst := rfl
@[simp] theorem Core.setPort_fstat (c : Core) (n : Fin 8) (f : Port → Port) : (c.setPort n f).fstat = c.fstat := rfl
@[simp] theorem Core.setPort_evlatch (c : Core) (n : Fin 8) (f : Port → Port) : (c.setPort n f).evlatch = c.evlatch := rfl
@[simp] theorem Core.setPort_vshare (c : Core) (n : Fin 8) (f : Port → Port) : (c.setPort n f).vshare = c.vshare := rfl
@[simp] theorem Core.setPort_copyperm (c : Core) (n : Fin 8) (f : Port → Port) : (c.setPort n f).copyperm = c.copyperm := rfl
@[simp] theorem Core.setPort_penbase (c : Core) (n : Fin 8) (f : Port → Port) : (c.setPort n f).penbase = c.penbase := rfl
@[simp] theorem Core.setPort_pensize (c : Core) (n : Fin 8) (f : Port → Port) : (c.setPort n f).pensize = c.pensize := rfl
@[simp] theorem Core.setPort_tkbase (c : Core) (n : Fin 8) (f : Port → Port) : (c.setPort n f).tkbase = c.tkbase := rfl
@[simp] theorem Core.setPort_tksize (c : Core) (n : Fin 8) (f : Port → Port) : (c.setPort n f).tksize = c.tksize := rfl
@[simp] theorem Core.setPort_steallvl (c : Core) (n : Fin 8) (f : Port → Port) : (c.setPort n f).steallvl = c.steallvl := rfl
@[simp] theorem Core.setPort_stealtry (c : Core) (n : Fin 8) (f : Port → Port) : (c.setPort n f).stealtry = c.stealtry := rfl
@[simp] theorem Core.setPort_twin (c : Core) (n : Fin 8) (f : Port → Port) : (c.setPort n f).twin = c.twin := rfl
@[simp] theorem Core.setPort_migthresh (c : Core) (n : Fin 8) (f : Port → Port) : (c.setPort n f).migthresh = c.migthresh := rfl
@[simp] theorem Core.setPort_bayfmt (c : Core) (n : Fin 8) (f : Port → Port) : (c.setPort n f).bayfmt = c.bayfmt := rfl
@[simp] theorem Core.setPort_lmin (c : Core) (n : Fin 8) (f : Port → Port) : (c.setPort n f).lmin = c.lmin := rfl
@[simp] theorem Core.setPort_lmem (c : Core) (n : Fin 8) (f : Port → Port) : (c.setPort n f).lmem = c.lmem := rfl
@[simp] theorem Core.setPort_empties (c : Core) (n : Fin 8) (f : Port → Port) : (c.setPort n f).empties = c.empties := rfl
@[simp] theorem Core.setPort_desc (c : Core) (n : Fin 8) (f : Port → Port) : (c.setPort n f).desc = c.desc := rfl
@[simp] theorem Core.setPort_modp (c : Core) (n : Fin 8) (f : Port → Port) : (c.setPort n f).modp = c.modp := rfl
@[simp] theorem Core.setPort_frame (c : Core) (n : Fin 8) (f : Port → Port) : (c.setPort n f).frame = c.frame := rfl
@[simp] theorem Core.setPort_shadow (c : Core) (n : Fin 8) (f : Port → Port) : (c.setPort n f).shadow = c.shadow := rfl
@[simp] theorem Core.setPort_resume (c : Core) (n : Fin 8) (f : Port → Port) : (c.setPort n f).resume = c.resume := rfl
@[simp] theorem Core.setPort_cq (c : Core) (n : Fin 8) (f : Port → Port) : (c.setPort n f).cq = c.cq := rfl
@[simp] theorem Core.setPort_cqNext (c : Core) (n : Fin 8) (f : Port → Port) : (c.setPort n f).cqNext = c.cqNext := rfl
@[simp] theorem Core.setPort_mx (c : Core) (n : Fin 8) (f : Port → Port) : (c.setPort n f).mx = c.mx := rfl
@[simp] theorem Core.setPort_cf (c : Core) (n : Fin 8) (f : Port → Port) : (c.setPort n f).cf = c.cf := rfl
@[simp] theorem Core.setPort_slots (c : Core) (n : Fin 8) (f : Port → Port) : (c.setPort n f).slots = c.slots := rfl
@[simp] theorem Core.setPort_deque (c : Core) (n : Fin 8) (f : Port → Port) : (c.setPort n f).deque = c.deque := rfl
@[simp] theorem Core.setPort_task (c : Core) (n : Fin 8) (f : Port → Port) : (c.setPort n f).task = c.task := rfl
@[simp] theorem Core.setPort_kpops (c : Core) (n : Fin 8) (f : Port → Port) : (c.setPort n f).kpops = c.kpops := rfl
@[simp] theorem Core.setPort_probe (c : Core) (n : Fin 8) (f : Port → Port) : (c.setPort n f).probe = c.probe := rfl
@[simp] theorem Core.setPort_wsret (c : Core) (n : Fin 8) (f : Port → Port) : (c.setPort n f).wsret = c.wsret := rfl
@[simp] theorem Core.setPort_stash (c : Core) (n : Fin 8) (f : Port → Port) : (c.setPort n f).stash = c.stash := rfl
@[simp] theorem Core.setPort_lent (c : Core) (n : Fin 8) (f : Port → Port) : (c.setPort n f).lent = c.lent := rfl
@[simp] theorem Core.setPort_erd (c : Core) (n : Fin 8) (f : Port → Port) : (c.setPort n f).erd = c.erd := rfl
@[simp] theorem Core.setPort_dack (c : Core) (n : Fin 8) (f : Port → Port) : (c.setPort n f).dack = c.dack := rfl
@[simp] theorem Core.setPort_raceLost (c : Core) (n : Fin 8) (f : Port → Port) : (c.setPort n f).raceLost = c.raceLost := rfl
@[simp] theorem Core.setPort_rx (c : Core) (n : Fin 8) (f : Port → Port) : (c.setPort n f).rx = c.rx := rfl
@[simp] theorem Core.setPort_penAt (c : Core) (n : Fin 8) (f : Port → Port) : (c.setPort n f).penAt = c.penAt := rfl
@[simp] theorem Core.setPort_posted (c : Core) (n : Fin 8) (f : Port → Port) : (c.setPort n f).posted = c.posted := rfl
@[simp] theorem Core.setPort_far (c : Core) (n : Fin 8) (f : Port → Port) : (c.setPort n f).far = c.far := rfl
@[simp] theorem Core.setPort_episodes (c : Core) (n : Fin 8) (f : Port → Port) : (c.setPort n f).episodes = c.episodes := rfl
@[simp] theorem Core.setPort_arrival (c : Core) (n : Fin 8) (f : Port → Port) : (c.setPort n f).arrival = c.arrival := rfl
@[simp] theorem Core.setPort_owed (c : Core) (n : Fin 8) (f : Port → Port) : (c.setPort n f).owed = c.owed := rfl
@[simp] theorem Core.setPort_xch (c : Core) (n : Fin 8) (f : Port → Port) : (c.setPort n f).xch = c.xch := rfl
@[simp] theorem Core.setPort_utlb (c : Core) (n : Fin 8) (f : Port → Port) : (c.setPort n f).utlb = c.utlb := rfl
@[simp] theorem Core.setPort_l1 (c : Core) (n : Fin 8) (f : Port → Port) : (c.setPort n f).l1 = c.l1 := rfl
@[simp] theorem Core.setPort_fwd (c : Core) (n : Fin 8) (f : Port → Port) : (c.setPort n f).fwd = c.fwd := rfl
@[simp] theorem Core.setPort_gangWait (c : Core) (n : Fin 8) (f : Port → Port) : (c.setPort n f).gangWait = c.gangWait := rfl
@[simp] theorem Core.setPort_unsent (c : Core) (n : Fin 8) (f : Port → Port) : (c.setPort n f).unsent = c.unsent := rfl
@[simp] theorem Core.setPort_retained (c : Core) (n : Fin 8) (f : Port → Port) : (c.setPort n f).retained = c.retained := rfl
@[simp] theorem Core.setPort_saveArrived (c : Core) (n : Fin 8) (f : Port → Port) : (c.setPort n f).saveArrived = c.saveArrived := rfl
@[simp] theorem Core.setPort_saveTrapped (c : Core) (n : Fin 8) (f : Port → Port) : (c.setPort n f).saveTrapped = c.saveTrapped := rfl
@[simp] theorem Core.setPort_placed (c : Core) (n : Fin 8) (f : Port → Port) : (c.setPort n f).placed = c.placed := rfl

/-! ### Core.settle -/

@[simp] theorem Core.settle_pcid (c : Core) : (c.settle).pcid = c.pcid := rfl
@[simp] theorem Core.settle_queue (c : Core) : (c.settle).queue = c.queue := rfl
@[simp] theorem Core.settle_pc (c : Core) : (c.settle).pc = c.pc := rfl
@[simp] theorem Core.settle_obj (c : Core) : (c.settle).obj = c.obj := rfl
@[simp] theorem Core.settle_s (c : Core) : (c.settle).s = c.s := rfl
@[simp] theorem Core.settle_p (c : Core) : (c.settle).p = c.p := rfl
@[simp] theorem Core.settle_k (c : Core) : (c.settle).k = c.k := rfl
@[simp] theorem Core.settle_tiles (c : Core) : (c.settle).tiles = c.tiles := rfl
@[simp] theorem Core.settle_types (c : Core) : (c.settle).types = c.types := rfl
@[simp] theorem Core.settle_lcn (c : Core) : (c.settle).lcn = c.lcn := rfl
@[simp] theorem Core.settle_ncores (c : Core) : (c.settle).ncores = c.ncores := rfl
@[simp] theorem Core.settle_ltorus (c : Core) : (c.settle).ltorus = c.ltorus := rfl
@[simp] theorem Core.settle_dom (c : Core) : (c.settle).dom = c.dom := rfl
@[simp] theorem Core.settle_domph (c : Core) : (c.settle).domph = c.domph := rfl
@[simp] theorem Core.settle_jobseed (c : Core) : (c.settle).jobseed = c.jobseed := rfl
@[simp] theorem Core.settle_gangst (c : Core) : (c.settle).gangst = c.gangst := rfl
@[simp] theorem Core.settle_streamid (c : Core) : (c.settle).streamid = c.streamid := rfl
@[simp] theorem Core.settle_mintkey (c : Core) : (c.settle).mintkey = c.mintkey := rfl
@[simp] theorem Core.settle_srsite (c : Core) : (c.settle).srsite = c.srsite := rfl
@[simp] theorem Core.settle_srbase (c : Core) : (c.settle).srbase = c.srbase := rfl
@[simp] theorem Core.settle_fflags (c : Core) : (c.settle).fflags = c.fflags := rfl
@[simp] theorem Core.settle_frm (c : Core) : (c.settle).frm = c.frm := rfl
@[simp] theorem Core.settle_vrm (c : Core) : (c.settle).vrm = c.vrm := rfl
@[simp] theorem Core.settle_cause (c : Core) : (c.settle).cause = c.cause := rfl
@[simp] theorem Core.settle_tval (c : Core) : (c.settle).tval = c.tval := rfl
@[simp] theorem Core.settle_epc (c : Core) : (c.settle).epc = c.epc := rfl
@[simp] theorem Core.settle_raised (c : Core) : (c.settle).raised = c.raised := rfl
@[simp] theorem Core.settle_tseq (c : Core) : (c.settle).tseq = c.tseq := rfl
@[simp] theorem Core.settle_rptst (c : Core) : (c.settle).rptst = c.rptst := rfl
@[simp] theorem Core.settle_fstat (c : Core) : (c.settle).fstat = c.fstat := rfl
@[simp] theorem Core.settle_evlatch (c : Core) : (c.settle).evlatch = c.evlatch := rfl
@[simp] theorem Core.settle_vshare (c : Core) : (c.settle).vshare = c.vshare := rfl
@[simp] theorem Core.settle_copyperm (c : Core) : (c.settle).copyperm = c.copyperm := rfl
@[simp] theorem Core.settle_penbase (c : Core) : (c.settle).penbase = c.penbase := rfl
@[simp] theorem Core.settle_pensize (c : Core) : (c.settle).pensize = c.pensize := rfl
@[simp] theorem Core.settle_tkbase (c : Core) : (c.settle).tkbase = c.tkbase := rfl
@[simp] theorem Core.settle_tksize (c : Core) : (c.settle).tksize = c.tksize := rfl
@[simp] theorem Core.settle_steallvl (c : Core) : (c.settle).steallvl = c.steallvl := rfl
@[simp] theorem Core.settle_stealtry (c : Core) : (c.settle).stealtry = c.stealtry := rfl
@[simp] theorem Core.settle_twin (c : Core) : (c.settle).twin = c.twin := rfl
@[simp] theorem Core.settle_migthresh (c : Core) : (c.settle).migthresh = c.migthresh := rfl
@[simp] theorem Core.settle_bayfmt (c : Core) : (c.settle).bayfmt = c.bayfmt := rfl
@[simp] theorem Core.settle_lmin (c : Core) : (c.settle).lmin = c.lmin := rfl
@[simp] theorem Core.settle_lmem (c : Core) : (c.settle).lmem = c.lmem := rfl
@[simp] theorem Core.settle_empties (c : Core) : (c.settle).empties = c.empties := rfl
@[simp] theorem Core.settle_desc (c : Core) : (c.settle).desc = c.desc := rfl
@[simp] theorem Core.settle_ports (c : Core) : (c.settle).ports = c.ports := rfl
@[simp] theorem Core.settle_frame (c : Core) : (c.settle).frame = c.frame := rfl
@[simp] theorem Core.settle_shadow (c : Core) : (c.settle).shadow = c.shadow := rfl
@[simp] theorem Core.settle_cq (c : Core) : (c.settle).cq = c.cq := rfl
@[simp] theorem Core.settle_cqNext (c : Core) : (c.settle).cqNext = c.cqNext := rfl
@[simp] theorem Core.settle_mx (c : Core) : (c.settle).mx = c.mx := rfl
@[simp] theorem Core.settle_cf (c : Core) : (c.settle).cf = c.cf := rfl
@[simp] theorem Core.settle_slots (c : Core) : (c.settle).slots = c.slots := rfl
@[simp] theorem Core.settle_deque (c : Core) : (c.settle).deque = c.deque := rfl
@[simp] theorem Core.settle_task (c : Core) : (c.settle).task = c.task := rfl
@[simp] theorem Core.settle_kpops (c : Core) : (c.settle).kpops = c.kpops := rfl
@[simp] theorem Core.settle_probe (c : Core) : (c.settle).probe = c.probe := rfl
@[simp] theorem Core.settle_wsret (c : Core) : (c.settle).wsret = c.wsret := rfl
@[simp] theorem Core.settle_stash (c : Core) : (c.settle).stash = c.stash := rfl
@[simp] theorem Core.settle_lent (c : Core) : (c.settle).lent = c.lent := rfl
@[simp] theorem Core.settle_erd (c : Core) : (c.settle).erd = c.erd := rfl
@[simp] theorem Core.settle_dack (c : Core) : (c.settle).dack = c.dack := rfl
@[simp] theorem Core.settle_raceLost (c : Core) : (c.settle).raceLost = c.raceLost := rfl
@[simp] theorem Core.settle_rx (c : Core) : (c.settle).rx = c.rx := rfl
@[simp] theorem Core.settle_penAt (c : Core) : (c.settle).penAt = c.penAt := rfl
@[simp] theorem Core.settle_posted (c : Core) : (c.settle).posted = c.posted := rfl
@[simp] theorem Core.settle_episodes (c : Core) : (c.settle).episodes = c.episodes := rfl
@[simp] theorem Core.settle_arrival (c : Core) : (c.settle).arrival = c.arrival := rfl
@[simp] theorem Core.settle_owed (c : Core) : (c.settle).owed = c.owed := rfl
@[simp] theorem Core.settle_xch (c : Core) : (c.settle).xch = c.xch := rfl
@[simp] theorem Core.settle_utlb (c : Core) : (c.settle).utlb = c.utlb := rfl
@[simp] theorem Core.settle_l1 (c : Core) : (c.settle).l1 = c.l1 := rfl
@[simp] theorem Core.settle_fwd (c : Core) : (c.settle).fwd = c.fwd := rfl
@[simp] theorem Core.settle_unsent (c : Core) : (c.settle).unsent = c.unsent := rfl
@[simp] theorem Core.settle_retained (c : Core) : (c.settle).retained = c.retained := rfl
@[simp] theorem Core.settle_saveArrived (c : Core) : (c.settle).saveArrived = c.saveArrived := rfl
@[simp] theorem Core.settle_saveTrapped (c : Core) : (c.settle).saveTrapped = c.saveTrapped := rfl
@[simp] theorem Core.settle_placed (c : Core) : (c.settle).placed = c.placed := rfl

@[simp] theorem Core.settle_st (c : Core) : c.settle.st = .running := rfl
@[simp] theorem Core.settle_modp (c : Core) : c.settle.modp = none := rfl
@[simp] theorem Core.settle_resume (c : Core) : c.settle.resume = none := rfl
@[simp] theorem Core.settle_gangWait (c : Core) : c.settle.gangWait = none := rfl
@[simp] theorem Core.settle_latch (c : Core) : c.settle.latch = none := rfl
@[simp] theorem Core.settle_far (c : Core) : c.settle.far = if c.retrying then c.far else none := rfl

/-! ### Core.step4 -/

@[simp] theorem Core.step4_st (c : Core) : (c.step4).st = c.st := by unfold Core.step4; split <;> (try split) <;> (try split) <;> rfl
@[simp] theorem Core.step4_pcid (c : Core) : (c.step4).pcid = c.pcid := by unfold Core.step4; split <;> (try split) <;> (try split) <;> rfl
@[simp] theorem Core.step4_queue (c : Core) : (c.step4).queue = c.queue := by unfold Core.step4; split <;> (try split) <;> (try split) <;> rfl
@[simp] theorem Core.step4_obj (c : Core) : (c.step4).obj = c.obj := by unfold Core.step4; split <;> (try split) <;> (try split) <;> rfl
@[simp] theorem Core.step4_latch (c : Core) : (c.step4).latch = c.latch := by unfold Core.step4; split <;> (try split) <;> (try split) <;> rfl
@[simp] theorem Core.step4_s (c : Core) : (c.step4).s = c.s := by unfold Core.step4; split <;> (try split) <;> (try split) <;> rfl
@[simp] theorem Core.step4_p (c : Core) : (c.step4).p = c.p := by unfold Core.step4; split <;> (try split) <;> (try split) <;> rfl
@[simp] theorem Core.step4_k (c : Core) : (c.step4).k = c.k := by unfold Core.step4; split <;> (try split) <;> (try split) <;> rfl
@[simp] theorem Core.step4_tiles (c : Core) : (c.step4).tiles = c.tiles := by unfold Core.step4; split <;> (try split) <;> (try split) <;> rfl
@[simp] theorem Core.step4_types (c : Core) : (c.step4).types = c.types := by unfold Core.step4; split <;> (try split) <;> (try split) <;> rfl
@[simp] theorem Core.step4_lcn (c : Core) : (c.step4).lcn = c.lcn := by unfold Core.step4; split <;> (try split) <;> (try split) <;> rfl
@[simp] theorem Core.step4_ncores (c : Core) : (c.step4).ncores = c.ncores := by unfold Core.step4; split <;> (try split) <;> (try split) <;> rfl
@[simp] theorem Core.step4_ltorus (c : Core) : (c.step4).ltorus = c.ltorus := by unfold Core.step4; split <;> (try split) <;> (try split) <;> rfl
@[simp] theorem Core.step4_dom (c : Core) : (c.step4).dom = c.dom := by unfold Core.step4; split <;> (try split) <;> (try split) <;> rfl
@[simp] theorem Core.step4_domph (c : Core) : (c.step4).domph = c.domph := by unfold Core.step4; split <;> (try split) <;> (try split) <;> rfl
@[simp] theorem Core.step4_jobseed (c : Core) : (c.step4).jobseed = c.jobseed := by unfold Core.step4; split <;> (try split) <;> (try split) <;> rfl
@[simp] theorem Core.step4_gangst (c : Core) : (c.step4).gangst = c.gangst := by unfold Core.step4; split <;> (try split) <;> (try split) <;> rfl
@[simp] theorem Core.step4_streamid (c : Core) : (c.step4).streamid = c.streamid := by unfold Core.step4; split <;> (try split) <;> (try split) <;> rfl
@[simp] theorem Core.step4_mintkey (c : Core) : (c.step4).mintkey = c.mintkey := by unfold Core.step4; split <;> (try split) <;> (try split) <;> rfl
@[simp] theorem Core.step4_srsite (c : Core) : (c.step4).srsite = c.srsite := by unfold Core.step4; split <;> (try split) <;> (try split) <;> rfl
@[simp] theorem Core.step4_srbase (c : Core) : (c.step4).srbase = c.srbase := by unfold Core.step4; split <;> (try split) <;> (try split) <;> rfl
@[simp] theorem Core.step4_fflags (c : Core) : (c.step4).fflags = c.fflags := by unfold Core.step4; split <;> (try split) <;> (try split) <;> rfl
@[simp] theorem Core.step4_frm (c : Core) : (c.step4).frm = c.frm := by unfold Core.step4; split <;> (try split) <;> (try split) <;> rfl
@[simp] theorem Core.step4_vrm (c : Core) : (c.step4).vrm = c.vrm := by unfold Core.step4; split <;> (try split) <;> (try split) <;> rfl
@[simp] theorem Core.step4_cause (c : Core) : (c.step4).cause = c.cause := by unfold Core.step4; split <;> (try split) <;> (try split) <;> rfl
@[simp] theorem Core.step4_tval (c : Core) : (c.step4).tval = c.tval := by unfold Core.step4; split <;> (try split) <;> (try split) <;> rfl
@[simp] theorem Core.step4_epc (c : Core) : (c.step4).epc = c.epc := by unfold Core.step4; split <;> (try split) <;> (try split) <;> rfl
@[simp] theorem Core.step4_raised (c : Core) : (c.step4).raised = c.raised := by unfold Core.step4; split <;> (try split) <;> (try split) <;> rfl
@[simp] theorem Core.step4_tseq (c : Core) : (c.step4).tseq = c.tseq := by unfold Core.step4; split <;> (try split) <;> (try split) <;> rfl
@[simp] theorem Core.step4_shdone (c : Core) : (c.step4).shdone = c.shdone := by unfold Core.step4; split <;> (try split) <;> (try split) <;> rfl
@[simp] theorem Core.step4_fstat (c : Core) : (c.step4).fstat = c.fstat := by unfold Core.step4; split <;> (try split) <;> (try split) <;> rfl
@[simp] theorem Core.step4_evlatch (c : Core) : (c.step4).evlatch = c.evlatch := by unfold Core.step4; split <;> (try split) <;> (try split) <;> rfl
@[simp] theorem Core.step4_vshare (c : Core) : (c.step4).vshare = c.vshare := by unfold Core.step4; split <;> (try split) <;> (try split) <;> rfl
@[simp] theorem Core.step4_copyperm (c : Core) : (c.step4).copyperm = c.copyperm := by unfold Core.step4; split <;> (try split) <;> (try split) <;> rfl
@[simp] theorem Core.step4_penbase (c : Core) : (c.step4).penbase = c.penbase := by unfold Core.step4; split <;> (try split) <;> (try split) <;> rfl
@[simp] theorem Core.step4_pensize (c : Core) : (c.step4).pensize = c.pensize := by unfold Core.step4; split <;> (try split) <;> (try split) <;> rfl
@[simp] theorem Core.step4_tkbase (c : Core) : (c.step4).tkbase = c.tkbase := by unfold Core.step4; split <;> (try split) <;> (try split) <;> rfl
@[simp] theorem Core.step4_tksize (c : Core) : (c.step4).tksize = c.tksize := by unfold Core.step4; split <;> (try split) <;> (try split) <;> rfl
@[simp] theorem Core.step4_steallvl (c : Core) : (c.step4).steallvl = c.steallvl := by unfold Core.step4; split <;> (try split) <;> (try split) <;> rfl
@[simp] theorem Core.step4_stealtry (c : Core) : (c.step4).stealtry = c.stealtry := by unfold Core.step4; split <;> (try split) <;> (try split) <;> rfl
@[simp] theorem Core.step4_twin (c : Core) : (c.step4).twin = c.twin := by unfold Core.step4; split <;> (try split) <;> (try split) <;> rfl
@[simp] theorem Core.step4_migthresh (c : Core) : (c.step4).migthresh = c.migthresh := by unfold Core.step4; split <;> (try split) <;> (try split) <;> rfl
@[simp] theorem Core.step4_bayfmt (c : Core) : (c.step4).bayfmt = c.bayfmt := by unfold Core.step4; split <;> (try split) <;> (try split) <;> rfl
@[simp] theorem Core.step4_lmin (c : Core) : (c.step4).lmin = c.lmin := by unfold Core.step4; split <;> (try split) <;> (try split) <;> rfl
@[simp] theorem Core.step4_lmem (c : Core) : (c.step4).lmem = c.lmem := by unfold Core.step4; split <;> (try split) <;> (try split) <;> rfl
@[simp] theorem Core.step4_empties (c : Core) : (c.step4).empties = c.empties := by unfold Core.step4; split <;> (try split) <;> (try split) <;> rfl
@[simp] theorem Core.step4_desc (c : Core) : (c.step4).desc = c.desc := by unfold Core.step4; split <;> (try split) <;> (try split) <;> rfl
@[simp] theorem Core.step4_ports (c : Core) : (c.step4).ports = c.ports := by unfold Core.step4; split <;> (try split) <;> (try split) <;> rfl
@[simp] theorem Core.step4_modp (c : Core) : (c.step4).modp = c.modp := by unfold Core.step4; split <;> (try split) <;> (try split) <;> rfl
@[simp] theorem Core.step4_shadow (c : Core) : (c.step4).shadow = c.shadow := by unfold Core.step4; split <;> (try split) <;> (try split) <;> rfl
@[simp] theorem Core.step4_resume (c : Core) : (c.step4).resume = c.resume := by unfold Core.step4; split <;> (try split) <;> (try split) <;> rfl
@[simp] theorem Core.step4_cq (c : Core) : (c.step4).cq = c.cq := by unfold Core.step4; split <;> (try split) <;> (try split) <;> rfl
@[simp] theorem Core.step4_cqNext (c : Core) : (c.step4).cqNext = c.cqNext := by unfold Core.step4; split <;> (try split) <;> (try split) <;> rfl
@[simp] theorem Core.step4_mx (c : Core) : (c.step4).mx = c.mx := by unfold Core.step4; split <;> (try split) <;> (try split) <;> rfl
@[simp] theorem Core.step4_cf (c : Core) : (c.step4).cf = c.cf := by unfold Core.step4; split <;> (try split) <;> (try split) <;> rfl
@[simp] theorem Core.step4_slots (c : Core) : (c.step4).slots = c.slots := by unfold Core.step4; split <;> (try split) <;> (try split) <;> rfl
@[simp] theorem Core.step4_deque (c : Core) : (c.step4).deque = c.deque := by unfold Core.step4; split <;> (try split) <;> (try split) <;> rfl
@[simp] theorem Core.step4_task (c : Core) : (c.step4).task = c.task := by unfold Core.step4; split <;> (try split) <;> (try split) <;> rfl
@[simp] theorem Core.step4_kpops (c : Core) : (c.step4).kpops = c.kpops := by unfold Core.step4; split <;> (try split) <;> (try split) <;> rfl
@[simp] theorem Core.step4_probe (c : Core) : (c.step4).probe = c.probe := by unfold Core.step4; split <;> (try split) <;> (try split) <;> rfl
@[simp] theorem Core.step4_wsret (c : Core) : (c.step4).wsret = c.wsret := by unfold Core.step4; split <;> (try split) <;> (try split) <;> rfl
@[simp] theorem Core.step4_stash (c : Core) : (c.step4).stash = c.stash := by unfold Core.step4; split <;> (try split) <;> (try split) <;> rfl
@[simp] theorem Core.step4_lent (c : Core) : (c.step4).lent = c.lent := by unfold Core.step4; split <;> (try split) <;> (try split) <;> rfl
@[simp] theorem Core.step4_erd (c : Core) : (c.step4).erd = c.erd := by unfold Core.step4; split <;> (try split) <;> (try split) <;> rfl
@[simp] theorem Core.step4_dack (c : Core) : (c.step4).dack = c.dack := by unfold Core.step4; split <;> (try split) <;> (try split) <;> rfl
@[simp] theorem Core.step4_raceLost (c : Core) : (c.step4).raceLost = c.raceLost := by unfold Core.step4; split <;> (try split) <;> (try split) <;> rfl
@[simp] theorem Core.step4_rx (c : Core) : (c.step4).rx = c.rx := by unfold Core.step4; split <;> (try split) <;> (try split) <;> rfl
@[simp] theorem Core.step4_penAt (c : Core) : (c.step4).penAt = c.penAt := by unfold Core.step4; split <;> (try split) <;> (try split) <;> rfl
@[simp] theorem Core.step4_posted (c : Core) : (c.step4).posted = c.posted := by unfold Core.step4; split <;> (try split) <;> (try split) <;> rfl
@[simp] theorem Core.step4_far (c : Core) : (c.step4).far = c.far := by unfold Core.step4; split <;> (try split) <;> (try split) <;> rfl
@[simp] theorem Core.step4_episodes (c : Core) : (c.step4).episodes = c.episodes := by unfold Core.step4; split <;> (try split) <;> (try split) <;> rfl
@[simp] theorem Core.step4_arrival (c : Core) : (c.step4).arrival = c.arrival := by unfold Core.step4; split <;> (try split) <;> (try split) <;> rfl
@[simp] theorem Core.step4_owed (c : Core) : (c.step4).owed = c.owed := by unfold Core.step4; split <;> (try split) <;> (try split) <;> rfl
@[simp] theorem Core.step4_xch (c : Core) : (c.step4).xch = c.xch := by unfold Core.step4; split <;> (try split) <;> (try split) <;> rfl
@[simp] theorem Core.step4_utlb (c : Core) : (c.step4).utlb = c.utlb := by unfold Core.step4; split <;> (try split) <;> (try split) <;> rfl
@[simp] theorem Core.step4_l1 (c : Core) : (c.step4).l1 = c.l1 := by unfold Core.step4; split <;> (try split) <;> (try split) <;> rfl
@[simp] theorem Core.step4_fwd (c : Core) : (c.step4).fwd = c.fwd := by unfold Core.step4; split <;> (try split) <;> (try split) <;> rfl
@[simp] theorem Core.step4_gangWait (c : Core) : (c.step4).gangWait = c.gangWait := by unfold Core.step4; split <;> (try split) <;> (try split) <;> rfl
@[simp] theorem Core.step4_unsent (c : Core) : (c.step4).unsent = c.unsent := by unfold Core.step4; split <;> (try split) <;> (try split) <;> rfl
@[simp] theorem Core.step4_retained (c : Core) : (c.step4).retained = c.retained := by unfold Core.step4; split <;> (try split) <;> (try split) <;> rfl
@[simp] theorem Core.step4_saveArrived (c : Core) : (c.step4).saveArrived = c.saveArrived := by unfold Core.step4; split <;> (try split) <;> (try split) <;> rfl
@[simp] theorem Core.step4_saveTrapped (c : Core) : (c.step4).saveTrapped = c.saveTrapped := by unfold Core.step4; split <;> (try split) <;> (try split) <;> rfl
@[simp] theorem Core.step4_placed (c : Core) : (c.step4).placed = c.placed := by unfold Core.step4; split <;> (try split) <;> (try split) <;> rfl

/-! ### Core.push -/

@[simp] theorem Core.push_st (c : Core) (n : Fin 8) (v : W64) : (c.push n v).st = c.st := rfl
@[simp] theorem Core.push_pcid (c : Core) (n : Fin 8) (v : W64) : (c.push n v).pcid = c.pcid := rfl
@[simp] theorem Core.push_queue (c : Core) (n : Fin 8) (v : W64) : (c.push n v).queue = c.queue := rfl
@[simp] theorem Core.push_pc (c : Core) (n : Fin 8) (v : W64) : (c.push n v).pc = c.pc := rfl
@[simp] theorem Core.push_obj (c : Core) (n : Fin 8) (v : W64) : (c.push n v).obj = c.obj := rfl
@[simp] theorem Core.push_latch (c : Core) (n : Fin 8) (v : W64) : (c.push n v).latch = c.latch := rfl
@[simp] theorem Core.push_s (c : Core) (n : Fin 8) (v : W64) : (c.push n v).s = c.s := rfl
@[simp] theorem Core.push_p (c : Core) (n : Fin 8) (v : W64) : (c.push n v).p = c.p := rfl
@[simp] theorem Core.push_k (c : Core) (n : Fin 8) (v : W64) : (c.push n v).k = c.k := rfl
@[simp] theorem Core.push_tiles (c : Core) (n : Fin 8) (v : W64) : (c.push n v).tiles = c.tiles := rfl
@[simp] theorem Core.push_types (c : Core) (n : Fin 8) (v : W64) : (c.push n v).types = c.types := rfl
@[simp] theorem Core.push_lcn (c : Core) (n : Fin 8) (v : W64) : (c.push n v).lcn = c.lcn := rfl
@[simp] theorem Core.push_ncores (c : Core) (n : Fin 8) (v : W64) : (c.push n v).ncores = c.ncores := rfl
@[simp] theorem Core.push_ltorus (c : Core) (n : Fin 8) (v : W64) : (c.push n v).ltorus = c.ltorus := rfl
@[simp] theorem Core.push_dom (c : Core) (n : Fin 8) (v : W64) : (c.push n v).dom = c.dom := rfl
@[simp] theorem Core.push_domph (c : Core) (n : Fin 8) (v : W64) : (c.push n v).domph = c.domph := rfl
@[simp] theorem Core.push_jobseed (c : Core) (n : Fin 8) (v : W64) : (c.push n v).jobseed = c.jobseed := rfl
@[simp] theorem Core.push_gangst (c : Core) (n : Fin 8) (v : W64) : (c.push n v).gangst = c.gangst := rfl
@[simp] theorem Core.push_streamid (c : Core) (n : Fin 8) (v : W64) : (c.push n v).streamid = c.streamid := rfl
@[simp] theorem Core.push_mintkey (c : Core) (n : Fin 8) (v : W64) : (c.push n v).mintkey = c.mintkey := rfl
@[simp] theorem Core.push_srsite (c : Core) (n : Fin 8) (v : W64) : (c.push n v).srsite = c.srsite := rfl
@[simp] theorem Core.push_srbase (c : Core) (n : Fin 8) (v : W64) : (c.push n v).srbase = c.srbase := rfl
@[simp] theorem Core.push_fflags (c : Core) (n : Fin 8) (v : W64) : (c.push n v).fflags = c.fflags := rfl
@[simp] theorem Core.push_frm (c : Core) (n : Fin 8) (v : W64) : (c.push n v).frm = c.frm := rfl
@[simp] theorem Core.push_vrm (c : Core) (n : Fin 8) (v : W64) : (c.push n v).vrm = c.vrm := rfl
@[simp] theorem Core.push_cause (c : Core) (n : Fin 8) (v : W64) : (c.push n v).cause = c.cause := rfl
@[simp] theorem Core.push_tval (c : Core) (n : Fin 8) (v : W64) : (c.push n v).tval = c.tval := rfl
@[simp] theorem Core.push_epc (c : Core) (n : Fin 8) (v : W64) : (c.push n v).epc = c.epc := rfl
@[simp] theorem Core.push_raised (c : Core) (n : Fin 8) (v : W64) : (c.push n v).raised = c.raised := rfl
@[simp] theorem Core.push_tseq (c : Core) (n : Fin 8) (v : W64) : (c.push n v).tseq = c.tseq := rfl
@[simp] theorem Core.push_shdone (c : Core) (n : Fin 8) (v : W64) : (c.push n v).shdone = c.shdone := rfl
@[simp] theorem Core.push_rptst (c : Core) (n : Fin 8) (v : W64) : (c.push n v).rptst = c.rptst := rfl
@[simp] theorem Core.push_fstat (c : Core) (n : Fin 8) (v : W64) : (c.push n v).fstat = c.fstat := rfl
@[simp] theorem Core.push_evlatch (c : Core) (n : Fin 8) (v : W64) : (c.push n v).evlatch = c.evlatch := rfl
@[simp] theorem Core.push_vshare (c : Core) (n : Fin 8) (v : W64) : (c.push n v).vshare = c.vshare := rfl
@[simp] theorem Core.push_copyperm (c : Core) (n : Fin 8) (v : W64) : (c.push n v).copyperm = c.copyperm := rfl
@[simp] theorem Core.push_penbase (c : Core) (n : Fin 8) (v : W64) : (c.push n v).penbase = c.penbase := rfl
@[simp] theorem Core.push_pensize (c : Core) (n : Fin 8) (v : W64) : (c.push n v).pensize = c.pensize := rfl
@[simp] theorem Core.push_tkbase (c : Core) (n : Fin 8) (v : W64) : (c.push n v).tkbase = c.tkbase := rfl
@[simp] theorem Core.push_tksize (c : Core) (n : Fin 8) (v : W64) : (c.push n v).tksize = c.tksize := rfl
@[simp] theorem Core.push_steallvl (c : Core) (n : Fin 8) (v : W64) : (c.push n v).steallvl = c.steallvl := rfl
@[simp] theorem Core.push_stealtry (c : Core) (n : Fin 8) (v : W64) : (c.push n v).stealtry = c.stealtry := rfl
@[simp] theorem Core.push_twin (c : Core) (n : Fin 8) (v : W64) : (c.push n v).twin = c.twin := rfl
@[simp] theorem Core.push_migthresh (c : Core) (n : Fin 8) (v : W64) : (c.push n v).migthresh = c.migthresh := rfl
@[simp] theorem Core.push_bayfmt (c : Core) (n : Fin 8) (v : W64) : (c.push n v).bayfmt = c.bayfmt := rfl
@[simp] theorem Core.push_lmin (c : Core) (n : Fin 8) (v : W64) : (c.push n v).lmin = c.lmin := rfl
@[simp] theorem Core.push_lmem (c : Core) (n : Fin 8) (v : W64) : (c.push n v).lmem = c.lmem := rfl
@[simp] theorem Core.push_empties (c : Core) (n : Fin 8) (v : W64) : (c.push n v).empties = c.empties := rfl
@[simp] theorem Core.push_desc (c : Core) (n : Fin 8) (v : W64) : (c.push n v).desc = c.desc := rfl
@[simp] theorem Core.push_modp (c : Core) (n : Fin 8) (v : W64) : (c.push n v).modp = c.modp := rfl
@[simp] theorem Core.push_frame (c : Core) (n : Fin 8) (v : W64) : (c.push n v).frame = c.frame := rfl
@[simp] theorem Core.push_shadow (c : Core) (n : Fin 8) (v : W64) : (c.push n v).shadow = c.shadow := rfl
@[simp] theorem Core.push_resume (c : Core) (n : Fin 8) (v : W64) : (c.push n v).resume = c.resume := rfl
@[simp] theorem Core.push_cq (c : Core) (n : Fin 8) (v : W64) : (c.push n v).cq = c.cq := rfl
@[simp] theorem Core.push_cqNext (c : Core) (n : Fin 8) (v : W64) : (c.push n v).cqNext = c.cqNext := rfl
@[simp] theorem Core.push_mx (c : Core) (n : Fin 8) (v : W64) : (c.push n v).mx = c.mx := rfl
@[simp] theorem Core.push_cf (c : Core) (n : Fin 8) (v : W64) : (c.push n v).cf = c.cf := rfl
@[simp] theorem Core.push_slots (c : Core) (n : Fin 8) (v : W64) : (c.push n v).slots = c.slots := rfl
@[simp] theorem Core.push_deque (c : Core) (n : Fin 8) (v : W64) : (c.push n v).deque = c.deque := rfl
@[simp] theorem Core.push_task (c : Core) (n : Fin 8) (v : W64) : (c.push n v).task = c.task := rfl
@[simp] theorem Core.push_kpops (c : Core) (n : Fin 8) (v : W64) : (c.push n v).kpops = c.kpops := rfl
@[simp] theorem Core.push_probe (c : Core) (n : Fin 8) (v : W64) : (c.push n v).probe = c.probe := rfl
@[simp] theorem Core.push_wsret (c : Core) (n : Fin 8) (v : W64) : (c.push n v).wsret = c.wsret := rfl
@[simp] theorem Core.push_stash (c : Core) (n : Fin 8) (v : W64) : (c.push n v).stash = c.stash := rfl
@[simp] theorem Core.push_lent (c : Core) (n : Fin 8) (v : W64) : (c.push n v).lent = c.lent := rfl
@[simp] theorem Core.push_erd (c : Core) (n : Fin 8) (v : W64) : (c.push n v).erd = c.erd := rfl
@[simp] theorem Core.push_dack (c : Core) (n : Fin 8) (v : W64) : (c.push n v).dack = c.dack := rfl
@[simp] theorem Core.push_raceLost (c : Core) (n : Fin 8) (v : W64) : (c.push n v).raceLost = c.raceLost := rfl
@[simp] theorem Core.push_rx (c : Core) (n : Fin 8) (v : W64) : (c.push n v).rx = c.rx := rfl
@[simp] theorem Core.push_penAt (c : Core) (n : Fin 8) (v : W64) : (c.push n v).penAt = c.penAt := rfl
@[simp] theorem Core.push_posted (c : Core) (n : Fin 8) (v : W64) : (c.push n v).posted = c.posted := rfl
@[simp] theorem Core.push_far (c : Core) (n : Fin 8) (v : W64) : (c.push n v).far = c.far := rfl
@[simp] theorem Core.push_episodes (c : Core) (n : Fin 8) (v : W64) : (c.push n v).episodes = c.episodes := rfl
@[simp] theorem Core.push_arrival (c : Core) (n : Fin 8) (v : W64) : (c.push n v).arrival = c.arrival := rfl
@[simp] theorem Core.push_owed (c : Core) (n : Fin 8) (v : W64) : (c.push n v).owed = c.owed := rfl
@[simp] theorem Core.push_xch (c : Core) (n : Fin 8) (v : W64) : (c.push n v).xch = c.xch := rfl
@[simp] theorem Core.push_utlb (c : Core) (n : Fin 8) (v : W64) : (c.push n v).utlb = c.utlb := rfl
@[simp] theorem Core.push_l1 (c : Core) (n : Fin 8) (v : W64) : (c.push n v).l1 = c.l1 := rfl
@[simp] theorem Core.push_fwd (c : Core) (n : Fin 8) (v : W64) : (c.push n v).fwd = c.fwd := rfl
@[simp] theorem Core.push_gangWait (c : Core) (n : Fin 8) (v : W64) : (c.push n v).gangWait = c.gangWait := rfl
@[simp] theorem Core.push_unsent (c : Core) (n : Fin 8) (v : W64) : (c.push n v).unsent = c.unsent := rfl
@[simp] theorem Core.push_retained (c : Core) (n : Fin 8) (v : W64) : (c.push n v).retained = c.retained := rfl
@[simp] theorem Core.push_saveArrived (c : Core) (n : Fin 8) (v : W64) : (c.push n v).saveArrived = c.saveArrived := rfl
@[simp] theorem Core.push_saveTrapped (c : Core) (n : Fin 8) (v : W64) : (c.push n v).saveTrapped = c.saveTrapped := rfl
@[simp] theorem Core.push_placed (c : Core) (n : Fin 8) (v : W64) : (c.push n v).placed = c.placed := rfl

/-! ### Core.wrReg -/

@[simp] theorem Core.wrReg_st (c : Core) (r : SReg) (v : W64) : (c.wrReg r v).st = c.st := by unfold Core.wrReg; split <;> simp
@[simp] theorem Core.wrReg_pcid (c : Core) (r : SReg) (v : W64) : (c.wrReg r v).pcid = c.pcid := by unfold Core.wrReg; split <;> simp
@[simp] theorem Core.wrReg_queue (c : Core) (r : SReg) (v : W64) : (c.wrReg r v).queue = c.queue := by unfold Core.wrReg; split <;> simp
@[simp] theorem Core.wrReg_pc (c : Core) (r : SReg) (v : W64) : (c.wrReg r v).pc = c.pc := by unfold Core.wrReg; split <;> simp
@[simp] theorem Core.wrReg_obj (c : Core) (r : SReg) (v : W64) : (c.wrReg r v).obj = c.obj := by unfold Core.wrReg; split <;> simp
@[simp] theorem Core.wrReg_latch (c : Core) (r : SReg) (v : W64) : (c.wrReg r v).latch = c.latch := by unfold Core.wrReg; split <;> simp
@[simp] theorem Core.wrReg_p (c : Core) (r : SReg) (v : W64) : (c.wrReg r v).p = c.p := by unfold Core.wrReg; split <;> simp
@[simp] theorem Core.wrReg_k (c : Core) (r : SReg) (v : W64) : (c.wrReg r v).k = c.k := by unfold Core.wrReg; split <;> simp
@[simp] theorem Core.wrReg_tiles (c : Core) (r : SReg) (v : W64) : (c.wrReg r v).tiles = c.tiles := by unfold Core.wrReg; split <;> simp
@[simp] theorem Core.wrReg_types (c : Core) (r : SReg) (v : W64) : (c.wrReg r v).types = c.types := by unfold Core.wrReg; split <;> simp
@[simp] theorem Core.wrReg_lcn (c : Core) (r : SReg) (v : W64) : (c.wrReg r v).lcn = c.lcn := by unfold Core.wrReg; split <;> simp
@[simp] theorem Core.wrReg_ncores (c : Core) (r : SReg) (v : W64) : (c.wrReg r v).ncores = c.ncores := by unfold Core.wrReg; split <;> simp
@[simp] theorem Core.wrReg_ltorus (c : Core) (r : SReg) (v : W64) : (c.wrReg r v).ltorus = c.ltorus := by unfold Core.wrReg; split <;> simp
@[simp] theorem Core.wrReg_dom (c : Core) (r : SReg) (v : W64) : (c.wrReg r v).dom = c.dom := by unfold Core.wrReg; split <;> simp
@[simp] theorem Core.wrReg_domph (c : Core) (r : SReg) (v : W64) : (c.wrReg r v).domph = c.domph := by unfold Core.wrReg; split <;> simp
@[simp] theorem Core.wrReg_jobseed (c : Core) (r : SReg) (v : W64) : (c.wrReg r v).jobseed = c.jobseed := by unfold Core.wrReg; split <;> simp
@[simp] theorem Core.wrReg_gangst (c : Core) (r : SReg) (v : W64) : (c.wrReg r v).gangst = c.gangst := by unfold Core.wrReg; split <;> simp
@[simp] theorem Core.wrReg_streamid (c : Core) (r : SReg) (v : W64) : (c.wrReg r v).streamid = c.streamid := by unfold Core.wrReg; split <;> simp
@[simp] theorem Core.wrReg_mintkey (c : Core) (r : SReg) (v : W64) : (c.wrReg r v).mintkey = c.mintkey := by unfold Core.wrReg; split <;> simp
@[simp] theorem Core.wrReg_srsite (c : Core) (r : SReg) (v : W64) : (c.wrReg r v).srsite = c.srsite := by unfold Core.wrReg; split <;> simp
@[simp] theorem Core.wrReg_srbase (c : Core) (r : SReg) (v : W64) : (c.wrReg r v).srbase = c.srbase := by unfold Core.wrReg; split <;> simp
@[simp] theorem Core.wrReg_fflags (c : Core) (r : SReg) (v : W64) : (c.wrReg r v).fflags = c.fflags := by unfold Core.wrReg; split <;> simp
@[simp] theorem Core.wrReg_frm (c : Core) (r : SReg) (v : W64) : (c.wrReg r v).frm = c.frm := by unfold Core.wrReg; split <;> simp
@[simp] theorem Core.wrReg_vrm (c : Core) (r : SReg) (v : W64) : (c.wrReg r v).vrm = c.vrm := by unfold Core.wrReg; split <;> simp
@[simp] theorem Core.wrReg_cause (c : Core) (r : SReg) (v : W64) : (c.wrReg r v).cause = c.cause := by unfold Core.wrReg; split <;> simp
@[simp] theorem Core.wrReg_tval (c : Core) (r : SReg) (v : W64) : (c.wrReg r v).tval = c.tval := by unfold Core.wrReg; split <;> simp
@[simp] theorem Core.wrReg_epc (c : Core) (r : SReg) (v : W64) : (c.wrReg r v).epc = c.epc := by unfold Core.wrReg; split <;> simp
@[simp] theorem Core.wrReg_raised (c : Core) (r : SReg) (v : W64) : (c.wrReg r v).raised = c.raised := by unfold Core.wrReg; split <;> simp
@[simp] theorem Core.wrReg_tseq (c : Core) (r : SReg) (v : W64) : (c.wrReg r v).tseq = c.tseq := by unfold Core.wrReg; split <;> simp
@[simp] theorem Core.wrReg_shdone (c : Core) (r : SReg) (v : W64) : (c.wrReg r v).shdone = c.shdone := by unfold Core.wrReg; split <;> simp
@[simp] theorem Core.wrReg_rptst (c : Core) (r : SReg) (v : W64) : (c.wrReg r v).rptst = c.rptst := by unfold Core.wrReg; split <;> simp
@[simp] theorem Core.wrReg_fstat (c : Core) (r : SReg) (v : W64) : (c.wrReg r v).fstat = c.fstat := by unfold Core.wrReg; split <;> simp
@[simp] theorem Core.wrReg_evlatch (c : Core) (r : SReg) (v : W64) : (c.wrReg r v).evlatch = c.evlatch := by unfold Core.wrReg; split <;> simp
@[simp] theorem Core.wrReg_vshare (c : Core) (r : SReg) (v : W64) : (c.wrReg r v).vshare = c.vshare := by unfold Core.wrReg; split <;> simp
@[simp] theorem Core.wrReg_copyperm (c : Core) (r : SReg) (v : W64) : (c.wrReg r v).copyperm = c.copyperm := by unfold Core.wrReg; split <;> simp
@[simp] theorem Core.wrReg_penbase (c : Core) (r : SReg) (v : W64) : (c.wrReg r v).penbase = c.penbase := by unfold Core.wrReg; split <;> simp
@[simp] theorem Core.wrReg_pensize (c : Core) (r : SReg) (v : W64) : (c.wrReg r v).pensize = c.pensize := by unfold Core.wrReg; split <;> simp
@[simp] theorem Core.wrReg_tkbase (c : Core) (r : SReg) (v : W64) : (c.wrReg r v).tkbase = c.tkbase := by unfold Core.wrReg; split <;> simp
@[simp] theorem Core.wrReg_tksize (c : Core) (r : SReg) (v : W64) : (c.wrReg r v).tksize = c.tksize := by unfold Core.wrReg; split <;> simp
@[simp] theorem Core.wrReg_steallvl (c : Core) (r : SReg) (v : W64) : (c.wrReg r v).steallvl = c.steallvl := by unfold Core.wrReg; split <;> simp
@[simp] theorem Core.wrReg_stealtry (c : Core) (r : SReg) (v : W64) : (c.wrReg r v).stealtry = c.stealtry := by unfold Core.wrReg; split <;> simp
@[simp] theorem Core.wrReg_twin (c : Core) (r : SReg) (v : W64) : (c.wrReg r v).twin = c.twin := by unfold Core.wrReg; split <;> simp
@[simp] theorem Core.wrReg_migthresh (c : Core) (r : SReg) (v : W64) : (c.wrReg r v).migthresh = c.migthresh := by unfold Core.wrReg; split <;> simp
@[simp] theorem Core.wrReg_bayfmt (c : Core) (r : SReg) (v : W64) : (c.wrReg r v).bayfmt = c.bayfmt := by unfold Core.wrReg; split <;> simp
@[simp] theorem Core.wrReg_lmin (c : Core) (r : SReg) (v : W64) : (c.wrReg r v).lmin = c.lmin := by unfold Core.wrReg; split <;> simp
@[simp] theorem Core.wrReg_lmem (c : Core) (r : SReg) (v : W64) : (c.wrReg r v).lmem = c.lmem := by unfold Core.wrReg; split <;> simp
@[simp] theorem Core.wrReg_empties (c : Core) (r : SReg) (v : W64) : (c.wrReg r v).empties = c.empties := by unfold Core.wrReg; split <;> simp
@[simp] theorem Core.wrReg_desc (c : Core) (r : SReg) (v : W64) : (c.wrReg r v).desc = c.desc := by unfold Core.wrReg; split <;> simp
@[simp] theorem Core.wrReg_modp (c : Core) (r : SReg) (v : W64) : (c.wrReg r v).modp = c.modp := by unfold Core.wrReg; split <;> simp
@[simp] theorem Core.wrReg_frame (c : Core) (r : SReg) (v : W64) : (c.wrReg r v).frame = c.frame := by unfold Core.wrReg; split <;> simp
@[simp] theorem Core.wrReg_shadow (c : Core) (r : SReg) (v : W64) : (c.wrReg r v).shadow = c.shadow := by unfold Core.wrReg; split <;> simp
@[simp] theorem Core.wrReg_resume (c : Core) (r : SReg) (v : W64) : (c.wrReg r v).resume = c.resume := by unfold Core.wrReg; split <;> simp
@[simp] theorem Core.wrReg_cq (c : Core) (r : SReg) (v : W64) : (c.wrReg r v).cq = c.cq := by unfold Core.wrReg; split <;> simp
@[simp] theorem Core.wrReg_cqNext (c : Core) (r : SReg) (v : W64) : (c.wrReg r v).cqNext = c.cqNext := by unfold Core.wrReg; split <;> simp
@[simp] theorem Core.wrReg_mx (c : Core) (r : SReg) (v : W64) : (c.wrReg r v).mx = c.mx := by unfold Core.wrReg; split <;> simp
@[simp] theorem Core.wrReg_cf (c : Core) (r : SReg) (v : W64) : (c.wrReg r v).cf = c.cf := by unfold Core.wrReg; split <;> simp
@[simp] theorem Core.wrReg_slots (c : Core) (r : SReg) (v : W64) : (c.wrReg r v).slots = c.slots := by unfold Core.wrReg; split <;> simp
@[simp] theorem Core.wrReg_deque (c : Core) (r : SReg) (v : W64) : (c.wrReg r v).deque = c.deque := by unfold Core.wrReg; split <;> simp
@[simp] theorem Core.wrReg_task (c : Core) (r : SReg) (v : W64) : (c.wrReg r v).task = c.task := by unfold Core.wrReg; split <;> simp
@[simp] theorem Core.wrReg_kpops (c : Core) (r : SReg) (v : W64) : (c.wrReg r v).kpops = c.kpops := by unfold Core.wrReg; split <;> simp
@[simp] theorem Core.wrReg_probe (c : Core) (r : SReg) (v : W64) : (c.wrReg r v).probe = c.probe := by unfold Core.wrReg; split <;> simp
@[simp] theorem Core.wrReg_wsret (c : Core) (r : SReg) (v : W64) : (c.wrReg r v).wsret = c.wsret := by unfold Core.wrReg; split <;> simp
@[simp] theorem Core.wrReg_stash (c : Core) (r : SReg) (v : W64) : (c.wrReg r v).stash = c.stash := by unfold Core.wrReg; split <;> simp
@[simp] theorem Core.wrReg_lent (c : Core) (r : SReg) (v : W64) : (c.wrReg r v).lent = c.lent := by unfold Core.wrReg; split <;> simp
@[simp] theorem Core.wrReg_erd (c : Core) (r : SReg) (v : W64) : (c.wrReg r v).erd = c.erd := by unfold Core.wrReg; split <;> simp
@[simp] theorem Core.wrReg_dack (c : Core) (r : SReg) (v : W64) : (c.wrReg r v).dack = c.dack := by unfold Core.wrReg; split <;> simp
@[simp] theorem Core.wrReg_raceLost (c : Core) (r : SReg) (v : W64) : (c.wrReg r v).raceLost = c.raceLost := by unfold Core.wrReg; split <;> simp
@[simp] theorem Core.wrReg_rx (c : Core) (r : SReg) (v : W64) : (c.wrReg r v).rx = c.rx := by unfold Core.wrReg; split <;> simp
@[simp] theorem Core.wrReg_penAt (c : Core) (r : SReg) (v : W64) : (c.wrReg r v).penAt = c.penAt := by unfold Core.wrReg; split <;> simp
@[simp] theorem Core.wrReg_posted (c : Core) (r : SReg) (v : W64) : (c.wrReg r v).posted = c.posted := by unfold Core.wrReg; split <;> simp
@[simp] theorem Core.wrReg_far (c : Core) (r : SReg) (v : W64) : (c.wrReg r v).far = c.far := by unfold Core.wrReg; split <;> simp
@[simp] theorem Core.wrReg_episodes (c : Core) (r : SReg) (v : W64) : (c.wrReg r v).episodes = c.episodes := by unfold Core.wrReg; split <;> simp
@[simp] theorem Core.wrReg_arrival (c : Core) (r : SReg) (v : W64) : (c.wrReg r v).arrival = c.arrival := by unfold Core.wrReg; split <;> simp
@[simp] theorem Core.wrReg_owed (c : Core) (r : SReg) (v : W64) : (c.wrReg r v).owed = c.owed := by unfold Core.wrReg; split <;> simp
@[simp] theorem Core.wrReg_xch (c : Core) (r : SReg) (v : W64) : (c.wrReg r v).xch = c.xch := by unfold Core.wrReg; split <;> simp
@[simp] theorem Core.wrReg_utlb (c : Core) (r : SReg) (v : W64) : (c.wrReg r v).utlb = c.utlb := by unfold Core.wrReg; split <;> simp
@[simp] theorem Core.wrReg_l1 (c : Core) (r : SReg) (v : W64) : (c.wrReg r v).l1 = c.l1 := by unfold Core.wrReg; split <;> simp
@[simp] theorem Core.wrReg_fwd (c : Core) (r : SReg) (v : W64) : (c.wrReg r v).fwd = c.fwd := by unfold Core.wrReg; split <;> simp
@[simp] theorem Core.wrReg_gangWait (c : Core) (r : SReg) (v : W64) : (c.wrReg r v).gangWait = c.gangWait := by unfold Core.wrReg; split <;> simp
@[simp] theorem Core.wrReg_unsent (c : Core) (r : SReg) (v : W64) : (c.wrReg r v).unsent = c.unsent := by unfold Core.wrReg; split <;> simp
@[simp] theorem Core.wrReg_retained (c : Core) (r : SReg) (v : W64) : (c.wrReg r v).retained = c.retained := by unfold Core.wrReg; split <;> simp
@[simp] theorem Core.wrReg_saveArrived (c : Core) (r : SReg) (v : W64) : (c.wrReg r v).saveArrived = c.saveArrived := by unfold Core.wrReg; split <;> simp
@[simp] theorem Core.wrReg_saveTrapped (c : Core) (r : SReg) (v : W64) : (c.wrReg r v).saveTrapped = c.saveTrapped := by unfold Core.wrReg; split <;> simp
@[simp] theorem Core.wrReg_placed (c : Core) (r : SReg) (v : W64) : (c.wrReg r v).placed = c.placed := by unfold Core.wrReg; split <;> simp

/-! ### Core.out -/

@[simp] theorem Core.out_st (c : Core) (r : SReg) (v : W64) : (c.out r v).st = c.st := by unfold Core.out; split <;> simp
@[simp] theorem Core.out_pcid (c : Core) (r : SReg) (v : W64) : (c.out r v).pcid = c.pcid := by unfold Core.out; split <;> simp
@[simp] theorem Core.out_queue (c : Core) (r : SReg) (v : W64) : (c.out r v).queue = c.queue := by unfold Core.out; split <;> simp
@[simp] theorem Core.out_pc (c : Core) (r : SReg) (v : W64) : (c.out r v).pc = c.pc := by unfold Core.out; split <;> simp
@[simp] theorem Core.out_obj (c : Core) (r : SReg) (v : W64) : (c.out r v).obj = c.obj := by unfold Core.out; split <;> simp
@[simp] theorem Core.out_latch (c : Core) (r : SReg) (v : W64) : (c.out r v).latch = c.latch := by unfold Core.out; split <;> simp
@[simp] theorem Core.out_p (c : Core) (r : SReg) (v : W64) : (c.out r v).p = c.p := by unfold Core.out; split <;> simp
@[simp] theorem Core.out_k (c : Core) (r : SReg) (v : W64) : (c.out r v).k = c.k := by unfold Core.out; split <;> simp
@[simp] theorem Core.out_tiles (c : Core) (r : SReg) (v : W64) : (c.out r v).tiles = c.tiles := by unfold Core.out; split <;> simp
@[simp] theorem Core.out_types (c : Core) (r : SReg) (v : W64) : (c.out r v).types = c.types := by unfold Core.out; split <;> simp
@[simp] theorem Core.out_lcn (c : Core) (r : SReg) (v : W64) : (c.out r v).lcn = c.lcn := by unfold Core.out; split <;> simp
@[simp] theorem Core.out_ncores (c : Core) (r : SReg) (v : W64) : (c.out r v).ncores = c.ncores := by unfold Core.out; split <;> simp
@[simp] theorem Core.out_ltorus (c : Core) (r : SReg) (v : W64) : (c.out r v).ltorus = c.ltorus := by unfold Core.out; split <;> simp
@[simp] theorem Core.out_dom (c : Core) (r : SReg) (v : W64) : (c.out r v).dom = c.dom := by unfold Core.out; split <;> simp
@[simp] theorem Core.out_domph (c : Core) (r : SReg) (v : W64) : (c.out r v).domph = c.domph := by unfold Core.out; split <;> simp
@[simp] theorem Core.out_jobseed (c : Core) (r : SReg) (v : W64) : (c.out r v).jobseed = c.jobseed := by unfold Core.out; split <;> simp
@[simp] theorem Core.out_gangst (c : Core) (r : SReg) (v : W64) : (c.out r v).gangst = c.gangst := by unfold Core.out; split <;> simp
@[simp] theorem Core.out_streamid (c : Core) (r : SReg) (v : W64) : (c.out r v).streamid = c.streamid := by unfold Core.out; split <;> simp
@[simp] theorem Core.out_mintkey (c : Core) (r : SReg) (v : W64) : (c.out r v).mintkey = c.mintkey := by unfold Core.out; split <;> simp
@[simp] theorem Core.out_srsite (c : Core) (r : SReg) (v : W64) : (c.out r v).srsite = c.srsite := by unfold Core.out; split <;> simp
@[simp] theorem Core.out_srbase (c : Core) (r : SReg) (v : W64) : (c.out r v).srbase = c.srbase := by unfold Core.out; split <;> simp
@[simp] theorem Core.out_fflags (c : Core) (r : SReg) (v : W64) : (c.out r v).fflags = c.fflags := by unfold Core.out; split <;> simp
@[simp] theorem Core.out_frm (c : Core) (r : SReg) (v : W64) : (c.out r v).frm = c.frm := by unfold Core.out; split <;> simp
@[simp] theorem Core.out_vrm (c : Core) (r : SReg) (v : W64) : (c.out r v).vrm = c.vrm := by unfold Core.out; split <;> simp
@[simp] theorem Core.out_cause (c : Core) (r : SReg) (v : W64) : (c.out r v).cause = c.cause := by unfold Core.out; split <;> simp
@[simp] theorem Core.out_tval (c : Core) (r : SReg) (v : W64) : (c.out r v).tval = c.tval := by unfold Core.out; split <;> simp
@[simp] theorem Core.out_epc (c : Core) (r : SReg) (v : W64) : (c.out r v).epc = c.epc := by unfold Core.out; split <;> simp
@[simp] theorem Core.out_raised (c : Core) (r : SReg) (v : W64) : (c.out r v).raised = c.raised := by unfold Core.out; split <;> simp
@[simp] theorem Core.out_tseq (c : Core) (r : SReg) (v : W64) : (c.out r v).tseq = c.tseq := by unfold Core.out; split <;> simp
@[simp] theorem Core.out_shdone (c : Core) (r : SReg) (v : W64) : (c.out r v).shdone = c.shdone := by unfold Core.out; split <;> simp
@[simp] theorem Core.out_rptst (c : Core) (r : SReg) (v : W64) : (c.out r v).rptst = c.rptst := by unfold Core.out; split <;> simp
@[simp] theorem Core.out_fstat (c : Core) (r : SReg) (v : W64) : (c.out r v).fstat = c.fstat := by unfold Core.out; split <;> simp
@[simp] theorem Core.out_evlatch (c : Core) (r : SReg) (v : W64) : (c.out r v).evlatch = c.evlatch := by unfold Core.out; split <;> simp
@[simp] theorem Core.out_vshare (c : Core) (r : SReg) (v : W64) : (c.out r v).vshare = c.vshare := by unfold Core.out; split <;> simp
@[simp] theorem Core.out_copyperm (c : Core) (r : SReg) (v : W64) : (c.out r v).copyperm = c.copyperm := by unfold Core.out; split <;> simp
@[simp] theorem Core.out_penbase (c : Core) (r : SReg) (v : W64) : (c.out r v).penbase = c.penbase := by unfold Core.out; split <;> simp
@[simp] theorem Core.out_pensize (c : Core) (r : SReg) (v : W64) : (c.out r v).pensize = c.pensize := by unfold Core.out; split <;> simp
@[simp] theorem Core.out_tkbase (c : Core) (r : SReg) (v : W64) : (c.out r v).tkbase = c.tkbase := by unfold Core.out; split <;> simp
@[simp] theorem Core.out_tksize (c : Core) (r : SReg) (v : W64) : (c.out r v).tksize = c.tksize := by unfold Core.out; split <;> simp
@[simp] theorem Core.out_steallvl (c : Core) (r : SReg) (v : W64) : (c.out r v).steallvl = c.steallvl := by unfold Core.out; split <;> simp
@[simp] theorem Core.out_stealtry (c : Core) (r : SReg) (v : W64) : (c.out r v).stealtry = c.stealtry := by unfold Core.out; split <;> simp
@[simp] theorem Core.out_twin (c : Core) (r : SReg) (v : W64) : (c.out r v).twin = c.twin := by unfold Core.out; split <;> simp
@[simp] theorem Core.out_migthresh (c : Core) (r : SReg) (v : W64) : (c.out r v).migthresh = c.migthresh := by unfold Core.out; split <;> simp
@[simp] theorem Core.out_bayfmt (c : Core) (r : SReg) (v : W64) : (c.out r v).bayfmt = c.bayfmt := by unfold Core.out; split <;> simp
@[simp] theorem Core.out_lmin (c : Core) (r : SReg) (v : W64) : (c.out r v).lmin = c.lmin := by unfold Core.out; split <;> simp
@[simp] theorem Core.out_lmem (c : Core) (r : SReg) (v : W64) : (c.out r v).lmem = c.lmem := by unfold Core.out; split <;> simp
@[simp] theorem Core.out_empties (c : Core) (r : SReg) (v : W64) : (c.out r v).empties = c.empties := by unfold Core.out; split <;> simp
@[simp] theorem Core.out_desc (c : Core) (r : SReg) (v : W64) : (c.out r v).desc = c.desc := by unfold Core.out; split <;> simp
@[simp] theorem Core.out_modp (c : Core) (r : SReg) (v : W64) : (c.out r v).modp = c.modp := by unfold Core.out; split <;> simp
@[simp] theorem Core.out_frame (c : Core) (r : SReg) (v : W64) : (c.out r v).frame = c.frame := by unfold Core.out; split <;> simp
@[simp] theorem Core.out_shadow (c : Core) (r : SReg) (v : W64) : (c.out r v).shadow = c.shadow := by unfold Core.out; split <;> simp
@[simp] theorem Core.out_resume (c : Core) (r : SReg) (v : W64) : (c.out r v).resume = c.resume := by unfold Core.out; split <;> simp
@[simp] theorem Core.out_cq (c : Core) (r : SReg) (v : W64) : (c.out r v).cq = c.cq := by unfold Core.out; split <;> simp
@[simp] theorem Core.out_cqNext (c : Core) (r : SReg) (v : W64) : (c.out r v).cqNext = c.cqNext := by unfold Core.out; split <;> simp
@[simp] theorem Core.out_mx (c : Core) (r : SReg) (v : W64) : (c.out r v).mx = c.mx := by unfold Core.out; split <;> simp
@[simp] theorem Core.out_cf (c : Core) (r : SReg) (v : W64) : (c.out r v).cf = c.cf := by unfold Core.out; split <;> simp
@[simp] theorem Core.out_slots (c : Core) (r : SReg) (v : W64) : (c.out r v).slots = c.slots := by unfold Core.out; split <;> simp
@[simp] theorem Core.out_deque (c : Core) (r : SReg) (v : W64) : (c.out r v).deque = c.deque := by unfold Core.out; split <;> simp
@[simp] theorem Core.out_task (c : Core) (r : SReg) (v : W64) : (c.out r v).task = c.task := by unfold Core.out; split <;> simp
@[simp] theorem Core.out_kpops (c : Core) (r : SReg) (v : W64) : (c.out r v).kpops = c.kpops := by unfold Core.out; split <;> simp
@[simp] theorem Core.out_probe (c : Core) (r : SReg) (v : W64) : (c.out r v).probe = c.probe := by unfold Core.out; split <;> simp
@[simp] theorem Core.out_wsret (c : Core) (r : SReg) (v : W64) : (c.out r v).wsret = c.wsret := by unfold Core.out; split <;> simp
@[simp] theorem Core.out_stash (c : Core) (r : SReg) (v : W64) : (c.out r v).stash = c.stash := by unfold Core.out; split <;> simp
@[simp] theorem Core.out_lent (c : Core) (r : SReg) (v : W64) : (c.out r v).lent = c.lent := by unfold Core.out; split <;> simp
@[simp] theorem Core.out_erd (c : Core) (r : SReg) (v : W64) : (c.out r v).erd = c.erd := by unfold Core.out; split <;> simp
@[simp] theorem Core.out_dack (c : Core) (r : SReg) (v : W64) : (c.out r v).dack = c.dack := by unfold Core.out; split <;> simp
@[simp] theorem Core.out_raceLost (c : Core) (r : SReg) (v : W64) : (c.out r v).raceLost = c.raceLost := by unfold Core.out; split <;> simp
@[simp] theorem Core.out_rx (c : Core) (r : SReg) (v : W64) : (c.out r v).rx = c.rx := by unfold Core.out; split <;> simp
@[simp] theorem Core.out_penAt (c : Core) (r : SReg) (v : W64) : (c.out r v).penAt = c.penAt := by unfold Core.out; split <;> simp
@[simp] theorem Core.out_posted (c : Core) (r : SReg) (v : W64) : (c.out r v).posted = c.posted := by unfold Core.out; split <;> simp
@[simp] theorem Core.out_far (c : Core) (r : SReg) (v : W64) : (c.out r v).far = c.far := by unfold Core.out; split <;> simp
@[simp] theorem Core.out_episodes (c : Core) (r : SReg) (v : W64) : (c.out r v).episodes = c.episodes := by unfold Core.out; split <;> simp
@[simp] theorem Core.out_arrival (c : Core) (r : SReg) (v : W64) : (c.out r v).arrival = c.arrival := by unfold Core.out; split <;> simp
@[simp] theorem Core.out_owed (c : Core) (r : SReg) (v : W64) : (c.out r v).owed = c.owed := by unfold Core.out; split <;> simp
@[simp] theorem Core.out_xch (c : Core) (r : SReg) (v : W64) : (c.out r v).xch = c.xch := by unfold Core.out; split <;> simp
@[simp] theorem Core.out_utlb (c : Core) (r : SReg) (v : W64) : (c.out r v).utlb = c.utlb := by unfold Core.out; split <;> simp
@[simp] theorem Core.out_l1 (c : Core) (r : SReg) (v : W64) : (c.out r v).l1 = c.l1 := by unfold Core.out; split <;> simp
@[simp] theorem Core.out_fwd (c : Core) (r : SReg) (v : W64) : (c.out r v).fwd = c.fwd := by unfold Core.out; split <;> simp
@[simp] theorem Core.out_gangWait (c : Core) (r : SReg) (v : W64) : (c.out r v).gangWait = c.gangWait := by unfold Core.out; split <;> simp
@[simp] theorem Core.out_unsent (c : Core) (r : SReg) (v : W64) : (c.out r v).unsent = c.unsent := by unfold Core.out; split <;> simp
@[simp] theorem Core.out_retained (c : Core) (r : SReg) (v : W64) : (c.out r v).retained = c.retained := by unfold Core.out; split <;> simp
@[simp] theorem Core.out_saveArrived (c : Core) (r : SReg) (v : W64) : (c.out r v).saveArrived = c.saveArrived := by unfold Core.out; split <;> simp
@[simp] theorem Core.out_saveTrapped (c : Core) (r : SReg) (v : W64) : (c.out r v).saveTrapped = c.saveTrapped := by unfold Core.out; split <;> simp
@[simp] theorem Core.out_placed (c : Core) (r : SReg) (v : W64) : (c.out r v).placed = c.placed := by unfold Core.out; split <;> simp

/-! ### Core.land -/

@[simp] theorem Core.land_st (c : Core) (w : Wr) : (c.land w).st = c.st := by cases w <;> simp [Core.land]
@[simp] theorem Core.land_pcid (c : Core) (w : Wr) : (c.land w).pcid = c.pcid := by cases w <;> simp [Core.land]
@[simp] theorem Core.land_queue (c : Core) (w : Wr) : (c.land w).queue = c.queue := by cases w <;> simp [Core.land]
@[simp] theorem Core.land_pc (c : Core) (w : Wr) : (c.land w).pc = c.pc := by cases w <;> simp [Core.land]
@[simp] theorem Core.land_obj (c : Core) (w : Wr) : (c.land w).obj = c.obj := by cases w <;> simp [Core.land]
@[simp] theorem Core.land_latch (c : Core) (w : Wr) : (c.land w).latch = c.latch := by cases w <;> simp [Core.land]
@[simp] theorem Core.land_p (c : Core) (w : Wr) : (c.land w).p = c.p := by cases w <;> simp [Core.land]
@[simp] theorem Core.land_tiles (c : Core) (w : Wr) : (c.land w).tiles = c.tiles := by cases w <;> simp [Core.land]
@[simp] theorem Core.land_types (c : Core) (w : Wr) : (c.land w).types = c.types := by cases w <;> simp [Core.land]
@[simp] theorem Core.land_lcn (c : Core) (w : Wr) : (c.land w).lcn = c.lcn := by cases w <;> simp [Core.land]
@[simp] theorem Core.land_ncores (c : Core) (w : Wr) : (c.land w).ncores = c.ncores := by cases w <;> simp [Core.land]
@[simp] theorem Core.land_ltorus (c : Core) (w : Wr) : (c.land w).ltorus = c.ltorus := by cases w <;> simp [Core.land]
@[simp] theorem Core.land_dom (c : Core) (w : Wr) : (c.land w).dom = c.dom := by cases w <;> simp [Core.land]
@[simp] theorem Core.land_domph (c : Core) (w : Wr) : (c.land w).domph = c.domph := by cases w <;> simp [Core.land]
@[simp] theorem Core.land_jobseed (c : Core) (w : Wr) : (c.land w).jobseed = c.jobseed := by cases w <;> simp [Core.land]
@[simp] theorem Core.land_gangst (c : Core) (w : Wr) : (c.land w).gangst = c.gangst := by cases w <;> simp [Core.land]
@[simp] theorem Core.land_streamid (c : Core) (w : Wr) : (c.land w).streamid = c.streamid := by cases w <;> simp [Core.land]
@[simp] theorem Core.land_mintkey (c : Core) (w : Wr) : (c.land w).mintkey = c.mintkey := by cases w <;> simp [Core.land]
@[simp] theorem Core.land_srsite (c : Core) (w : Wr) : (c.land w).srsite = c.srsite := by cases w <;> simp [Core.land]
@[simp] theorem Core.land_srbase (c : Core) (w : Wr) : (c.land w).srbase = c.srbase := by cases w <;> simp [Core.land]
@[simp] theorem Core.land_fflags (c : Core) (w : Wr) : (c.land w).fflags = c.fflags := by cases w <;> simp [Core.land]
@[simp] theorem Core.land_frm (c : Core) (w : Wr) : (c.land w).frm = c.frm := by cases w <;> simp [Core.land]
@[simp] theorem Core.land_vrm (c : Core) (w : Wr) : (c.land w).vrm = c.vrm := by cases w <;> simp [Core.land]
@[simp] theorem Core.land_cause (c : Core) (w : Wr) : (c.land w).cause = c.cause := by cases w <;> simp [Core.land]
@[simp] theorem Core.land_tval (c : Core) (w : Wr) : (c.land w).tval = c.tval := by cases w <;> simp [Core.land]
@[simp] theorem Core.land_epc (c : Core) (w : Wr) : (c.land w).epc = c.epc := by cases w <;> simp [Core.land]
@[simp] theorem Core.land_raised (c : Core) (w : Wr) : (c.land w).raised = c.raised := by cases w <;> simp [Core.land]
@[simp] theorem Core.land_tseq (c : Core) (w : Wr) : (c.land w).tseq = c.tseq := by cases w <;> simp [Core.land]
@[simp] theorem Core.land_shdone (c : Core) (w : Wr) : (c.land w).shdone = c.shdone := by cases w <;> simp [Core.land]
@[simp] theorem Core.land_rptst (c : Core) (w : Wr) : (c.land w).rptst = c.rptst := by cases w <;> simp [Core.land]
@[simp] theorem Core.land_fstat (c : Core) (w : Wr) : (c.land w).fstat = c.fstat := by cases w <;> simp [Core.land]
@[simp] theorem Core.land_evlatch (c : Core) (w : Wr) : (c.land w).evlatch = c.evlatch := by cases w <;> simp [Core.land]
@[simp] theorem Core.land_vshare (c : Core) (w : Wr) : (c.land w).vshare = c.vshare := by cases w <;> simp [Core.land]
@[simp] theorem Core.land_copyperm (c : Core) (w : Wr) : (c.land w).copyperm = c.copyperm := by cases w <;> simp [Core.land]
@[simp] theorem Core.land_penbase (c : Core) (w : Wr) : (c.land w).penbase = c.penbase := by cases w <;> simp [Core.land]
@[simp] theorem Core.land_pensize (c : Core) (w : Wr) : (c.land w).pensize = c.pensize := by cases w <;> simp [Core.land]
@[simp] theorem Core.land_tkbase (c : Core) (w : Wr) : (c.land w).tkbase = c.tkbase := by cases w <;> simp [Core.land]
@[simp] theorem Core.land_tksize (c : Core) (w : Wr) : (c.land w).tksize = c.tksize := by cases w <;> simp [Core.land]
@[simp] theorem Core.land_steallvl (c : Core) (w : Wr) : (c.land w).steallvl = c.steallvl := by cases w <;> simp [Core.land]
@[simp] theorem Core.land_stealtry (c : Core) (w : Wr) : (c.land w).stealtry = c.stealtry := by cases w <;> simp [Core.land]
@[simp] theorem Core.land_twin (c : Core) (w : Wr) : (c.land w).twin = c.twin := by cases w <;> simp [Core.land]
@[simp] theorem Core.land_migthresh (c : Core) (w : Wr) : (c.land w).migthresh = c.migthresh := by cases w <;> simp [Core.land]
@[simp] theorem Core.land_bayfmt (c : Core) (w : Wr) : (c.land w).bayfmt = c.bayfmt := by cases w <;> simp [Core.land]
@[simp] theorem Core.land_lmin (c : Core) (w : Wr) : (c.land w).lmin = c.lmin := by cases w <;> simp [Core.land]
@[simp] theorem Core.land_lmem (c : Core) (w : Wr) : (c.land w).lmem = c.lmem := by cases w <;> simp [Core.land]
@[simp] theorem Core.land_empties (c : Core) (w : Wr) : (c.land w).empties = c.empties := by cases w <;> simp [Core.land]
@[simp] theorem Core.land_desc (c : Core) (w : Wr) : (c.land w).desc = c.desc := by cases w <;> simp [Core.land]
@[simp] theorem Core.land_modp (c : Core) (w : Wr) : (c.land w).modp = c.modp := by cases w <;> simp [Core.land]
@[simp] theorem Core.land_frame (c : Core) (w : Wr) : (c.land w).frame = c.frame := by cases w <;> simp [Core.land]
@[simp] theorem Core.land_shadow (c : Core) (w : Wr) : (c.land w).shadow = c.shadow := by cases w <;> simp [Core.land]
@[simp] theorem Core.land_resume (c : Core) (w : Wr) : (c.land w).resume = c.resume := by cases w <;> simp [Core.land]
@[simp] theorem Core.land_cq (c : Core) (w : Wr) : (c.land w).cq = c.cq := by cases w <;> simp [Core.land]
@[simp] theorem Core.land_cqNext (c : Core) (w : Wr) : (c.land w).cqNext = c.cqNext := by cases w <;> simp [Core.land]
@[simp] theorem Core.land_mx (c : Core) (w : Wr) : (c.land w).mx = c.mx := by cases w <;> simp [Core.land]
@[simp] theorem Core.land_cf (c : Core) (w : Wr) : (c.land w).cf = c.cf := by cases w <;> simp [Core.land]
@[simp] theorem Core.land_slots (c : Core) (w : Wr) : (c.land w).slots = c.slots := by cases w <;> simp [Core.land]
@[simp] theorem Core.land_deque (c : Core) (w : Wr) : (c.land w).deque = c.deque := by cases w <;> simp [Core.land]
@[simp] theorem Core.land_task (c : Core) (w : Wr) : (c.land w).task = c.task := by cases w <;> simp [Core.land]
@[simp] theorem Core.land_kpops (c : Core) (w : Wr) : (c.land w).kpops = c.kpops := by cases w <;> simp [Core.land]
@[simp] theorem Core.land_probe (c : Core) (w : Wr) : (c.land w).probe = c.probe := by cases w <;> simp [Core.land]
@[simp] theorem Core.land_wsret (c : Core) (w : Wr) : (c.land w).wsret = c.wsret := by cases w <;> simp [Core.land]
@[simp] theorem Core.land_stash (c : Core) (w : Wr) : (c.land w).stash = c.stash := by cases w <;> simp [Core.land]
@[simp] theorem Core.land_lent (c : Core) (w : Wr) : (c.land w).lent = c.lent := by cases w <;> simp [Core.land]
@[simp] theorem Core.land_erd (c : Core) (w : Wr) : (c.land w).erd = c.erd := by cases w <;> simp [Core.land]
@[simp] theorem Core.land_dack (c : Core) (w : Wr) : (c.land w).dack = c.dack := by cases w <;> simp [Core.land]
@[simp] theorem Core.land_raceLost (c : Core) (w : Wr) : (c.land w).raceLost = c.raceLost := by cases w <;> simp [Core.land]
@[simp] theorem Core.land_rx (c : Core) (w : Wr) : (c.land w).rx = c.rx := by cases w <;> simp [Core.land]
@[simp] theorem Core.land_penAt (c : Core) (w : Wr) : (c.land w).penAt = c.penAt := by cases w <;> simp [Core.land]
@[simp] theorem Core.land_posted (c : Core) (w : Wr) : (c.land w).posted = c.posted := by cases w <;> simp [Core.land]
@[simp] theorem Core.land_far (c : Core) (w : Wr) : (c.land w).far = c.far := by cases w <;> simp [Core.land]
@[simp] theorem Core.land_episodes (c : Core) (w : Wr) : (c.land w).episodes = c.episodes := by cases w <;> simp [Core.land]
@[simp] theorem Core.land_arrival (c : Core) (w : Wr) : (c.land w).arrival = c.arrival := by cases w <;> simp [Core.land]
@[simp] theorem Core.land_owed (c : Core) (w : Wr) : (c.land w).owed = c.owed := by cases w <;> simp [Core.land]
@[simp] theorem Core.land_xch (c : Core) (w : Wr) : (c.land w).xch = c.xch := by cases w <;> simp [Core.land]
@[simp] theorem Core.land_utlb (c : Core) (w : Wr) : (c.land w).utlb = c.utlb := by cases w <;> simp [Core.land]
@[simp] theorem Core.land_l1 (c : Core) (w : Wr) : (c.land w).l1 = c.l1 := by cases w <;> simp [Core.land]
@[simp] theorem Core.land_fwd (c : Core) (w : Wr) : (c.land w).fwd = c.fwd := by cases w <;> simp [Core.land]
@[simp] theorem Core.land_gangWait (c : Core) (w : Wr) : (c.land w).gangWait = c.gangWait := by cases w <;> simp [Core.land]
@[simp] theorem Core.land_unsent (c : Core) (w : Wr) : (c.land w).unsent = c.unsent := by cases w <;> simp [Core.land]
@[simp] theorem Core.land_retained (c : Core) (w : Wr) : (c.land w).retained = c.retained := by cases w <;> simp [Core.land]
@[simp] theorem Core.land_saveArrived (c : Core) (w : Wr) : (c.land w).saveArrived = c.saveArrived := by cases w <;> simp [Core.land]
@[simp] theorem Core.land_saveTrapped (c : Core) (w : Wr) : (c.land w).saveTrapped = c.saveTrapped := by cases w <;> simp [Core.land]
@[simp] theorem Core.land_placed (c : Core) (w : Wr) : (c.land w).placed = c.placed := by cases w <;> simp [Core.land]

/-! ### Core.setFe -/

@[simp] theorem Core.setFe_st (c : Core) (o : Nat) (b : Bool) : (c.setFe o b).st = c.st := rfl
@[simp] theorem Core.setFe_pcid (c : Core) (o : Nat) (b : Bool) : (c.setFe o b).pcid = c.pcid := rfl
@[simp] theorem Core.setFe_queue (c : Core) (o : Nat) (b : Bool) : (c.setFe o b).queue = c.queue := rfl
@[simp] theorem Core.setFe_pc (c : Core) (o : Nat) (b : Bool) : (c.setFe o b).pc = c.pc := rfl
@[simp] theorem Core.setFe_obj (c : Core) (o : Nat) (b : Bool) : (c.setFe o b).obj = c.obj := rfl
@[simp] theorem Core.setFe_latch (c : Core) (o : Nat) (b : Bool) : (c.setFe o b).latch = c.latch := rfl
@[simp] theorem Core.setFe_s (c : Core) (o : Nat) (b : Bool) : (c.setFe o b).s = c.s := rfl
@[simp] theorem Core.setFe_p (c : Core) (o : Nat) (b : Bool) : (c.setFe o b).p = c.p := rfl
@[simp] theorem Core.setFe_k (c : Core) (o : Nat) (b : Bool) : (c.setFe o b).k = c.k := rfl
@[simp] theorem Core.setFe_tiles (c : Core) (o : Nat) (b : Bool) : (c.setFe o b).tiles = c.tiles := rfl
@[simp] theorem Core.setFe_types (c : Core) (o : Nat) (b : Bool) : (c.setFe o b).types = c.types := rfl
@[simp] theorem Core.setFe_lcn (c : Core) (o : Nat) (b : Bool) : (c.setFe o b).lcn = c.lcn := rfl
@[simp] theorem Core.setFe_ncores (c : Core) (o : Nat) (b : Bool) : (c.setFe o b).ncores = c.ncores := rfl
@[simp] theorem Core.setFe_ltorus (c : Core) (o : Nat) (b : Bool) : (c.setFe o b).ltorus = c.ltorus := rfl
@[simp] theorem Core.setFe_dom (c : Core) (o : Nat) (b : Bool) : (c.setFe o b).dom = c.dom := rfl
@[simp] theorem Core.setFe_domph (c : Core) (o : Nat) (b : Bool) : (c.setFe o b).domph = c.domph := rfl
@[simp] theorem Core.setFe_jobseed (c : Core) (o : Nat) (b : Bool) : (c.setFe o b).jobseed = c.jobseed := rfl
@[simp] theorem Core.setFe_gangst (c : Core) (o : Nat) (b : Bool) : (c.setFe o b).gangst = c.gangst := rfl
@[simp] theorem Core.setFe_streamid (c : Core) (o : Nat) (b : Bool) : (c.setFe o b).streamid = c.streamid := rfl
@[simp] theorem Core.setFe_mintkey (c : Core) (o : Nat) (b : Bool) : (c.setFe o b).mintkey = c.mintkey := rfl
@[simp] theorem Core.setFe_srsite (c : Core) (o : Nat) (b : Bool) : (c.setFe o b).srsite = c.srsite := rfl
@[simp] theorem Core.setFe_srbase (c : Core) (o : Nat) (b : Bool) : (c.setFe o b).srbase = c.srbase := rfl
@[simp] theorem Core.setFe_fflags (c : Core) (o : Nat) (b : Bool) : (c.setFe o b).fflags = c.fflags := rfl
@[simp] theorem Core.setFe_frm (c : Core) (o : Nat) (b : Bool) : (c.setFe o b).frm = c.frm := rfl
@[simp] theorem Core.setFe_vrm (c : Core) (o : Nat) (b : Bool) : (c.setFe o b).vrm = c.vrm := rfl
@[simp] theorem Core.setFe_cause (c : Core) (o : Nat) (b : Bool) : (c.setFe o b).cause = c.cause := rfl
@[simp] theorem Core.setFe_tval (c : Core) (o : Nat) (b : Bool) : (c.setFe o b).tval = c.tval := rfl
@[simp] theorem Core.setFe_epc (c : Core) (o : Nat) (b : Bool) : (c.setFe o b).epc = c.epc := rfl
@[simp] theorem Core.setFe_raised (c : Core) (o : Nat) (b : Bool) : (c.setFe o b).raised = c.raised := rfl
@[simp] theorem Core.setFe_tseq (c : Core) (o : Nat) (b : Bool) : (c.setFe o b).tseq = c.tseq := rfl
@[simp] theorem Core.setFe_shdone (c : Core) (o : Nat) (b : Bool) : (c.setFe o b).shdone = c.shdone := rfl
@[simp] theorem Core.setFe_rptst (c : Core) (o : Nat) (b : Bool) : (c.setFe o b).rptst = c.rptst := rfl
@[simp] theorem Core.setFe_fstat (c : Core) (o : Nat) (b : Bool) : (c.setFe o b).fstat = c.fstat := rfl
@[simp] theorem Core.setFe_evlatch (c : Core) (o : Nat) (b : Bool) : (c.setFe o b).evlatch = c.evlatch := rfl
@[simp] theorem Core.setFe_vshare (c : Core) (o : Nat) (b : Bool) : (c.setFe o b).vshare = c.vshare := rfl
@[simp] theorem Core.setFe_copyperm (c : Core) (o : Nat) (b : Bool) : (c.setFe o b).copyperm = c.copyperm := rfl
@[simp] theorem Core.setFe_penbase (c : Core) (o : Nat) (b : Bool) : (c.setFe o b).penbase = c.penbase := rfl
@[simp] theorem Core.setFe_pensize (c : Core) (o : Nat) (b : Bool) : (c.setFe o b).pensize = c.pensize := rfl
@[simp] theorem Core.setFe_tkbase (c : Core) (o : Nat) (b : Bool) : (c.setFe o b).tkbase = c.tkbase := rfl
@[simp] theorem Core.setFe_tksize (c : Core) (o : Nat) (b : Bool) : (c.setFe o b).tksize = c.tksize := rfl
@[simp] theorem Core.setFe_steallvl (c : Core) (o : Nat) (b : Bool) : (c.setFe o b).steallvl = c.steallvl := rfl
@[simp] theorem Core.setFe_stealtry (c : Core) (o : Nat) (b : Bool) : (c.setFe o b).stealtry = c.stealtry := rfl
@[simp] theorem Core.setFe_twin (c : Core) (o : Nat) (b : Bool) : (c.setFe o b).twin = c.twin := rfl
@[simp] theorem Core.setFe_migthresh (c : Core) (o : Nat) (b : Bool) : (c.setFe o b).migthresh = c.migthresh := rfl
@[simp] theorem Core.setFe_bayfmt (c : Core) (o : Nat) (b : Bool) : (c.setFe o b).bayfmt = c.bayfmt := rfl
@[simp] theorem Core.setFe_lmin (c : Core) (o : Nat) (b : Bool) : (c.setFe o b).lmin = c.lmin := rfl
@[simp] theorem Core.setFe_lmem (c : Core) (o : Nat) (b : Bool) : (c.setFe o b).lmem = c.lmem := rfl
@[simp] theorem Core.setFe_desc (c : Core) (o : Nat) (b : Bool) : (c.setFe o b).desc = c.desc := rfl
@[simp] theorem Core.setFe_ports (c : Core) (o : Nat) (b : Bool) : (c.setFe o b).ports = c.ports := rfl
@[simp] theorem Core.setFe_modp (c : Core) (o : Nat) (b : Bool) : (c.setFe o b).modp = c.modp := rfl
@[simp] theorem Core.setFe_frame (c : Core) (o : Nat) (b : Bool) : (c.setFe o b).frame = c.frame := rfl
@[simp] theorem Core.setFe_shadow (c : Core) (o : Nat) (b : Bool) : (c.setFe o b).shadow = c.shadow := rfl
@[simp] theorem Core.setFe_resume (c : Core) (o : Nat) (b : Bool) : (c.setFe o b).resume = c.resume := rfl
@[simp] theorem Core.setFe_cq (c : Core) (o : Nat) (b : Bool) : (c.setFe o b).cq = c.cq := rfl
@[simp] theorem Core.setFe_cqNext (c : Core) (o : Nat) (b : Bool) : (c.setFe o b).cqNext = c.cqNext := rfl
@[simp] theorem Core.setFe_mx (c : Core) (o : Nat) (b : Bool) : (c.setFe o b).mx = c.mx := rfl
@[simp] theorem Core.setFe_cf (c : Core) (o : Nat) (b : Bool) : (c.setFe o b).cf = c.cf := rfl
@[simp] theorem Core.setFe_slots (c : Core) (o : Nat) (b : Bool) : (c.setFe o b).slots = c.slots := rfl
@[simp] theorem Core.setFe_deque (c : Core) (o : Nat) (b : Bool) : (c.setFe o b).deque = c.deque := rfl
@[simp] theorem Core.setFe_task (c : Core) (o : Nat) (b : Bool) : (c.setFe o b).task = c.task := rfl
@[simp] theorem Core.setFe_kpops (c : Core) (o : Nat) (b : Bool) : (c.setFe o b).kpops = c.kpops := rfl
@[simp] theorem Core.setFe_probe (c : Core) (o : Nat) (b : Bool) : (c.setFe o b).probe = c.probe := rfl
@[simp] theorem Core.setFe_wsret (c : Core) (o : Nat) (b : Bool) : (c.setFe o b).wsret = c.wsret := rfl
@[simp] theorem Core.setFe_stash (c : Core) (o : Nat) (b : Bool) : (c.setFe o b).stash = c.stash := rfl
@[simp] theorem Core.setFe_lent (c : Core) (o : Nat) (b : Bool) : (c.setFe o b).lent = c.lent := rfl
@[simp] theorem Core.setFe_erd (c : Core) (o : Nat) (b : Bool) : (c.setFe o b).erd = c.erd := rfl
@[simp] theorem Core.setFe_dack (c : Core) (o : Nat) (b : Bool) : (c.setFe o b).dack = c.dack := rfl
@[simp] theorem Core.setFe_raceLost (c : Core) (o : Nat) (b : Bool) : (c.setFe o b).raceLost = c.raceLost := rfl
@[simp] theorem Core.setFe_rx (c : Core) (o : Nat) (b : Bool) : (c.setFe o b).rx = c.rx := rfl
@[simp] theorem Core.setFe_penAt (c : Core) (o : Nat) (b : Bool) : (c.setFe o b).penAt = c.penAt := rfl
@[simp] theorem Core.setFe_posted (c : Core) (o : Nat) (b : Bool) : (c.setFe o b).posted = c.posted := rfl
@[simp] theorem Core.setFe_far (c : Core) (o : Nat) (b : Bool) : (c.setFe o b).far = c.far := rfl
@[simp] theorem Core.setFe_episodes (c : Core) (o : Nat) (b : Bool) : (c.setFe o b).episodes = c.episodes := rfl
@[simp] theorem Core.setFe_arrival (c : Core) (o : Nat) (b : Bool) : (c.setFe o b).arrival = c.arrival := rfl
@[simp] theorem Core.setFe_owed (c : Core) (o : Nat) (b : Bool) : (c.setFe o b).owed = c.owed := rfl
@[simp] theorem Core.setFe_xch (c : Core) (o : Nat) (b : Bool) : (c.setFe o b).xch = c.xch := rfl
@[simp] theorem Core.setFe_utlb (c : Core) (o : Nat) (b : Bool) : (c.setFe o b).utlb = c.utlb := rfl
@[simp] theorem Core.setFe_l1 (c : Core) (o : Nat) (b : Bool) : (c.setFe o b).l1 = c.l1 := rfl
@[simp] theorem Core.setFe_fwd (c : Core) (o : Nat) (b : Bool) : (c.setFe o b).fwd = c.fwd := rfl
@[simp] theorem Core.setFe_gangWait (c : Core) (o : Nat) (b : Bool) : (c.setFe o b).gangWait = c.gangWait := rfl
@[simp] theorem Core.setFe_unsent (c : Core) (o : Nat) (b : Bool) : (c.setFe o b).unsent = c.unsent := rfl
@[simp] theorem Core.setFe_retained (c : Core) (o : Nat) (b : Bool) : (c.setFe o b).retained = c.retained := rfl
@[simp] theorem Core.setFe_saveArrived (c : Core) (o : Nat) (b : Bool) : (c.setFe o b).saveArrived = c.saveArrived := rfl
@[simp] theorem Core.setFe_saveTrapped (c : Core) (o : Nat) (b : Bool) : (c.setFe o b).saveTrapped = c.saveTrapped := rfl
@[simp] theorem Core.setFe_placed (c : Core) (o : Nat) (b : Bool) : (c.setFe o b).placed = c.placed := rfl

/-! ### Core.scramble -/

@[simp] theorem Core.scramble_st (c : Core) (o : Nat) : (c.scramble o).st = c.st := rfl
@[simp] theorem Core.scramble_pcid (c : Core) (o : Nat) : (c.scramble o).pcid = c.pcid := rfl
@[simp] theorem Core.scramble_queue (c : Core) (o : Nat) : (c.scramble o).queue = c.queue := rfl
@[simp] theorem Core.scramble_pc (c : Core) (o : Nat) : (c.scramble o).pc = c.pc := rfl
@[simp] theorem Core.scramble_obj (c : Core) (o : Nat) : (c.scramble o).obj = c.obj := rfl
@[simp] theorem Core.scramble_latch (c : Core) (o : Nat) : (c.scramble o).latch = c.latch := rfl
@[simp] theorem Core.scramble_s (c : Core) (o : Nat) : (c.scramble o).s = c.s := rfl
@[simp] theorem Core.scramble_p (c : Core) (o : Nat) : (c.scramble o).p = c.p := rfl
@[simp] theorem Core.scramble_k (c : Core) (o : Nat) : (c.scramble o).k = c.k := rfl
@[simp] theorem Core.scramble_tiles (c : Core) (o : Nat) : (c.scramble o).tiles = c.tiles := rfl
@[simp] theorem Core.scramble_types (c : Core) (o : Nat) : (c.scramble o).types = c.types := rfl
@[simp] theorem Core.scramble_lcn (c : Core) (o : Nat) : (c.scramble o).lcn = c.lcn := rfl
@[simp] theorem Core.scramble_ncores (c : Core) (o : Nat) : (c.scramble o).ncores = c.ncores := rfl
@[simp] theorem Core.scramble_ltorus (c : Core) (o : Nat) : (c.scramble o).ltorus = c.ltorus := rfl
@[simp] theorem Core.scramble_dom (c : Core) (o : Nat) : (c.scramble o).dom = c.dom := rfl
@[simp] theorem Core.scramble_domph (c : Core) (o : Nat) : (c.scramble o).domph = c.domph := rfl
@[simp] theorem Core.scramble_jobseed (c : Core) (o : Nat) : (c.scramble o).jobseed = c.jobseed := rfl
@[simp] theorem Core.scramble_gangst (c : Core) (o : Nat) : (c.scramble o).gangst = c.gangst := rfl
@[simp] theorem Core.scramble_streamid (c : Core) (o : Nat) : (c.scramble o).streamid = c.streamid := rfl
@[simp] theorem Core.scramble_mintkey (c : Core) (o : Nat) : (c.scramble o).mintkey = c.mintkey := rfl
@[simp] theorem Core.scramble_srsite (c : Core) (o : Nat) : (c.scramble o).srsite = c.srsite := rfl
@[simp] theorem Core.scramble_srbase (c : Core) (o : Nat) : (c.scramble o).srbase = c.srbase := rfl
@[simp] theorem Core.scramble_fflags (c : Core) (o : Nat) : (c.scramble o).fflags = c.fflags := rfl
@[simp] theorem Core.scramble_frm (c : Core) (o : Nat) : (c.scramble o).frm = c.frm := rfl
@[simp] theorem Core.scramble_vrm (c : Core) (o : Nat) : (c.scramble o).vrm = c.vrm := rfl
@[simp] theorem Core.scramble_cause (c : Core) (o : Nat) : (c.scramble o).cause = c.cause := rfl
@[simp] theorem Core.scramble_tval (c : Core) (o : Nat) : (c.scramble o).tval = c.tval := rfl
@[simp] theorem Core.scramble_epc (c : Core) (o : Nat) : (c.scramble o).epc = c.epc := rfl
@[simp] theorem Core.scramble_raised (c : Core) (o : Nat) : (c.scramble o).raised = c.raised := rfl
@[simp] theorem Core.scramble_tseq (c : Core) (o : Nat) : (c.scramble o).tseq = c.tseq := rfl
@[simp] theorem Core.scramble_shdone (c : Core) (o : Nat) : (c.scramble o).shdone = c.shdone := rfl
@[simp] theorem Core.scramble_rptst (c : Core) (o : Nat) : (c.scramble o).rptst = c.rptst := rfl
@[simp] theorem Core.scramble_fstat (c : Core) (o : Nat) : (c.scramble o).fstat = c.fstat := rfl
@[simp] theorem Core.scramble_evlatch (c : Core) (o : Nat) : (c.scramble o).evlatch = c.evlatch := rfl
@[simp] theorem Core.scramble_vshare (c : Core) (o : Nat) : (c.scramble o).vshare = c.vshare := rfl
@[simp] theorem Core.scramble_copyperm (c : Core) (o : Nat) : (c.scramble o).copyperm = c.copyperm := rfl
@[simp] theorem Core.scramble_penbase (c : Core) (o : Nat) : (c.scramble o).penbase = c.penbase := rfl
@[simp] theorem Core.scramble_pensize (c : Core) (o : Nat) : (c.scramble o).pensize = c.pensize := rfl
@[simp] theorem Core.scramble_tkbase (c : Core) (o : Nat) : (c.scramble o).tkbase = c.tkbase := rfl
@[simp] theorem Core.scramble_tksize (c : Core) (o : Nat) : (c.scramble o).tksize = c.tksize := rfl
@[simp] theorem Core.scramble_steallvl (c : Core) (o : Nat) : (c.scramble o).steallvl = c.steallvl := rfl
@[simp] theorem Core.scramble_stealtry (c : Core) (o : Nat) : (c.scramble o).stealtry = c.stealtry := rfl
@[simp] theorem Core.scramble_twin (c : Core) (o : Nat) : (c.scramble o).twin = c.twin := rfl
@[simp] theorem Core.scramble_migthresh (c : Core) (o : Nat) : (c.scramble o).migthresh = c.migthresh := rfl
@[simp] theorem Core.scramble_bayfmt (c : Core) (o : Nat) : (c.scramble o).bayfmt = c.bayfmt := rfl
@[simp] theorem Core.scramble_lmin (c : Core) (o : Nat) : (c.scramble o).lmin = c.lmin := rfl
@[simp] theorem Core.scramble_lmem (c : Core) (o : Nat) : (c.scramble o).lmem = c.lmem := rfl
@[simp] theorem Core.scramble_empties (c : Core) (o : Nat) : (c.scramble o).empties = c.empties := rfl
@[simp] theorem Core.scramble_desc (c : Core) (o : Nat) : (c.scramble o).desc = c.desc := rfl
@[simp] theorem Core.scramble_ports (c : Core) (o : Nat) : (c.scramble o).ports = c.ports := rfl
@[simp] theorem Core.scramble_modp (c : Core) (o : Nat) : (c.scramble o).modp = c.modp := rfl
@[simp] theorem Core.scramble_frame (c : Core) (o : Nat) : (c.scramble o).frame = c.frame := rfl
@[simp] theorem Core.scramble_shadow (c : Core) (o : Nat) : (c.scramble o).shadow = c.shadow := rfl
@[simp] theorem Core.scramble_resume (c : Core) (o : Nat) : (c.scramble o).resume = c.resume := rfl
@[simp] theorem Core.scramble_cq (c : Core) (o : Nat) : (c.scramble o).cq = c.cq := rfl
@[simp] theorem Core.scramble_cqNext (c : Core) (o : Nat) : (c.scramble o).cqNext = c.cqNext := rfl
@[simp] theorem Core.scramble_mx (c : Core) (o : Nat) : (c.scramble o).mx = c.mx := rfl
@[simp] theorem Core.scramble_cf (c : Core) (o : Nat) : (c.scramble o).cf = c.cf := rfl
@[simp] theorem Core.scramble_slots (c : Core) (o : Nat) : (c.scramble o).slots = c.slots := rfl
@[simp] theorem Core.scramble_task (c : Core) (o : Nat) : (c.scramble o).task = c.task := rfl
@[simp] theorem Core.scramble_kpops (c : Core) (o : Nat) : (c.scramble o).kpops = c.kpops := rfl
@[simp] theorem Core.scramble_probe (c : Core) (o : Nat) : (c.scramble o).probe = c.probe := rfl
@[simp] theorem Core.scramble_wsret (c : Core) (o : Nat) : (c.scramble o).wsret = c.wsret := rfl
@[simp] theorem Core.scramble_stash (c : Core) (o : Nat) : (c.scramble o).stash = c.stash := rfl
@[simp] theorem Core.scramble_lent (c : Core) (o : Nat) : (c.scramble o).lent = c.lent := rfl
@[simp] theorem Core.scramble_erd (c : Core) (o : Nat) : (c.scramble o).erd = c.erd := rfl
@[simp] theorem Core.scramble_dack (c : Core) (o : Nat) : (c.scramble o).dack = c.dack := rfl
@[simp] theorem Core.scramble_raceLost (c : Core) (o : Nat) : (c.scramble o).raceLost = c.raceLost := rfl
@[simp] theorem Core.scramble_rx (c : Core) (o : Nat) : (c.scramble o).rx = c.rx := rfl
@[simp] theorem Core.scramble_penAt (c : Core) (o : Nat) : (c.scramble o).penAt = c.penAt := rfl
@[simp] theorem Core.scramble_posted (c : Core) (o : Nat) : (c.scramble o).posted = c.posted := rfl
@[simp] theorem Core.scramble_far (c : Core) (o : Nat) : (c.scramble o).far = c.far := rfl
@[simp] theorem Core.scramble_episodes (c : Core) (o : Nat) : (c.scramble o).episodes = c.episodes := rfl
@[simp] theorem Core.scramble_arrival (c : Core) (o : Nat) : (c.scramble o).arrival = c.arrival := rfl
@[simp] theorem Core.scramble_owed (c : Core) (o : Nat) : (c.scramble o).owed = c.owed := rfl
@[simp] theorem Core.scramble_xch (c : Core) (o : Nat) : (c.scramble o).xch = c.xch := rfl
@[simp] theorem Core.scramble_utlb (c : Core) (o : Nat) : (c.scramble o).utlb = c.utlb := rfl
@[simp] theorem Core.scramble_l1 (c : Core) (o : Nat) : (c.scramble o).l1 = c.l1 := rfl
@[simp] theorem Core.scramble_fwd (c : Core) (o : Nat) : (c.scramble o).fwd = c.fwd := rfl
@[simp] theorem Core.scramble_gangWait (c : Core) (o : Nat) : (c.scramble o).gangWait = c.gangWait := rfl
@[simp] theorem Core.scramble_unsent (c : Core) (o : Nat) : (c.scramble o).unsent = c.unsent := rfl
@[simp] theorem Core.scramble_retained (c : Core) (o : Nat) : (c.scramble o).retained = c.retained := rfl
@[simp] theorem Core.scramble_saveArrived (c : Core) (o : Nat) : (c.scramble o).saveArrived = c.saveArrived := rfl
@[simp] theorem Core.scramble_saveTrapped (c : Core) (o : Nat) : (c.scramble o).saveTrapped = c.saveTrapped := rfl
@[simp] theorem Core.scramble_placed (c : Core) (o : Nat) : (c.scramble o).placed = c.placed := rfl

/-! ### Core.locWrite -/

@[simp] theorem Core.locWrite_st (c : Core) (o : Nat) (bs : List Byte) : (c.locWrite o bs).st = c.st := by unfold Core.locWrite; simp only []; split <;> rfl
@[simp] theorem Core.locWrite_pcid (c : Core) (o : Nat) (bs : List Byte) : (c.locWrite o bs).pcid = c.pcid := by unfold Core.locWrite; simp only []; split <;> rfl
@[simp] theorem Core.locWrite_queue (c : Core) (o : Nat) (bs : List Byte) : (c.locWrite o bs).queue = c.queue := by unfold Core.locWrite; simp only []; split <;> rfl
@[simp] theorem Core.locWrite_pc (c : Core) (o : Nat) (bs : List Byte) : (c.locWrite o bs).pc = c.pc := by unfold Core.locWrite; simp only []; split <;> rfl
@[simp] theorem Core.locWrite_obj (c : Core) (o : Nat) (bs : List Byte) : (c.locWrite o bs).obj = c.obj := by unfold Core.locWrite; simp only []; split <;> rfl
@[simp] theorem Core.locWrite_latch (c : Core) (o : Nat) (bs : List Byte) : (c.locWrite o bs).latch = c.latch := by unfold Core.locWrite; simp only []; split <;> rfl
@[simp] theorem Core.locWrite_s (c : Core) (o : Nat) (bs : List Byte) : (c.locWrite o bs).s = c.s := by unfold Core.locWrite; simp only []; split <;> rfl
@[simp] theorem Core.locWrite_p (c : Core) (o : Nat) (bs : List Byte) : (c.locWrite o bs).p = c.p := by unfold Core.locWrite; simp only []; split <;> rfl
@[simp] theorem Core.locWrite_k (c : Core) (o : Nat) (bs : List Byte) : (c.locWrite o bs).k = c.k := by unfold Core.locWrite; simp only []; split <;> rfl
@[simp] theorem Core.locWrite_tiles (c : Core) (o : Nat) (bs : List Byte) : (c.locWrite o bs).tiles = c.tiles := by unfold Core.locWrite; simp only []; split <;> rfl
@[simp] theorem Core.locWrite_types (c : Core) (o : Nat) (bs : List Byte) : (c.locWrite o bs).types = c.types := by unfold Core.locWrite; simp only []; split <;> rfl
@[simp] theorem Core.locWrite_lcn (c : Core) (o : Nat) (bs : List Byte) : (c.locWrite o bs).lcn = c.lcn := by unfold Core.locWrite; simp only []; split <;> rfl
@[simp] theorem Core.locWrite_ncores (c : Core) (o : Nat) (bs : List Byte) : (c.locWrite o bs).ncores = c.ncores := by unfold Core.locWrite; simp only []; split <;> rfl
@[simp] theorem Core.locWrite_ltorus (c : Core) (o : Nat) (bs : List Byte) : (c.locWrite o bs).ltorus = c.ltorus := by unfold Core.locWrite; simp only []; split <;> rfl
@[simp] theorem Core.locWrite_dom (c : Core) (o : Nat) (bs : List Byte) : (c.locWrite o bs).dom = c.dom := by unfold Core.locWrite; simp only []; split <;> rfl
@[simp] theorem Core.locWrite_domph (c : Core) (o : Nat) (bs : List Byte) : (c.locWrite o bs).domph = c.domph := by unfold Core.locWrite; simp only []; split <;> rfl
@[simp] theorem Core.locWrite_jobseed (c : Core) (o : Nat) (bs : List Byte) : (c.locWrite o bs).jobseed = c.jobseed := by unfold Core.locWrite; simp only []; split <;> rfl
@[simp] theorem Core.locWrite_gangst (c : Core) (o : Nat) (bs : List Byte) : (c.locWrite o bs).gangst = c.gangst := by unfold Core.locWrite; simp only []; split <;> rfl
@[simp] theorem Core.locWrite_streamid (c : Core) (o : Nat) (bs : List Byte) : (c.locWrite o bs).streamid = c.streamid := by unfold Core.locWrite; simp only []; split <;> rfl
@[simp] theorem Core.locWrite_mintkey (c : Core) (o : Nat) (bs : List Byte) : (c.locWrite o bs).mintkey = c.mintkey := by unfold Core.locWrite; simp only []; split <;> rfl
@[simp] theorem Core.locWrite_srsite (c : Core) (o : Nat) (bs : List Byte) : (c.locWrite o bs).srsite = c.srsite := by unfold Core.locWrite; simp only []; split <;> rfl
@[simp] theorem Core.locWrite_srbase (c : Core) (o : Nat) (bs : List Byte) : (c.locWrite o bs).srbase = c.srbase := by unfold Core.locWrite; simp only []; split <;> rfl
@[simp] theorem Core.locWrite_fflags (c : Core) (o : Nat) (bs : List Byte) : (c.locWrite o bs).fflags = c.fflags := by unfold Core.locWrite; simp only []; split <;> rfl
@[simp] theorem Core.locWrite_frm (c : Core) (o : Nat) (bs : List Byte) : (c.locWrite o bs).frm = c.frm := by unfold Core.locWrite; simp only []; split <;> rfl
@[simp] theorem Core.locWrite_vrm (c : Core) (o : Nat) (bs : List Byte) : (c.locWrite o bs).vrm = c.vrm := by unfold Core.locWrite; simp only []; split <;> rfl
@[simp] theorem Core.locWrite_cause (c : Core) (o : Nat) (bs : List Byte) : (c.locWrite o bs).cause = c.cause := by unfold Core.locWrite; simp only []; split <;> rfl
@[simp] theorem Core.locWrite_tval (c : Core) (o : Nat) (bs : List Byte) : (c.locWrite o bs).tval = c.tval := by unfold Core.locWrite; simp only []; split <;> rfl
@[simp] theorem Core.locWrite_epc (c : Core) (o : Nat) (bs : List Byte) : (c.locWrite o bs).epc = c.epc := by unfold Core.locWrite; simp only []; split <;> rfl
@[simp] theorem Core.locWrite_raised (c : Core) (o : Nat) (bs : List Byte) : (c.locWrite o bs).raised = c.raised := by unfold Core.locWrite; simp only []; split <;> rfl
@[simp] theorem Core.locWrite_tseq (c : Core) (o : Nat) (bs : List Byte) : (c.locWrite o bs).tseq = c.tseq := by unfold Core.locWrite; simp only []; split <;> rfl
@[simp] theorem Core.locWrite_shdone (c : Core) (o : Nat) (bs : List Byte) : (c.locWrite o bs).shdone = c.shdone := by unfold Core.locWrite; simp only []; split <;> rfl
@[simp] theorem Core.locWrite_rptst (c : Core) (o : Nat) (bs : List Byte) : (c.locWrite o bs).rptst = c.rptst := by unfold Core.locWrite; simp only []; split <;> rfl
@[simp] theorem Core.locWrite_fstat (c : Core) (o : Nat) (bs : List Byte) : (c.locWrite o bs).fstat = c.fstat := by unfold Core.locWrite; simp only []; split <;> rfl
@[simp] theorem Core.locWrite_evlatch (c : Core) (o : Nat) (bs : List Byte) : (c.locWrite o bs).evlatch = c.evlatch := by unfold Core.locWrite; simp only []; split <;> rfl
@[simp] theorem Core.locWrite_vshare (c : Core) (o : Nat) (bs : List Byte) : (c.locWrite o bs).vshare = c.vshare := by unfold Core.locWrite; simp only []; split <;> rfl
@[simp] theorem Core.locWrite_copyperm (c : Core) (o : Nat) (bs : List Byte) : (c.locWrite o bs).copyperm = c.copyperm := by unfold Core.locWrite; simp only []; split <;> rfl
@[simp] theorem Core.locWrite_penbase (c : Core) (o : Nat) (bs : List Byte) : (c.locWrite o bs).penbase = c.penbase := by unfold Core.locWrite; simp only []; split <;> rfl
@[simp] theorem Core.locWrite_pensize (c : Core) (o : Nat) (bs : List Byte) : (c.locWrite o bs).pensize = c.pensize := by unfold Core.locWrite; simp only []; split <;> rfl
@[simp] theorem Core.locWrite_tkbase (c : Core) (o : Nat) (bs : List Byte) : (c.locWrite o bs).tkbase = c.tkbase := by unfold Core.locWrite; simp only []; split <;> rfl
@[simp] theorem Core.locWrite_tksize (c : Core) (o : Nat) (bs : List Byte) : (c.locWrite o bs).tksize = c.tksize := by unfold Core.locWrite; simp only []; split <;> rfl
@[simp] theorem Core.locWrite_steallvl (c : Core) (o : Nat) (bs : List Byte) : (c.locWrite o bs).steallvl = c.steallvl := by unfold Core.locWrite; simp only []; split <;> rfl
@[simp] theorem Core.locWrite_stealtry (c : Core) (o : Nat) (bs : List Byte) : (c.locWrite o bs).stealtry = c.stealtry := by unfold Core.locWrite; simp only []; split <;> rfl
@[simp] theorem Core.locWrite_twin (c : Core) (o : Nat) (bs : List Byte) : (c.locWrite o bs).twin = c.twin := by unfold Core.locWrite; simp only []; split <;> rfl
@[simp] theorem Core.locWrite_migthresh (c : Core) (o : Nat) (bs : List Byte) : (c.locWrite o bs).migthresh = c.migthresh := by unfold Core.locWrite; simp only []; split <;> rfl
@[simp] theorem Core.locWrite_bayfmt (c : Core) (o : Nat) (bs : List Byte) : (c.locWrite o bs).bayfmt = c.bayfmt := by unfold Core.locWrite; simp only []; split <;> rfl
@[simp] theorem Core.locWrite_lmin (c : Core) (o : Nat) (bs : List Byte) : (c.locWrite o bs).lmin = c.lmin := by unfold Core.locWrite; simp only []; split <;> rfl
@[simp] theorem Core.locWrite_empties (c : Core) (o : Nat) (bs : List Byte) : (c.locWrite o bs).empties = c.empties := by unfold Core.locWrite; simp only []; split <;> rfl
@[simp] theorem Core.locWrite_desc (c : Core) (o : Nat) (bs : List Byte) : (c.locWrite o bs).desc = c.desc := by unfold Core.locWrite; simp only []; split <;> rfl
@[simp] theorem Core.locWrite_ports (c : Core) (o : Nat) (bs : List Byte) : (c.locWrite o bs).ports = c.ports := by unfold Core.locWrite; simp only []; split <;> rfl
@[simp] theorem Core.locWrite_modp (c : Core) (o : Nat) (bs : List Byte) : (c.locWrite o bs).modp = c.modp := by unfold Core.locWrite; simp only []; split <;> rfl
@[simp] theorem Core.locWrite_frame (c : Core) (o : Nat) (bs : List Byte) : (c.locWrite o bs).frame = c.frame := by unfold Core.locWrite; simp only []; split <;> rfl
@[simp] theorem Core.locWrite_shadow (c : Core) (o : Nat) (bs : List Byte) : (c.locWrite o bs).shadow = c.shadow := by unfold Core.locWrite; simp only []; split <;> rfl
@[simp] theorem Core.locWrite_resume (c : Core) (o : Nat) (bs : List Byte) : (c.locWrite o bs).resume = c.resume := by unfold Core.locWrite; simp only []; split <;> rfl
@[simp] theorem Core.locWrite_cq (c : Core) (o : Nat) (bs : List Byte) : (c.locWrite o bs).cq = c.cq := by unfold Core.locWrite; simp only []; split <;> rfl
@[simp] theorem Core.locWrite_cqNext (c : Core) (o : Nat) (bs : List Byte) : (c.locWrite o bs).cqNext = c.cqNext := by unfold Core.locWrite; simp only []; split <;> rfl
@[simp] theorem Core.locWrite_mx (c : Core) (o : Nat) (bs : List Byte) : (c.locWrite o bs).mx = c.mx := by unfold Core.locWrite; simp only []; split <;> rfl
@[simp] theorem Core.locWrite_cf (c : Core) (o : Nat) (bs : List Byte) : (c.locWrite o bs).cf = c.cf := by unfold Core.locWrite; simp only []; split <;> rfl
@[simp] theorem Core.locWrite_slots (c : Core) (o : Nat) (bs : List Byte) : (c.locWrite o bs).slots = c.slots := by unfold Core.locWrite; simp only []; split <;> rfl
@[simp] theorem Core.locWrite_task (c : Core) (o : Nat) (bs : List Byte) : (c.locWrite o bs).task = c.task := by unfold Core.locWrite; simp only []; split <;> rfl
@[simp] theorem Core.locWrite_kpops (c : Core) (o : Nat) (bs : List Byte) : (c.locWrite o bs).kpops = c.kpops := by unfold Core.locWrite; simp only []; split <;> rfl
@[simp] theorem Core.locWrite_probe (c : Core) (o : Nat) (bs : List Byte) : (c.locWrite o bs).probe = c.probe := by unfold Core.locWrite; simp only []; split <;> rfl
@[simp] theorem Core.locWrite_wsret (c : Core) (o : Nat) (bs : List Byte) : (c.locWrite o bs).wsret = c.wsret := by unfold Core.locWrite; simp only []; split <;> rfl
@[simp] theorem Core.locWrite_stash (c : Core) (o : Nat) (bs : List Byte) : (c.locWrite o bs).stash = c.stash := by unfold Core.locWrite; simp only []; split <;> rfl
@[simp] theorem Core.locWrite_lent (c : Core) (o : Nat) (bs : List Byte) : (c.locWrite o bs).lent = c.lent := by unfold Core.locWrite; simp only []; split <;> rfl
@[simp] theorem Core.locWrite_erd (c : Core) (o : Nat) (bs : List Byte) : (c.locWrite o bs).erd = c.erd := by unfold Core.locWrite; simp only []; split <;> rfl
@[simp] theorem Core.locWrite_dack (c : Core) (o : Nat) (bs : List Byte) : (c.locWrite o bs).dack = c.dack := by unfold Core.locWrite; simp only []; split <;> rfl
@[simp] theorem Core.locWrite_raceLost (c : Core) (o : Nat) (bs : List Byte) : (c.locWrite o bs).raceLost = c.raceLost := by unfold Core.locWrite; simp only []; split <;> rfl
@[simp] theorem Core.locWrite_rx (c : Core) (o : Nat) (bs : List Byte) : (c.locWrite o bs).rx = c.rx := by unfold Core.locWrite; simp only []; split <;> rfl
@[simp] theorem Core.locWrite_penAt (c : Core) (o : Nat) (bs : List Byte) : (c.locWrite o bs).penAt = c.penAt := by unfold Core.locWrite; simp only []; split <;> rfl
@[simp] theorem Core.locWrite_posted (c : Core) (o : Nat) (bs : List Byte) : (c.locWrite o bs).posted = c.posted := by unfold Core.locWrite; simp only []; split <;> rfl
@[simp] theorem Core.locWrite_far (c : Core) (o : Nat) (bs : List Byte) : (c.locWrite o bs).far = c.far := by unfold Core.locWrite; simp only []; split <;> rfl
@[simp] theorem Core.locWrite_episodes (c : Core) (o : Nat) (bs : List Byte) : (c.locWrite o bs).episodes = c.episodes := by unfold Core.locWrite; simp only []; split <;> rfl
@[simp] theorem Core.locWrite_arrival (c : Core) (o : Nat) (bs : List Byte) : (c.locWrite o bs).arrival = c.arrival := by unfold Core.locWrite; simp only []; split <;> rfl
@[simp] theorem Core.locWrite_owed (c : Core) (o : Nat) (bs : List Byte) : (c.locWrite o bs).owed = c.owed := by unfold Core.locWrite; simp only []; split <;> rfl
@[simp] theorem Core.locWrite_xch (c : Core) (o : Nat) (bs : List Byte) : (c.locWrite o bs).xch = c.xch := by unfold Core.locWrite; simp only []; split <;> rfl
@[simp] theorem Core.locWrite_utlb (c : Core) (o : Nat) (bs : List Byte) : (c.locWrite o bs).utlb = c.utlb := by unfold Core.locWrite; simp only []; split <;> rfl
@[simp] theorem Core.locWrite_l1 (c : Core) (o : Nat) (bs : List Byte) : (c.locWrite o bs).l1 = c.l1 := by unfold Core.locWrite; simp only []; split <;> rfl
@[simp] theorem Core.locWrite_fwd (c : Core) (o : Nat) (bs : List Byte) : (c.locWrite o bs).fwd = c.fwd := by unfold Core.locWrite; simp only []; split <;> rfl
@[simp] theorem Core.locWrite_gangWait (c : Core) (o : Nat) (bs : List Byte) : (c.locWrite o bs).gangWait = c.gangWait := by unfold Core.locWrite; simp only []; split <;> rfl
@[simp] theorem Core.locWrite_unsent (c : Core) (o : Nat) (bs : List Byte) : (c.locWrite o bs).unsent = c.unsent := by unfold Core.locWrite; simp only []; split <;> rfl
@[simp] theorem Core.locWrite_retained (c : Core) (o : Nat) (bs : List Byte) : (c.locWrite o bs).retained = c.retained := by unfold Core.locWrite; simp only []; split <;> rfl
@[simp] theorem Core.locWrite_saveArrived (c : Core) (o : Nat) (bs : List Byte) : (c.locWrite o bs).saveArrived = c.saveArrived := by unfold Core.locWrite; simp only []; split <;> rfl
@[simp] theorem Core.locWrite_saveTrapped (c : Core) (o : Nat) (bs : List Byte) : (c.locWrite o bs).saveTrapped = c.saveTrapped := by unfold Core.locWrite; simp only []; split <;> rfl
@[simp] theorem Core.locWrite_placed (c : Core) (o : Nat) (bs : List Byte) : (c.locWrite o bs).placed = c.placed := by unfold Core.locWrite; simp only []; split <;> rfl

/-! ### Core.landAll -/

@[simp] theorem Core.landAll_st (c : Core) (ws : List Wr) : (c.landAll ws).st = c.st := by
  unfold Core.landAll; induction ws generalizing c with
  | nil => rfl
  | cons w ws ih => simp [List.foldl_cons, ih]
@[simp] theorem Core.landAll_pcid (c : Core) (ws : List Wr) : (c.landAll ws).pcid = c.pcid := by
  unfold Core.landAll; induction ws generalizing c with
  | nil => rfl
  | cons w ws ih => simp [List.foldl_cons, ih]
@[simp] theorem Core.landAll_queue (c : Core) (ws : List Wr) : (c.landAll ws).queue = c.queue := by
  unfold Core.landAll; induction ws generalizing c with
  | nil => rfl
  | cons w ws ih => simp [List.foldl_cons, ih]
@[simp] theorem Core.landAll_pc (c : Core) (ws : List Wr) : (c.landAll ws).pc = c.pc := by
  unfold Core.landAll; induction ws generalizing c with
  | nil => rfl
  | cons w ws ih => simp [List.foldl_cons, ih]
@[simp] theorem Core.landAll_obj (c : Core) (ws : List Wr) : (c.landAll ws).obj = c.obj := by
  unfold Core.landAll; induction ws generalizing c with
  | nil => rfl
  | cons w ws ih => simp [List.foldl_cons, ih]
@[simp] theorem Core.landAll_latch (c : Core) (ws : List Wr) : (c.landAll ws).latch = c.latch := by
  unfold Core.landAll; induction ws generalizing c with
  | nil => rfl
  | cons w ws ih => simp [List.foldl_cons, ih]
@[simp] theorem Core.landAll_p (c : Core) (ws : List Wr) : (c.landAll ws).p = c.p := by
  unfold Core.landAll; induction ws generalizing c with
  | nil => rfl
  | cons w ws ih => simp [List.foldl_cons, ih]
@[simp] theorem Core.landAll_tiles (c : Core) (ws : List Wr) : (c.landAll ws).tiles = c.tiles := by
  unfold Core.landAll; induction ws generalizing c with
  | nil => rfl
  | cons w ws ih => simp [List.foldl_cons, ih]
@[simp] theorem Core.landAll_types (c : Core) (ws : List Wr) : (c.landAll ws).types = c.types := by
  unfold Core.landAll; induction ws generalizing c with
  | nil => rfl
  | cons w ws ih => simp [List.foldl_cons, ih]
@[simp] theorem Core.landAll_lcn (c : Core) (ws : List Wr) : (c.landAll ws).lcn = c.lcn := by
  unfold Core.landAll; induction ws generalizing c with
  | nil => rfl
  | cons w ws ih => simp [List.foldl_cons, ih]
@[simp] theorem Core.landAll_ncores (c : Core) (ws : List Wr) : (c.landAll ws).ncores = c.ncores := by
  unfold Core.landAll; induction ws generalizing c with
  | nil => rfl
  | cons w ws ih => simp [List.foldl_cons, ih]
@[simp] theorem Core.landAll_ltorus (c : Core) (ws : List Wr) : (c.landAll ws).ltorus = c.ltorus := by
  unfold Core.landAll; induction ws generalizing c with
  | nil => rfl
  | cons w ws ih => simp [List.foldl_cons, ih]
@[simp] theorem Core.landAll_dom (c : Core) (ws : List Wr) : (c.landAll ws).dom = c.dom := by
  unfold Core.landAll; induction ws generalizing c with
  | nil => rfl
  | cons w ws ih => simp [List.foldl_cons, ih]
@[simp] theorem Core.landAll_domph (c : Core) (ws : List Wr) : (c.landAll ws).domph = c.domph := by
  unfold Core.landAll; induction ws generalizing c with
  | nil => rfl
  | cons w ws ih => simp [List.foldl_cons, ih]
@[simp] theorem Core.landAll_jobseed (c : Core) (ws : List Wr) : (c.landAll ws).jobseed = c.jobseed := by
  unfold Core.landAll; induction ws generalizing c with
  | nil => rfl
  | cons w ws ih => simp [List.foldl_cons, ih]
@[simp] theorem Core.landAll_gangst (c : Core) (ws : List Wr) : (c.landAll ws).gangst = c.gangst := by
  unfold Core.landAll; induction ws generalizing c with
  | nil => rfl
  | cons w ws ih => simp [List.foldl_cons, ih]
@[simp] theorem Core.landAll_streamid (c : Core) (ws : List Wr) : (c.landAll ws).streamid = c.streamid := by
  unfold Core.landAll; induction ws generalizing c with
  | nil => rfl
  | cons w ws ih => simp [List.foldl_cons, ih]
@[simp] theorem Core.landAll_mintkey (c : Core) (ws : List Wr) : (c.landAll ws).mintkey = c.mintkey := by
  unfold Core.landAll; induction ws generalizing c with
  | nil => rfl
  | cons w ws ih => simp [List.foldl_cons, ih]
@[simp] theorem Core.landAll_srsite (c : Core) (ws : List Wr) : (c.landAll ws).srsite = c.srsite := by
  unfold Core.landAll; induction ws generalizing c with
  | nil => rfl
  | cons w ws ih => simp [List.foldl_cons, ih]
@[simp] theorem Core.landAll_srbase (c : Core) (ws : List Wr) : (c.landAll ws).srbase = c.srbase := by
  unfold Core.landAll; induction ws generalizing c with
  | nil => rfl
  | cons w ws ih => simp [List.foldl_cons, ih]
@[simp] theorem Core.landAll_fflags (c : Core) (ws : List Wr) : (c.landAll ws).fflags = c.fflags := by
  unfold Core.landAll; induction ws generalizing c with
  | nil => rfl
  | cons w ws ih => simp [List.foldl_cons, ih]
@[simp] theorem Core.landAll_frm (c : Core) (ws : List Wr) : (c.landAll ws).frm = c.frm := by
  unfold Core.landAll; induction ws generalizing c with
  | nil => rfl
  | cons w ws ih => simp [List.foldl_cons, ih]
@[simp] theorem Core.landAll_vrm (c : Core) (ws : List Wr) : (c.landAll ws).vrm = c.vrm := by
  unfold Core.landAll; induction ws generalizing c with
  | nil => rfl
  | cons w ws ih => simp [List.foldl_cons, ih]
@[simp] theorem Core.landAll_cause (c : Core) (ws : List Wr) : (c.landAll ws).cause = c.cause := by
  unfold Core.landAll; induction ws generalizing c with
  | nil => rfl
  | cons w ws ih => simp [List.foldl_cons, ih]
@[simp] theorem Core.landAll_tval (c : Core) (ws : List Wr) : (c.landAll ws).tval = c.tval := by
  unfold Core.landAll; induction ws generalizing c with
  | nil => rfl
  | cons w ws ih => simp [List.foldl_cons, ih]
@[simp] theorem Core.landAll_epc (c : Core) (ws : List Wr) : (c.landAll ws).epc = c.epc := by
  unfold Core.landAll; induction ws generalizing c with
  | nil => rfl
  | cons w ws ih => simp [List.foldl_cons, ih]
@[simp] theorem Core.landAll_raised (c : Core) (ws : List Wr) : (c.landAll ws).raised = c.raised := by
  unfold Core.landAll; induction ws generalizing c with
  | nil => rfl
  | cons w ws ih => simp [List.foldl_cons, ih]
@[simp] theorem Core.landAll_tseq (c : Core) (ws : List Wr) : (c.landAll ws).tseq = c.tseq := by
  unfold Core.landAll; induction ws generalizing c with
  | nil => rfl
  | cons w ws ih => simp [List.foldl_cons, ih]
@[simp] theorem Core.landAll_shdone (c : Core) (ws : List Wr) : (c.landAll ws).shdone = c.shdone := by
  unfold Core.landAll; induction ws generalizing c with
  | nil => rfl
  | cons w ws ih => simp [List.foldl_cons, ih]
@[simp] theorem Core.landAll_rptst (c : Core) (ws : List Wr) : (c.landAll ws).rptst = c.rptst := by
  unfold Core.landAll; induction ws generalizing c with
  | nil => rfl
  | cons w ws ih => simp [List.foldl_cons, ih]
@[simp] theorem Core.landAll_fstat (c : Core) (ws : List Wr) : (c.landAll ws).fstat = c.fstat := by
  unfold Core.landAll; induction ws generalizing c with
  | nil => rfl
  | cons w ws ih => simp [List.foldl_cons, ih]
@[simp] theorem Core.landAll_evlatch (c : Core) (ws : List Wr) : (c.landAll ws).evlatch = c.evlatch := by
  unfold Core.landAll; induction ws generalizing c with
  | nil => rfl
  | cons w ws ih => simp [List.foldl_cons, ih]
@[simp] theorem Core.landAll_vshare (c : Core) (ws : List Wr) : (c.landAll ws).vshare = c.vshare := by
  unfold Core.landAll; induction ws generalizing c with
  | nil => rfl
  | cons w ws ih => simp [List.foldl_cons, ih]
@[simp] theorem Core.landAll_copyperm (c : Core) (ws : List Wr) : (c.landAll ws).copyperm = c.copyperm := by
  unfold Core.landAll; induction ws generalizing c with
  | nil => rfl
  | cons w ws ih => simp [List.foldl_cons, ih]
@[simp] theorem Core.landAll_penbase (c : Core) (ws : List Wr) : (c.landAll ws).penbase = c.penbase := by
  unfold Core.landAll; induction ws generalizing c with
  | nil => rfl
  | cons w ws ih => simp [List.foldl_cons, ih]
@[simp] theorem Core.landAll_pensize (c : Core) (ws : List Wr) : (c.landAll ws).pensize = c.pensize := by
  unfold Core.landAll; induction ws generalizing c with
  | nil => rfl
  | cons w ws ih => simp [List.foldl_cons, ih]
@[simp] theorem Core.landAll_tkbase (c : Core) (ws : List Wr) : (c.landAll ws).tkbase = c.tkbase := by
  unfold Core.landAll; induction ws generalizing c with
  | nil => rfl
  | cons w ws ih => simp [List.foldl_cons, ih]
@[simp] theorem Core.landAll_tksize (c : Core) (ws : List Wr) : (c.landAll ws).tksize = c.tksize := by
  unfold Core.landAll; induction ws generalizing c with
  | nil => rfl
  | cons w ws ih => simp [List.foldl_cons, ih]
@[simp] theorem Core.landAll_steallvl (c : Core) (ws : List Wr) : (c.landAll ws).steallvl = c.steallvl := by
  unfold Core.landAll; induction ws generalizing c with
  | nil => rfl
  | cons w ws ih => simp [List.foldl_cons, ih]
@[simp] theorem Core.landAll_stealtry (c : Core) (ws : List Wr) : (c.landAll ws).stealtry = c.stealtry := by
  unfold Core.landAll; induction ws generalizing c with
  | nil => rfl
  | cons w ws ih => simp [List.foldl_cons, ih]
@[simp] theorem Core.landAll_twin (c : Core) (ws : List Wr) : (c.landAll ws).twin = c.twin := by
  unfold Core.landAll; induction ws generalizing c with
  | nil => rfl
  | cons w ws ih => simp [List.foldl_cons, ih]
@[simp] theorem Core.landAll_migthresh (c : Core) (ws : List Wr) : (c.landAll ws).migthresh = c.migthresh := by
  unfold Core.landAll; induction ws generalizing c with
  | nil => rfl
  | cons w ws ih => simp [List.foldl_cons, ih]
@[simp] theorem Core.landAll_bayfmt (c : Core) (ws : List Wr) : (c.landAll ws).bayfmt = c.bayfmt := by
  unfold Core.landAll; induction ws generalizing c with
  | nil => rfl
  | cons w ws ih => simp [List.foldl_cons, ih]
@[simp] theorem Core.landAll_lmin (c : Core) (ws : List Wr) : (c.landAll ws).lmin = c.lmin := by
  unfold Core.landAll; induction ws generalizing c with
  | nil => rfl
  | cons w ws ih => simp [List.foldl_cons, ih]
@[simp] theorem Core.landAll_lmem (c : Core) (ws : List Wr) : (c.landAll ws).lmem = c.lmem := by
  unfold Core.landAll; induction ws generalizing c with
  | nil => rfl
  | cons w ws ih => simp [List.foldl_cons, ih]
@[simp] theorem Core.landAll_empties (c : Core) (ws : List Wr) : (c.landAll ws).empties = c.empties := by
  unfold Core.landAll; induction ws generalizing c with
  | nil => rfl
  | cons w ws ih => simp [List.foldl_cons, ih]
@[simp] theorem Core.landAll_desc (c : Core) (ws : List Wr) : (c.landAll ws).desc = c.desc := by
  unfold Core.landAll; induction ws generalizing c with
  | nil => rfl
  | cons w ws ih => simp [List.foldl_cons, ih]
@[simp] theorem Core.landAll_modp (c : Core) (ws : List Wr) : (c.landAll ws).modp = c.modp := by
  unfold Core.landAll; induction ws generalizing c with
  | nil => rfl
  | cons w ws ih => simp [List.foldl_cons, ih]
@[simp] theorem Core.landAll_frame (c : Core) (ws : List Wr) : (c.landAll ws).frame = c.frame := by
  unfold Core.landAll; induction ws generalizing c with
  | nil => rfl
  | cons w ws ih => simp [List.foldl_cons, ih]
@[simp] theorem Core.landAll_shadow (c : Core) (ws : List Wr) : (c.landAll ws).shadow = c.shadow := by
  unfold Core.landAll; induction ws generalizing c with
  | nil => rfl
  | cons w ws ih => simp [List.foldl_cons, ih]
@[simp] theorem Core.landAll_resume (c : Core) (ws : List Wr) : (c.landAll ws).resume = c.resume := by
  unfold Core.landAll; induction ws generalizing c with
  | nil => rfl
  | cons w ws ih => simp [List.foldl_cons, ih]
@[simp] theorem Core.landAll_cq (c : Core) (ws : List Wr) : (c.landAll ws).cq = c.cq := by
  unfold Core.landAll; induction ws generalizing c with
  | nil => rfl
  | cons w ws ih => simp [List.foldl_cons, ih]
@[simp] theorem Core.landAll_cqNext (c : Core) (ws : List Wr) : (c.landAll ws).cqNext = c.cqNext := by
  unfold Core.landAll; induction ws generalizing c with
  | nil => rfl
  | cons w ws ih => simp [List.foldl_cons, ih]
@[simp] theorem Core.landAll_mx (c : Core) (ws : List Wr) : (c.landAll ws).mx = c.mx := by
  unfold Core.landAll; induction ws generalizing c with
  | nil => rfl
  | cons w ws ih => simp [List.foldl_cons, ih]
@[simp] theorem Core.landAll_cf (c : Core) (ws : List Wr) : (c.landAll ws).cf = c.cf := by
  unfold Core.landAll; induction ws generalizing c with
  | nil => rfl
  | cons w ws ih => simp [List.foldl_cons, ih]
@[simp] theorem Core.landAll_slots (c : Core) (ws : List Wr) : (c.landAll ws).slots = c.slots := by
  unfold Core.landAll; induction ws generalizing c with
  | nil => rfl
  | cons w ws ih => simp [List.foldl_cons, ih]
@[simp] theorem Core.landAll_deque (c : Core) (ws : List Wr) : (c.landAll ws).deque = c.deque := by
  unfold Core.landAll; induction ws generalizing c with
  | nil => rfl
  | cons w ws ih => simp [List.foldl_cons, ih]
@[simp] theorem Core.landAll_task (c : Core) (ws : List Wr) : (c.landAll ws).task = c.task := by
  unfold Core.landAll; induction ws generalizing c with
  | nil => rfl
  | cons w ws ih => simp [List.foldl_cons, ih]
@[simp] theorem Core.landAll_kpops (c : Core) (ws : List Wr) : (c.landAll ws).kpops = c.kpops := by
  unfold Core.landAll; induction ws generalizing c with
  | nil => rfl
  | cons w ws ih => simp [List.foldl_cons, ih]
@[simp] theorem Core.landAll_probe (c : Core) (ws : List Wr) : (c.landAll ws).probe = c.probe := by
  unfold Core.landAll; induction ws generalizing c with
  | nil => rfl
  | cons w ws ih => simp [List.foldl_cons, ih]
@[simp] theorem Core.landAll_wsret (c : Core) (ws : List Wr) : (c.landAll ws).wsret = c.wsret := by
  unfold Core.landAll; induction ws generalizing c with
  | nil => rfl
  | cons w ws ih => simp [List.foldl_cons, ih]
@[simp] theorem Core.landAll_stash (c : Core) (ws : List Wr) : (c.landAll ws).stash = c.stash := by
  unfold Core.landAll; induction ws generalizing c with
  | nil => rfl
  | cons w ws ih => simp [List.foldl_cons, ih]
@[simp] theorem Core.landAll_lent (c : Core) (ws : List Wr) : (c.landAll ws).lent = c.lent := by
  unfold Core.landAll; induction ws generalizing c with
  | nil => rfl
  | cons w ws ih => simp [List.foldl_cons, ih]
@[simp] theorem Core.landAll_erd (c : Core) (ws : List Wr) : (c.landAll ws).erd = c.erd := by
  unfold Core.landAll; induction ws generalizing c with
  | nil => rfl
  | cons w ws ih => simp [List.foldl_cons, ih]
@[simp] theorem Core.landAll_dack (c : Core) (ws : List Wr) : (c.landAll ws).dack = c.dack := by
  unfold Core.landAll; induction ws generalizing c with
  | nil => rfl
  | cons w ws ih => simp [List.foldl_cons, ih]
@[simp] theorem Core.landAll_raceLost (c : Core) (ws : List Wr) : (c.landAll ws).raceLost = c.raceLost := by
  unfold Core.landAll; induction ws generalizing c with
  | nil => rfl
  | cons w ws ih => simp [List.foldl_cons, ih]
@[simp] theorem Core.landAll_rx (c : Core) (ws : List Wr) : (c.landAll ws).rx = c.rx := by
  unfold Core.landAll; induction ws generalizing c with
  | nil => rfl
  | cons w ws ih => simp [List.foldl_cons, ih]
@[simp] theorem Core.landAll_penAt (c : Core) (ws : List Wr) : (c.landAll ws).penAt = c.penAt := by
  unfold Core.landAll; induction ws generalizing c with
  | nil => rfl
  | cons w ws ih => simp [List.foldl_cons, ih]
@[simp] theorem Core.landAll_posted (c : Core) (ws : List Wr) : (c.landAll ws).posted = c.posted := by
  unfold Core.landAll; induction ws generalizing c with
  | nil => rfl
  | cons w ws ih => simp [List.foldl_cons, ih]
@[simp] theorem Core.landAll_far (c : Core) (ws : List Wr) : (c.landAll ws).far = c.far := by
  unfold Core.landAll; induction ws generalizing c with
  | nil => rfl
  | cons w ws ih => simp [List.foldl_cons, ih]
@[simp] theorem Core.landAll_episodes (c : Core) (ws : List Wr) : (c.landAll ws).episodes = c.episodes := by
  unfold Core.landAll; induction ws generalizing c with
  | nil => rfl
  | cons w ws ih => simp [List.foldl_cons, ih]
@[simp] theorem Core.landAll_arrival (c : Core) (ws : List Wr) : (c.landAll ws).arrival = c.arrival := by
  unfold Core.landAll; induction ws generalizing c with
  | nil => rfl
  | cons w ws ih => simp [List.foldl_cons, ih]
@[simp] theorem Core.landAll_owed (c : Core) (ws : List Wr) : (c.landAll ws).owed = c.owed := by
  unfold Core.landAll; induction ws generalizing c with
  | nil => rfl
  | cons w ws ih => simp [List.foldl_cons, ih]
@[simp] theorem Core.landAll_xch (c : Core) (ws : List Wr) : (c.landAll ws).xch = c.xch := by
  unfold Core.landAll; induction ws generalizing c with
  | nil => rfl
  | cons w ws ih => simp [List.foldl_cons, ih]
@[simp] theorem Core.landAll_utlb (c : Core) (ws : List Wr) : (c.landAll ws).utlb = c.utlb := by
  unfold Core.landAll; induction ws generalizing c with
  | nil => rfl
  | cons w ws ih => simp [List.foldl_cons, ih]
@[simp] theorem Core.landAll_l1 (c : Core) (ws : List Wr) : (c.landAll ws).l1 = c.l1 := by
  unfold Core.landAll; induction ws generalizing c with
  | nil => rfl
  | cons w ws ih => simp [List.foldl_cons, ih]
@[simp] theorem Core.landAll_fwd (c : Core) (ws : List Wr) : (c.landAll ws).fwd = c.fwd := by
  unfold Core.landAll; induction ws generalizing c with
  | nil => rfl
  | cons w ws ih => simp [List.foldl_cons, ih]
@[simp] theorem Core.landAll_gangWait (c : Core) (ws : List Wr) : (c.landAll ws).gangWait = c.gangWait := by
  unfold Core.landAll; induction ws generalizing c with
  | nil => rfl
  | cons w ws ih => simp [List.foldl_cons, ih]
@[simp] theorem Core.landAll_unsent (c : Core) (ws : List Wr) : (c.landAll ws).unsent = c.unsent := by
  unfold Core.landAll; induction ws generalizing c with
  | nil => rfl
  | cons w ws ih => simp [List.foldl_cons, ih]
@[simp] theorem Core.landAll_retained (c : Core) (ws : List Wr) : (c.landAll ws).retained = c.retained := by
  unfold Core.landAll; induction ws generalizing c with
  | nil => rfl
  | cons w ws ih => simp [List.foldl_cons, ih]
@[simp] theorem Core.landAll_saveArrived (c : Core) (ws : List Wr) : (c.landAll ws).saveArrived = c.saveArrived := by
  unfold Core.landAll; induction ws generalizing c with
  | nil => rfl
  | cons w ws ih => simp [List.foldl_cons, ih]
@[simp] theorem Core.landAll_saveTrapped (c : Core) (ws : List Wr) : (c.landAll ws).saveTrapped = c.saveTrapped := by
  unfold Core.landAll; induction ws generalizing c with
  | nil => rfl
  | cons w ws ih => simp [List.foldl_cons, ih]
@[simp] theorem Core.landAll_placed (c : Core) (ws : List Wr) : (c.landAll ws).placed = c.placed := by
  unfold Core.landAll; induction ws generalizing c with
  | nil => rfl
  | cons w ws ih => simp [List.foldl_cons, ih]

/-! ### Core.pushAll -/

theorem Core.pushes_foldl {P : Core → Prop} (hP : ∀ c n v, P c → P (c.push n v)) (l : List (Fin 8 × W64)) (c : Core) (h : P c) : P (l.foldl (fun c x => c.push x.1 x.2) c) := by
  induction l generalizing c with
  | nil => exact h
  | cons x l ih => exact ih _ (hP _ _ _ h)

@[simp] theorem Core.pushAll_st (c : Core) (ws : List Wr) : (c.pushAll ws).st = c.st := 
  Core.pushes_foldl (P := fun d => d.st = c.st) (fun _ _ _ h => h) _ c rfl
@[simp] theorem Core.pushAll_pcid (c : Core) (ws : List Wr) : (c.pushAll ws).pcid = c.pcid := 
  Core.pushes_foldl (P := fun d => d.pcid = c.pcid) (fun _ _ _ h => h) _ c rfl
@[simp] theorem Core.pushAll_queue (c : Core) (ws : List Wr) : (c.pushAll ws).queue = c.queue := 
  Core.pushes_foldl (P := fun d => d.queue = c.queue) (fun _ _ _ h => h) _ c rfl
@[simp] theorem Core.pushAll_pc (c : Core) (ws : List Wr) : (c.pushAll ws).pc = c.pc := 
  Core.pushes_foldl (P := fun d => d.pc = c.pc) (fun _ _ _ h => h) _ c rfl
@[simp] theorem Core.pushAll_obj (c : Core) (ws : List Wr) : (c.pushAll ws).obj = c.obj := 
  Core.pushes_foldl (P := fun d => d.obj = c.obj) (fun _ _ _ h => h) _ c rfl
@[simp] theorem Core.pushAll_latch (c : Core) (ws : List Wr) : (c.pushAll ws).latch = c.latch := 
  Core.pushes_foldl (P := fun d => d.latch = c.latch) (fun _ _ _ h => h) _ c rfl
@[simp] theorem Core.pushAll_s (c : Core) (ws : List Wr) : (c.pushAll ws).s = c.s := 
  Core.pushes_foldl (P := fun d => d.s = c.s) (fun _ _ _ h => h) _ c rfl
@[simp] theorem Core.pushAll_p (c : Core) (ws : List Wr) : (c.pushAll ws).p = c.p := 
  Core.pushes_foldl (P := fun d => d.p = c.p) (fun _ _ _ h => h) _ c rfl
@[simp] theorem Core.pushAll_k (c : Core) (ws : List Wr) : (c.pushAll ws).k = c.k := 
  Core.pushes_foldl (P := fun d => d.k = c.k) (fun _ _ _ h => h) _ c rfl
@[simp] theorem Core.pushAll_tiles (c : Core) (ws : List Wr) : (c.pushAll ws).tiles = c.tiles := 
  Core.pushes_foldl (P := fun d => d.tiles = c.tiles) (fun _ _ _ h => h) _ c rfl
@[simp] theorem Core.pushAll_types (c : Core) (ws : List Wr) : (c.pushAll ws).types = c.types := 
  Core.pushes_foldl (P := fun d => d.types = c.types) (fun _ _ _ h => h) _ c rfl
@[simp] theorem Core.pushAll_lcn (c : Core) (ws : List Wr) : (c.pushAll ws).lcn = c.lcn := 
  Core.pushes_foldl (P := fun d => d.lcn = c.lcn) (fun _ _ _ h => h) _ c rfl
@[simp] theorem Core.pushAll_ncores (c : Core) (ws : List Wr) : (c.pushAll ws).ncores = c.ncores := 
  Core.pushes_foldl (P := fun d => d.ncores = c.ncores) (fun _ _ _ h => h) _ c rfl
@[simp] theorem Core.pushAll_ltorus (c : Core) (ws : List Wr) : (c.pushAll ws).ltorus = c.ltorus := 
  Core.pushes_foldl (P := fun d => d.ltorus = c.ltorus) (fun _ _ _ h => h) _ c rfl
@[simp] theorem Core.pushAll_dom (c : Core) (ws : List Wr) : (c.pushAll ws).dom = c.dom := 
  Core.pushes_foldl (P := fun d => d.dom = c.dom) (fun _ _ _ h => h) _ c rfl
@[simp] theorem Core.pushAll_domph (c : Core) (ws : List Wr) : (c.pushAll ws).domph = c.domph := 
  Core.pushes_foldl (P := fun d => d.domph = c.domph) (fun _ _ _ h => h) _ c rfl
@[simp] theorem Core.pushAll_jobseed (c : Core) (ws : List Wr) : (c.pushAll ws).jobseed = c.jobseed := 
  Core.pushes_foldl (P := fun d => d.jobseed = c.jobseed) (fun _ _ _ h => h) _ c rfl
@[simp] theorem Core.pushAll_gangst (c : Core) (ws : List Wr) : (c.pushAll ws).gangst = c.gangst := 
  Core.pushes_foldl (P := fun d => d.gangst = c.gangst) (fun _ _ _ h => h) _ c rfl
@[simp] theorem Core.pushAll_streamid (c : Core) (ws : List Wr) : (c.pushAll ws).streamid = c.streamid := 
  Core.pushes_foldl (P := fun d => d.streamid = c.streamid) (fun _ _ _ h => h) _ c rfl
@[simp] theorem Core.pushAll_mintkey (c : Core) (ws : List Wr) : (c.pushAll ws).mintkey = c.mintkey := 
  Core.pushes_foldl (P := fun d => d.mintkey = c.mintkey) (fun _ _ _ h => h) _ c rfl
@[simp] theorem Core.pushAll_srsite (c : Core) (ws : List Wr) : (c.pushAll ws).srsite = c.srsite := 
  Core.pushes_foldl (P := fun d => d.srsite = c.srsite) (fun _ _ _ h => h) _ c rfl
@[simp] theorem Core.pushAll_srbase (c : Core) (ws : List Wr) : (c.pushAll ws).srbase = c.srbase := 
  Core.pushes_foldl (P := fun d => d.srbase = c.srbase) (fun _ _ _ h => h) _ c rfl
@[simp] theorem Core.pushAll_fflags (c : Core) (ws : List Wr) : (c.pushAll ws).fflags = c.fflags := 
  Core.pushes_foldl (P := fun d => d.fflags = c.fflags) (fun _ _ _ h => h) _ c rfl
@[simp] theorem Core.pushAll_frm (c : Core) (ws : List Wr) : (c.pushAll ws).frm = c.frm := 
  Core.pushes_foldl (P := fun d => d.frm = c.frm) (fun _ _ _ h => h) _ c rfl
@[simp] theorem Core.pushAll_vrm (c : Core) (ws : List Wr) : (c.pushAll ws).vrm = c.vrm := 
  Core.pushes_foldl (P := fun d => d.vrm = c.vrm) (fun _ _ _ h => h) _ c rfl
@[simp] theorem Core.pushAll_cause (c : Core) (ws : List Wr) : (c.pushAll ws).cause = c.cause := 
  Core.pushes_foldl (P := fun d => d.cause = c.cause) (fun _ _ _ h => h) _ c rfl
@[simp] theorem Core.pushAll_tval (c : Core) (ws : List Wr) : (c.pushAll ws).tval = c.tval := 
  Core.pushes_foldl (P := fun d => d.tval = c.tval) (fun _ _ _ h => h) _ c rfl
@[simp] theorem Core.pushAll_epc (c : Core) (ws : List Wr) : (c.pushAll ws).epc = c.epc := 
  Core.pushes_foldl (P := fun d => d.epc = c.epc) (fun _ _ _ h => h) _ c rfl
@[simp] theorem Core.pushAll_raised (c : Core) (ws : List Wr) : (c.pushAll ws).raised = c.raised := 
  Core.pushes_foldl (P := fun d => d.raised = c.raised) (fun _ _ _ h => h) _ c rfl
@[simp] theorem Core.pushAll_tseq (c : Core) (ws : List Wr) : (c.pushAll ws).tseq = c.tseq := 
  Core.pushes_foldl (P := fun d => d.tseq = c.tseq) (fun _ _ _ h => h) _ c rfl
@[simp] theorem Core.pushAll_shdone (c : Core) (ws : List Wr) : (c.pushAll ws).shdone = c.shdone := 
  Core.pushes_foldl (P := fun d => d.shdone = c.shdone) (fun _ _ _ h => h) _ c rfl
@[simp] theorem Core.pushAll_rptst (c : Core) (ws : List Wr) : (c.pushAll ws).rptst = c.rptst := 
  Core.pushes_foldl (P := fun d => d.rptst = c.rptst) (fun _ _ _ h => h) _ c rfl
@[simp] theorem Core.pushAll_fstat (c : Core) (ws : List Wr) : (c.pushAll ws).fstat = c.fstat := 
  Core.pushes_foldl (P := fun d => d.fstat = c.fstat) (fun _ _ _ h => h) _ c rfl
@[simp] theorem Core.pushAll_evlatch (c : Core) (ws : List Wr) : (c.pushAll ws).evlatch = c.evlatch := 
  Core.pushes_foldl (P := fun d => d.evlatch = c.evlatch) (fun _ _ _ h => h) _ c rfl
@[simp] theorem Core.pushAll_vshare (c : Core) (ws : List Wr) : (c.pushAll ws).vshare = c.vshare := 
  Core.pushes_foldl (P := fun d => d.vshare = c.vshare) (fun _ _ _ h => h) _ c rfl
@[simp] theorem Core.pushAll_copyperm (c : Core) (ws : List Wr) : (c.pushAll ws).copyperm = c.copyperm := 
  Core.pushes_foldl (P := fun d => d.copyperm = c.copyperm) (fun _ _ _ h => h) _ c rfl
@[simp] theorem Core.pushAll_penbase (c : Core) (ws : List Wr) : (c.pushAll ws).penbase = c.penbase := 
  Core.pushes_foldl (P := fun d => d.penbase = c.penbase) (fun _ _ _ h => h) _ c rfl
@[simp] theorem Core.pushAll_pensize (c : Core) (ws : List Wr) : (c.pushAll ws).pensize = c.pensize := 
  Core.pushes_foldl (P := fun d => d.pensize = c.pensize) (fun _ _ _ h => h) _ c rfl
@[simp] theorem Core.pushAll_tkbase (c : Core) (ws : List Wr) : (c.pushAll ws).tkbase = c.tkbase := 
  Core.pushes_foldl (P := fun d => d.tkbase = c.tkbase) (fun _ _ _ h => h) _ c rfl
@[simp] theorem Core.pushAll_tksize (c : Core) (ws : List Wr) : (c.pushAll ws).tksize = c.tksize := 
  Core.pushes_foldl (P := fun d => d.tksize = c.tksize) (fun _ _ _ h => h) _ c rfl
@[simp] theorem Core.pushAll_steallvl (c : Core) (ws : List Wr) : (c.pushAll ws).steallvl = c.steallvl := 
  Core.pushes_foldl (P := fun d => d.steallvl = c.steallvl) (fun _ _ _ h => h) _ c rfl
@[simp] theorem Core.pushAll_stealtry (c : Core) (ws : List Wr) : (c.pushAll ws).stealtry = c.stealtry := 
  Core.pushes_foldl (P := fun d => d.stealtry = c.stealtry) (fun _ _ _ h => h) _ c rfl
@[simp] theorem Core.pushAll_twin (c : Core) (ws : List Wr) : (c.pushAll ws).twin = c.twin := 
  Core.pushes_foldl (P := fun d => d.twin = c.twin) (fun _ _ _ h => h) _ c rfl
@[simp] theorem Core.pushAll_migthresh (c : Core) (ws : List Wr) : (c.pushAll ws).migthresh = c.migthresh := 
  Core.pushes_foldl (P := fun d => d.migthresh = c.migthresh) (fun _ _ _ h => h) _ c rfl
@[simp] theorem Core.pushAll_bayfmt (c : Core) (ws : List Wr) : (c.pushAll ws).bayfmt = c.bayfmt := 
  Core.pushes_foldl (P := fun d => d.bayfmt = c.bayfmt) (fun _ _ _ h => h) _ c rfl
@[simp] theorem Core.pushAll_lmin (c : Core) (ws : List Wr) : (c.pushAll ws).lmin = c.lmin := 
  Core.pushes_foldl (P := fun d => d.lmin = c.lmin) (fun _ _ _ h => h) _ c rfl
@[simp] theorem Core.pushAll_lmem (c : Core) (ws : List Wr) : (c.pushAll ws).lmem = c.lmem := 
  Core.pushes_foldl (P := fun d => d.lmem = c.lmem) (fun _ _ _ h => h) _ c rfl
@[simp] theorem Core.pushAll_empties (c : Core) (ws : List Wr) : (c.pushAll ws).empties = c.empties := 
  Core.pushes_foldl (P := fun d => d.empties = c.empties) (fun _ _ _ h => h) _ c rfl
@[simp] theorem Core.pushAll_desc (c : Core) (ws : List Wr) : (c.pushAll ws).desc = c.desc := 
  Core.pushes_foldl (P := fun d => d.desc = c.desc) (fun _ _ _ h => h) _ c rfl
@[simp] theorem Core.pushAll_modp (c : Core) (ws : List Wr) : (c.pushAll ws).modp = c.modp := 
  Core.pushes_foldl (P := fun d => d.modp = c.modp) (fun _ _ _ h => h) _ c rfl
@[simp] theorem Core.pushAll_frame (c : Core) (ws : List Wr) : (c.pushAll ws).frame = c.frame := 
  Core.pushes_foldl (P := fun d => d.frame = c.frame) (fun _ _ _ h => h) _ c rfl
@[simp] theorem Core.pushAll_shadow (c : Core) (ws : List Wr) : (c.pushAll ws).shadow = c.shadow := 
  Core.pushes_foldl (P := fun d => d.shadow = c.shadow) (fun _ _ _ h => h) _ c rfl
@[simp] theorem Core.pushAll_resume (c : Core) (ws : List Wr) : (c.pushAll ws).resume = c.resume := 
  Core.pushes_foldl (P := fun d => d.resume = c.resume) (fun _ _ _ h => h) _ c rfl
@[simp] theorem Core.pushAll_cq (c : Core) (ws : List Wr) : (c.pushAll ws).cq = c.cq := 
  Core.pushes_foldl (P := fun d => d.cq = c.cq) (fun _ _ _ h => h) _ c rfl
@[simp] theorem Core.pushAll_cqNext (c : Core) (ws : List Wr) : (c.pushAll ws).cqNext = c.cqNext := 
  Core.pushes_foldl (P := fun d => d.cqNext = c.cqNext) (fun _ _ _ h => h) _ c rfl
@[simp] theorem Core.pushAll_mx (c : Core) (ws : List Wr) : (c.pushAll ws).mx = c.mx := 
  Core.pushes_foldl (P := fun d => d.mx = c.mx) (fun _ _ _ h => h) _ c rfl
@[simp] theorem Core.pushAll_cf (c : Core) (ws : List Wr) : (c.pushAll ws).cf = c.cf := 
  Core.pushes_foldl (P := fun d => d.cf = c.cf) (fun _ _ _ h => h) _ c rfl
@[simp] theorem Core.pushAll_slots (c : Core) (ws : List Wr) : (c.pushAll ws).slots = c.slots := 
  Core.pushes_foldl (P := fun d => d.slots = c.slots) (fun _ _ _ h => h) _ c rfl
@[simp] theorem Core.pushAll_deque (c : Core) (ws : List Wr) : (c.pushAll ws).deque = c.deque := 
  Core.pushes_foldl (P := fun d => d.deque = c.deque) (fun _ _ _ h => h) _ c rfl
@[simp] theorem Core.pushAll_task (c : Core) (ws : List Wr) : (c.pushAll ws).task = c.task := 
  Core.pushes_foldl (P := fun d => d.task = c.task) (fun _ _ _ h => h) _ c rfl
@[simp] theorem Core.pushAll_kpops (c : Core) (ws : List Wr) : (c.pushAll ws).kpops = c.kpops := 
  Core.pushes_foldl (P := fun d => d.kpops = c.kpops) (fun _ _ _ h => h) _ c rfl
@[simp] theorem Core.pushAll_probe (c : Core) (ws : List Wr) : (c.pushAll ws).probe = c.probe := 
  Core.pushes_foldl (P := fun d => d.probe = c.probe) (fun _ _ _ h => h) _ c rfl
@[simp] theorem Core.pushAll_wsret (c : Core) (ws : List Wr) : (c.pushAll ws).wsret = c.wsret := 
  Core.pushes_foldl (P := fun d => d.wsret = c.wsret) (fun _ _ _ h => h) _ c rfl
@[simp] theorem Core.pushAll_stash (c : Core) (ws : List Wr) : (c.pushAll ws).stash = c.stash := 
  Core.pushes_foldl (P := fun d => d.stash = c.stash) (fun _ _ _ h => h) _ c rfl
@[simp] theorem Core.pushAll_lent (c : Core) (ws : List Wr) : (c.pushAll ws).lent = c.lent := 
  Core.pushes_foldl (P := fun d => d.lent = c.lent) (fun _ _ _ h => h) _ c rfl
@[simp] theorem Core.pushAll_erd (c : Core) (ws : List Wr) : (c.pushAll ws).erd = c.erd := 
  Core.pushes_foldl (P := fun d => d.erd = c.erd) (fun _ _ _ h => h) _ c rfl
@[simp] theorem Core.pushAll_dack (c : Core) (ws : List Wr) : (c.pushAll ws).dack = c.dack := 
  Core.pushes_foldl (P := fun d => d.dack = c.dack) (fun _ _ _ h => h) _ c rfl
@[simp] theorem Core.pushAll_raceLost (c : Core) (ws : List Wr) : (c.pushAll ws).raceLost = c.raceLost := 
  Core.pushes_foldl (P := fun d => d.raceLost = c.raceLost) (fun _ _ _ h => h) _ c rfl
@[simp] theorem Core.pushAll_rx (c : Core) (ws : List Wr) : (c.pushAll ws).rx = c.rx := 
  Core.pushes_foldl (P := fun d => d.rx = c.rx) (fun _ _ _ h => h) _ c rfl
@[simp] theorem Core.pushAll_penAt (c : Core) (ws : List Wr) : (c.pushAll ws).penAt = c.penAt := 
  Core.pushes_foldl (P := fun d => d.penAt = c.penAt) (fun _ _ _ h => h) _ c rfl
@[simp] theorem Core.pushAll_posted (c : Core) (ws : List Wr) : (c.pushAll ws).posted = c.posted := 
  Core.pushes_foldl (P := fun d => d.posted = c.posted) (fun _ _ _ h => h) _ c rfl
@[simp] theorem Core.pushAll_far (c : Core) (ws : List Wr) : (c.pushAll ws).far = c.far := 
  Core.pushes_foldl (P := fun d => d.far = c.far) (fun _ _ _ h => h) _ c rfl
@[simp] theorem Core.pushAll_episodes (c : Core) (ws : List Wr) : (c.pushAll ws).episodes = c.episodes := 
  Core.pushes_foldl (P := fun d => d.episodes = c.episodes) (fun _ _ _ h => h) _ c rfl
@[simp] theorem Core.pushAll_arrival (c : Core) (ws : List Wr) : (c.pushAll ws).arrival = c.arrival := 
  Core.pushes_foldl (P := fun d => d.arrival = c.arrival) (fun _ _ _ h => h) _ c rfl
@[simp] theorem Core.pushAll_owed (c : Core) (ws : List Wr) : (c.pushAll ws).owed = c.owed := 
  Core.pushes_foldl (P := fun d => d.owed = c.owed) (fun _ _ _ h => h) _ c rfl
@[simp] theorem Core.pushAll_xch (c : Core) (ws : List Wr) : (c.pushAll ws).xch = c.xch := 
  Core.pushes_foldl (P := fun d => d.xch = c.xch) (fun _ _ _ h => h) _ c rfl
@[simp] theorem Core.pushAll_utlb (c : Core) (ws : List Wr) : (c.pushAll ws).utlb = c.utlb := 
  Core.pushes_foldl (P := fun d => d.utlb = c.utlb) (fun _ _ _ h => h) _ c rfl
@[simp] theorem Core.pushAll_l1 (c : Core) (ws : List Wr) : (c.pushAll ws).l1 = c.l1 := 
  Core.pushes_foldl (P := fun d => d.l1 = c.l1) (fun _ _ _ h => h) _ c rfl
@[simp] theorem Core.pushAll_fwd (c : Core) (ws : List Wr) : (c.pushAll ws).fwd = c.fwd := 
  Core.pushes_foldl (P := fun d => d.fwd = c.fwd) (fun _ _ _ h => h) _ c rfl
@[simp] theorem Core.pushAll_gangWait (c : Core) (ws : List Wr) : (c.pushAll ws).gangWait = c.gangWait := 
  Core.pushes_foldl (P := fun d => d.gangWait = c.gangWait) (fun _ _ _ h => h) _ c rfl
@[simp] theorem Core.pushAll_unsent (c : Core) (ws : List Wr) : (c.pushAll ws).unsent = c.unsent := 
  Core.pushes_foldl (P := fun d => d.unsent = c.unsent) (fun _ _ _ h => h) _ c rfl
@[simp] theorem Core.pushAll_retained (c : Core) (ws : List Wr) : (c.pushAll ws).retained = c.retained := 
  Core.pushes_foldl (P := fun d => d.retained = c.retained) (fun _ _ _ h => h) _ c rfl
@[simp] theorem Core.pushAll_saveArrived (c : Core) (ws : List Wr) : (c.pushAll ws).saveArrived = c.saveArrived := 
  Core.pushes_foldl (P := fun d => d.saveArrived = c.saveArrived) (fun _ _ _ h => h) _ c rfl
@[simp] theorem Core.pushAll_saveTrapped (c : Core) (ws : List Wr) : (c.pushAll ws).saveTrapped = c.saveTrapped := 
  Core.pushes_foldl (P := fun d => d.saveTrapped = c.saveTrapped) (fun _ _ _ h => h) _ c rfl
@[simp] theorem Core.pushAll_placed (c : Core) (ws : List Wr) : (c.pushAll ws).placed = c.placed := 
  Core.pushes_foldl (P := fun d => d.placed = c.placed) (fun _ _ _ h => h) _ c rfl

end Sys2Proof.Machine
end

