-- ==== Sys2Proof/Laws/Operands.lean ====
section
/-!
SUPPORT. Operands of an instruction whose fields name no bound port: plain registers.
-/
namespace Sys2Proof.Machine

theorem Core.named_nil (c : Core) (rs : List SReg) (h : ∀ r ∈ rs, c.port? r = none) : c.named rs = [] := by
  unfold Core.named
  rw [List.filterMap_eq_nil_iff]
  exact h

/-- A result to a field that names no bound port goes to the register. -/
theorem Core.out_plain (c : Core) (d : SReg) (v : W64) (h : c.port? d = none) : c.out d v = c.wr d v := by
  simp [Core.out, h]

theorem State.finish_plain (s : State) (d : SReg) (v : W64) (h : s.core.port? d = none) : s.finish d v = (s.wr d v).retire := by
  simp [State.finish, State.setCore, State.wr, Core.out_plain _ _ _ h]

/-- Operands that are plain registers: their values, and the state as it is. -/
theorem State.operands_plain (s : State) (b : Bool) (rs ws : List SReg) (k : List W64 → State → State → State)
    (h : ∀ r ∈ rs ++ ws, s.core.port? r = none) : s.operands b rs ws k = k (rs.map s.core.rd) s s := by
  unfold State.operands
  rw [if_pos ⟨Core.named_nil _ _ fun r hr => h r (by simp [hr]), Core.named_nil _ _ fun r hr => h r (by simp [hr])⟩]

theorem State.operandsL_plain (s : State) (l : BitVec 4) (b : Bool) (rs ws : List SReg) (k : List W64 → State → State → State)
    (h : ∀ r ∈ rs ++ ws, s.core.port? r = none) : s.operandsL l b rs ws k = k (rs.map s.core.rd) s s := by
  unfold State.operandsL
  rw [if_pos ⟨Core.named_nil _ _ fun r hr => h r (by simp [hr]), Core.named_nil _ _ fun r hr => h r (by simp [hr])⟩]

end Sys2Proof.Machine
end

