-- ==== Sys2Proof/Laws/Retire.lean ====
section
/-!
SUPPORT. What completing an instruction and taking a trap do to a core, said once (R169, R373), and the frames that follow.
-/
namespace Sys2Proof.Machine

/-- A table gives back what was set. -/
theorem tget_tset_self {α : Type} (d : α) (k : Nat) (v : α) (t : List (Nat × α)) : tget d k (tset k v t) = v := by
  induction t with
  | nil => simp [tset, tget]
  | cons a t ih => obtain ⟨i, u⟩ := a; simp only [tset]; split <;> simp_all [tget]

/-- Setting an entry keeps the others. -/
theorem tget_tset_of_ne {α : Type} (d : α) (k j : Nat) (v : α) (t : List (Nat × α)) (h : j ≠ k) : tget d j (tset k v t) = tget d j t := by
  induction t with
  | nil => simp [tset, tget]; intro h'; exact absurd h'.symm h
  | cons a t ih =>
    obtain ⟨i, u⟩ := a; simp only [tset]; split
    · rename_i h'; subst h'; simp [tget, Ne.symm h]
    · simp [tget, ih]

theorem clrBit_clrBit (x : W64) (n : Nat) : clrBit (clrBit x n) n = clrBit x n := by unfold clrBit; simp [BitVec.and_assoc]

theorem bit_clrBit_self (x : W64) (n : Nat) (h : n < 64): bit (clrBit x n) n = false := by
  simp [bit, clrBit, h]

theorem sameBytes_of_eq (s t : State) (h1 : t.mem = s.mem) (h2 : t.hostMem = s.hostMem) (h3 : t.core.lmem = s.core.lmem) (h4 : t.core.lmin = s.core.lmin) (h5 : t.peers = s.peers) : Safety.sameBytes s t := by
  unfold Safety.sameBytes Core.locByte; simp [h1,h2,h3,h4,h5]

theorem Core.portUsed_congr (c d : Core) (h : d.ports = c.ports) (hr : d.resume = c.resume) (n : Fin 8) : d.portUsed n = c.portUsed n := by
  unfold Core.portUsed Core.again; rw [h, hr]

theorem Core.port_congr (c d : Core) (h : d.ports = c.ports) (hr : d.resume = c.resume) (r : SReg) : d.port? r = c.port? r := by
  unfold Core.port?; simp only [Core.portUsed_congr c d h hr]

theorem Core.raw_congr (c d : Core) (h : d.resume = c.resume) : d.raw = c.raw := by unfold Core.raw Core.again; rw [h]

/-- A core in which no instruction was resumed is not in a try of a waiting L. -/
theorem Core.raw_of_not_resumed (c : Core) (h : c.resume = none) : c.raw = false := by simp [Core.raw, Core.again, h]

/-- Then its ports are the bound ones (R114). -/
theorem Core.portUsed_of_not_resumed (c : Core) (h : c.resume = none) (n : Fin 8) : c.portUsed n = (c.ports.get n).bound := by
  simp [Core.portUsed, Core.again, h]

theorem Core.rd_congr (c d : Core) (h : d.s = c.s) (r : SReg) : d.rd r = c.rd r := by unfold Core.rd; rw [h]

theorem Core.rd_wr_self (c : Core) (r : SReg) (v : W64) (h : r ≠ 0#5) : (c.wr r v).rd r = v := by simp [Core.rd, Core.wr, h]

theorem Core.rd_wr_of_ne (c : Core) (r q : SReg) (v : W64) (h : q ≠ r) : (c.wr r v).rd q = c.rd q := by
  simp only [Core.rd, Core.wr]; split; rfl; split
  · rfl
  · simp only []; rw [Vector.getElem_set_ne]; intro h'; apply h; exact BitVec.eq_of_toNat_eq h'.symm

theorem Core.get_setPort (c : Core) (n : Fin 8) (f : Port → Port) : (c.setPort n f).ports.get n = f (c.ports.get n) := by
  show (c.ports.set n.val (f (c.ports.get n)))[n.val] = _
  rw [Vector.getElem_set_self]

theorem Core.used_of_port (c : Core) (a : SReg) (n : Fin 8) (h : c.port? a = some n) : c.portUsed n = true := by
  unfold Core.port? at h; split at h
  · simp only [] at h; split at h
    · rename_i h'; cases h; exact h'
    · cases h
  · cases h

theorem Core.portUsed_setPort (c : Core) (n : Fin 8) (f : Port → Port) (hf : ∀ p, (f p).bound = p.bound) (m : Fin 8) :
    (c.setPort n f).portUsed m = c.portUsed m := by
  have hb : ((c.setPort n f).ports.get m).bound = (c.ports.get m).bound := by
    by_cases h : n = m
    · subst h; rw [Core.get_setPort, hf]
    · have hne : n.val ≠ m.val := fun e => h (Fin.ext e)
      show ((c.ports.set n.val (f (c.ports.get n)))[m.val]).bound = (c.ports[m.val]).bound
      rw [Vector.getElem_set_ne _ _ hne]
  have hr : (c.setPort n f).again = c.again := rfl
  unfold Core.portUsed; rw [hr, hb]

theorem Core.port_setPort (c : Core) (n : Fin 8) (f : Port → Port) (hf : ∀ p, (f p).bound = p.bound) (a : SReg) :
    (c.setPort n f).port? a = c.port? a := by
  unfold Core.port?; simp only [Core.portUsed_setPort c n f hf]

/-- What Safety.plain says. -/
theorem plain_iff (s : State) (fs : List SReg) : Safety.plain s fs = true ↔ s.core.modp = none ∧ ∀ r ∈ fs, s.core.port? r = none := by
  simp [Safety.plain, Option.isNone_iff_eq_none]

/-- All that the step to the next word does to a core: its place, and RPTST.V returns to 0 at most (R169). -/
theorem Core.step4_eq (c : Core) : ∃ p f r, c.step4 = { c with pc := p, frame := f, rptst := r } ∧ (r = c.rptst ∨ r = clrBit c.rptst 63) := by
  unfold Core.step4
  split
  · rename_i h; exact ⟨_, c.frame, c.rptst, rfl, .inl rfl⟩
  · split
    · exact ⟨_, _, c.rptst, rfl, .inl rfl⟩
    · split
      · exact ⟨_, none, clrBit c.rptst 63, rfl, .inr rfl⟩
      · exact ⟨_, _, c.rptst, rfl, .inl rfl⟩

/-- Outside a shadow, completing an instruction is the step to the next word. -/
theorem State.retire_of_no_shadow (s : State) (hs : s.core.shadow = none) : s.retire = s.setCore fun c => c.settle.step4 := by
  unfold State.retire State.position
  have : ((s.setCore fun c => c.settle.step4).core).shadow = none := by
    simp [Core.step4_shadow, hs]
  rw [this]

/-- The step to the next word keeps all but the core's place. -/
theorem sansPc_settle_step4 (c : Core) : Safety.sansPc c.settle.step4 = Safety.sansPc c := by
  obtain ⟨p, f, r, h, hr⟩ := Core.step4_eq c.settle
  rw [h]
  have e1 : clrBit r 63 = clrBit c.rptst 63 := by rcases hr with rfl | rfl <;> simp [clrBit_clrBit, Core.settle]
  have e2 : clrBit c.settle.shdone 31 = clrBit c.shdone 31 := by unfold Core.settle; simp; split <;> simp [clrBit_clrBit]
  unfold Safety.sansPc; simp [e1, e2]

/-- FRAME of completing: nothing but the core's place. -/
theorem frame0_retire (s : State) (hs : s.core.shadow = none) : Safety.frame0 s s.retire := by
  rw [State.retire_of_no_shadow s hs]
  refine ⟨sansPc_settle_step4 _, rfl, ?_⟩
  obtain ⟨p, f, r, h, hr⟩ := Core.step4_eq s.core.settle
  apply sameBytes_of_eq <;> simp [h]

/-- FRAME of completing with a scalar result. -/
theorem frameS_wr_retire (s : State) (d : SReg) (v : W64) (hs : s.core.shadow = none) : Safety.frameS s ((s.wr d v).retire) d := by
  have hs' : (s.wr d v).core.shadow = none := by simp [hs, State.wr]
  rw [State.retire_of_no_shadow _ hs']
  refine ⟨?_, ?_, rfl, ?_⟩
  · intro r hr
    simp only [State.rd, State.setCore_core, State.wr]
    rw [Core.rd_congr (s.core.wr d v) ((s.core.wr d v).settle.step4) (by simp) r, Core.rd_wr_of_ne _ _ _ _ hr]
  · have := sansPc_settle_step4 (s.wr d v).core
    rw [State.setCore_core]
    have e : Safety.sansPc { (s.wr d v).core.settle.step4 with s := s.core.s } = { Safety.sansPc (s.wr d v).core.settle.step4 with s := s.core.s } := rfl
    rw [e, this]
    simp only [State.wr]; unfold Core.wr; split <;> rfl
  · apply sameBytes_of_eq <;> simp [State.wr]

/-- FRAME of completing with a predicate. -/
theorem frameP_wp_retire (s : State) (d : PReg) (v : Bool) (hs : s.core.shadow = none) : Safety.frameP s ((s.wp d v).retire) d := by
  have hs' : (s.wp d v).core.shadow = none := by simp [hs, State.wp]
  rw [State.retire_of_no_shadow _ hs']
  refine ⟨?_, ?_, rfl, ?_⟩
  · intro r hr
    have e : ∀ c c' : Core, c'.p = c.p → c'.rp r = c.rp r := by intro c c' h; unfold Core.rp; rw [h]
    simp only [State.rp, State.setCore_core, State.wp]
    rw [e (s.core.wp d v) ((s.core.wp d v).settle.step4) (by simp)]
    simp only [Core.rp, Core.wp]; split; rfl; split
    · rfl
    · simp only []; rw [Vector.getElem_set_ne]; intro h'; apply hr; exact BitVec.eq_of_toNat_eq h'.symm
  · have := sansPc_settle_step4 (s.wp d v).core
    rw [State.setCore_core]
    have e : Safety.sansPc { (s.wp d v).core.settle.step4 with p := s.core.p } = { Safety.sansPc (s.wp d v).core.settle.step4 with p := s.core.p } := rfl
    rw [e, this]
    simp only [State.wp]; unfold Core.wp; split <;> rfl
  · apply sameBytes_of_eq <;> simp [State.wp]

theorem State.gangLeave_core (s : State) (n : Nat) : ∃ g f w, (s.gangLeave n).core = { s.core with gangst := g, fwd := f, gangWait := w } := by
  unfold State.gangLeave; split
  · exact ⟨_, _, _, rfl⟩
  · exact ⟨s.core.gangst, s.core.fwd, s.core.gangWait, rfl⟩

theorem State.gangDissolve_core (s : State) : ∃ g, (s.gangDissolve).core = { s.core with gangst := g } := by
  unfold State.gangDissolve; split
  · exact ⟨_, rfl⟩
  · exact ⟨s.core.gangst, rfl⟩

/-- A core alone leaves no gang. -/
theorem State.gangLeave_of_alone (s : State) (n : Nat) (h : gangRole s.core.gangst = 0) :
    s.gangLeave n = s := by unfold State.gangLeave; rw [if_neg (by omega)]

/-- A core that leads nobody lets nobody go. -/
theorem State.gangDissolve_of_alone (s : State) (h : gangRole s.core.gangst = 0) :
    s.gangDissolve = s := by unfold State.gangDissolve; rw [if_neg (by omega)]

theorem State.sendRec_core (s : State) : ∃ u, s.sendRec.core = { s.core with unsent := u } := by
  unfold State.sendRec; split
  · exact ⟨s.core.unsent, rfl⟩
  · simp only []; split
    · exact ⟨s.core.unsent, rfl⟩
    · exact ⟨none, rfl⟩

/-- Core c trapped at pc with the registers of R373 written; its gang fields and its record still to send as given. -/
def Core.trappedAt (c : Core) (pc sd rp : W64) (t : Trap) (g : W64) (f : List (W64 × W32)) (w : Option Nat) (u : Option (List W64)) : Core :=
    { c with
             gangst := g, fwd := f, gangWait := w, st := .trapped, pc := pc, epc := pc, cause := t.cause.setWidth 64, tval := t.tval, raised := t.why, shdone := sd, rptst := rp,
             tseq := (c.tseq + 1) % 65536, modp := none, frame := none, shadow := none, resume := none, far := none, probe := none, unsent := u, latch := none,
             obj := none, xch := { c.xch with checked := false } }

theorem State.countBad_core (s : State) (t : Trap) : (s.countBad t).core = s.core := by
  unfold State.countBad; split
  · rfl
  · split <;> rfl

/-- All that taking a trap does to the core (R373). -/
theorem State.trapAt_core (s : State) (pc sd rp : W64) (t : Trap) : ∃ g f w u, (s.trapAt pc sd rp t).core = Core.trappedAt s.core pc sd rp t g f w u := by
  unfold State.trapAt
  simp only []
  obtain ⟨g, f, w, h⟩ := State.gangLeave_core (s.countBad t) 4
  obtain ⟨g', h'⟩ := State.gangDissolve_core ((s.countBad t).gangLeave 4)
  generalize ((s.countBad t).gangLeave 4).gangDissolve = z at *
  rw [State.countBad_core] at h
  generalize hy : ({ z with core := _ } : State) = y
  obtain ⟨u, hu⟩ := State.sendRec_core y
  subst hy
  rw [hu]
  refine ⟨g', f, w, u, ?_⟩
  simp only [h', h, Core.trappedAt]

/-- Writes none of which is a push as the ports are bound: nothing is pushed, and all land later (R114). -/
theorem Core.pushAll_of_none (c : Core) (ws : List Wr) (h : ∀ w ∈ ws, c.pushes w = none) : c.pushAll ws = c ∧ c.lands ws = ws := by
  refine ⟨?_, ?_⟩
  · unfold Core.pushAll
    rw [List.filterMap_eq_nil_iff.2 h]; rfl
  · unfold Core.lands
    rw [List.filter_eq_self]; intro w hw; simp [h w hw]

/-- A write to a register that names no bound port is no push. -/
theorem Core.pushes_s_of_unbound (c : Core) (r : SReg) (v : W64) (h : c.port? r = none) : c.pushes (.s r v) = none := by simp [Core.pushes, h]

/-- L without a shadow, one write to a register: it lands at once (R118). -/
theorem State.landL_zero (s : State) (d : SReg) (v : W64) (h : s.core.port? d = none) (hr : s.core.resume = none) :
    s.landL 0#4 [.s d v] = (s.wr d v).retire := by
  obtain ⟨h1, h2⟩ := Core.pushAll_of_none s.core [.s d v] (by intro w hw; simp only [List.mem_singleton] at hw; subst hw; exact Core.pushes_s_of_unbound _ _ _ h)
  unfold State.landL
  simp only [h2, State.setCore, h1, Core.shadowOf, hr]
  simp [State.wr, Core.landAll, Core.land, Core.wrReg, h]

/-- L without a shadow that waits is a plain wait (R119). -/
theorem State.waitL_zero (s : State) (h : s.core.resume = none) : s.waitL 0#4 = s.wait := by
  unfold State.waitL State.waitWith Core.shadowOf
  rw [h]; split
  · rfl
  · simp [Core.raw_of_not_resumed _ h]

/-- L with a shadow that waits, its word at hand: the shadow opens, and L is kept in it with what it read at issue (R119). -/
theorem State.waitL_shadow (s : State) (la : BitVec 4) (w : W32) (hl : s.core.latch = some w) (h0 : la ≠ 0#4) (hr : s.core.resume = none) :
    s.waitL la = s.setCore fun c => c.into ⟨c.ipc, c.rptstNow, la.toNat, 0, 0, 0, [], none, none, none, none,
      some ⟨w, s.core.s, (wordRegs w).filterMap s.core.port?, s.core.modp, s.core.frm, s.core.vrm, none⟩⟩ := by
  have hn : la.toNat ≠ 0 := fun e => h0 (BitVec.eq_of_toNat_eq (by simpa using e))
  unfold State.waitL State.waitWith Core.shadowOf
  rw [hl, hr]
  simp [hn, Core.raw_of_not_resumed _ hr]

/-- R133: what an integer instruction of two operands does, with no prefix and no port. -/
theorem int2_plain (s : State) (d a b : SReg) (f : W64 → W64 → W64) (u) (g) (h : Safety.plain s [d, a, b] = true) :
    int2 d a b f u g s = (s.wr d (f (s.rd a) (s.rd b))).retire := by
  obtain ⟨hm, hp⟩ := (plain_iff _ _).1 h
  unfold int2
  rw [State.operands_plain _ _ _ _ _ (by intro r hr; apply hp; simp at hr ⊢; tauto)]
  rw [State.finish_plain _ _ _ (hp d (by simp))]
  simp [Core.intResult, hm, State.rd]

/-- The same for a long-latency one (R116). -/
theorem int2L_plain (s : State) (d a b : SReg) (l) (f : W64 → W64 → W64) (u) (g) (h : Safety.plain s [d, a, b] = true) :
    int2L d a b l f u g s = s.landL l [.s d (f (s.rd a) (s.rd b))] := by
  obtain ⟨hm, hp⟩ := (plain_iff _ _).1 h
  unfold int2L
  rw [State.operandsL_plain _ _ _ _ _ _ (by intro r hr; apply hp; simp at hr ⊢; tauto)]
  simp [Core.intResult, hm, State.rd]

/-- The same for one operand. -/
theorem int1_plain (s : State) (d a : SReg) (f : W64 → W64) (fs) (h : Safety.plain s fs = true) (hd : d ∈ fs) (ha : a ∈ fs) :
    int1 d a f s = (s.wr d (f (s.rd a))).retire := by
  obtain ⟨hm, hp⟩ := (plain_iff _ _).1 h
  unfold int1
  rw [State.operands_plain _ _ _ _ _ (by intro r hr; apply hp; simp at hr; rcases hr with rfl | rfl <;> assumption)]
  rw [State.finish_plain _ _ _ (hp d hd)]
  simp [State.rd]

end Sys2Proof.Machine
end

