-- ==== Sys2Proof/Laws/Access.lean ====
section
/-!
SUPPORT. What a translation, a fill of a patch record and an access of local memory do, said once (R173, R196, R201).
-/
namespace Sys2Proof.Machine

/-- All that a translation may change: the core's micro-TLB, the yards' TLBs, counts and walkers' entries of the dies, and words that a walk corrects (R201, R202,
R399). -/
def Xlated (s t : State) : Prop := ∃ u y d e, t = { s with core := { s.core with utlb := u }, yards := y, dies := d, soft := e }

theorem Xlated.refl (s : State) : Xlated s s := ⟨s.core.utlb, s.yards, s.dies, s.soft, rfl⟩

theorem Xlated.trans {s t u : State} (h : Xlated s t) (g : Xlated t u) : Xlated s u := by
  obtain ⟨a, b, c, e, rfl⟩ := h; obtain ⟨a', b', c', e', rfl⟩ := g; exact ⟨a', b', c', e', rfl⟩

theorem Xlated.setYard (s : State) (y : Nat) (f : Yard → Yard) : Xlated s (s.setYard y f) := ⟨s.core.utlb, _, s.dies, s.soft, rfl⟩

theorem Xlated.setDie (s : State) (y : Nat) (f : Die → Die) : Xlated s (s.setDie y f) := ⟨s.core.utlb, s.yards, _, s.soft, rfl⟩

theorem Xlated.setUtlb (s : State) (f : Core → List TlbE) : Xlated s (s.setCore fun c => { c with utlb := f c }) :=
  ⟨f s.core, s.yards, s.dies, s.soft, rfl⟩

/-- The same of the corrections that a read makes (R399). -/
theorem State.correct_xlated (s : State) (f : ErrLoc → Bool) : Xlated s (s.correct f) := by
  have go : ∀ (es : List ErrLoc) (t : State), Xlated t (es.foldl (fun s e => s.eccCount (errDie e) (errFixed e).1 (errFixed e).2) t) := by
    intro es
    induction es with
    | nil => exact Xlated.refl
    | cons e es ih => intro t; exact (Xlated.setDie _ _ _).trans (ih _)
  unfold State.correct
  split
  · exact Xlated.refl s
  · exact Xlated.trans ⟨s.core.utlb, s.yards, s.dies, _, rfl⟩ (go _ _)

theorem State.leaf_xlated {s t : State} {b : Bool} {va : Nat} {e : TlbE} (h : s.leaf b va = .ok (e, t)) : Xlated s t := by
  unfold State.leaf at h
  simp only [] at h
  split at h
  · cases h; exact Xlated.refl s
  · split at h
    · cases h; split
      · exact Xlated.setUtlb s _
      · exact Xlated.refl s
    · split at h
      · cases h
      · cases h
        split
        · exact (((Xlated.setDie _ _ _).trans (State.correct_xlated _ _)).trans (Xlated.setYard _ _ _)).trans (Xlated.setUtlb _ _)
        · exact ((Xlated.setDie _ _ _).trans (State.correct_xlated _ _)).trans (Xlated.setYard _ _ _)

theorem State.countRemote_xlated (s : State) (va : Nat) : Xlated s (s.countRemote va) := by
  unfold State.countRemote
  simp only []
  split
  · exact Xlated.refl s
  · split
    · split
      · exact (Xlated.setYard _ _ _).trans (Xlated.setDie _ _ _)
      · exact (Xlated.setYard _ _ _).trans (Xlated.setDie _ _ _)
    · exact Xlated.setYard _ _ _

theorem State.paged_xlated {s t : State} {b : Bool} {a : Acc} {va : Nat} {p : Place} (h : s.paged b a va = .ok (p, t)) : Xlated s t := by
  unfold State.paged at h
  split at h
  · cases h
  · split at h
    · cases h
    · rename_i e u hu
      have := State.leaf_xlated hu
      split at h
      · cases h
      · simp only [] at h
        repeat' split at h
        all_goals first
          | (cases h; done)
          | (cases h; exact this)

theorem State.window_xlated {s t : State} {a : Acc} {l o : Nat} {p : Place} (h : s.window a l o = .ok (p, t)) : Xlated s t := by
  unfold State.window at h
  simp only [] at h
  split at h
  · cases h
  · split at h
    · cases h; exact Xlated.refl s
    · split at h
      · split at h
        · split at h
          · split at h
            · rename_i hp; cases h; exact State.paged_xlated hp
            · rename_i hp; cases h; exact State.paged_xlated hp
            · rename_i hp; cases h; exact State.paged_xlated hp
            · cases h
          · cases h; exact Xlated.refl s
        · cases h
      · split at h
        · split at h
          · split at h
            · cases h
            · split at h
              · cases h
              · cases h; exact Xlated.refl s
          · cases h
        · cases h

/-- A translation changes no register and no byte of memory (R201). -/
theorem State.xlat_xlated {s t : State} {b : Bool} {a : Acc} {va : W64} {p : Place} (h : s.xlat b a va = .ok (p, t)) : Xlated s t := by
  unfold State.xlat at h
  simp only [] at h
  split at h
  · exact State.paged_xlated h
  · split at h
    · cases h; exact Xlated.refl s
    · split at h
      · cases h; exact Xlated.refl s
      · split at h
        · exact State.window_xlated h
        · cases h

/-- The same for an engine's access. -/
theorem State.engine_xlated {s t : State} {a : Acc} {va : W64} {n : Nat} {p : Place} (h : s.engine a va n = .ok (p, t)) : Xlated s t := by
  unfold State.engine at h
  split at h
  · cases h
  · cases h
  · rename_i hx
    split at h
    · split at h
      · cases h
      · cases h; exact State.xlat_xlated hx
    · cases h; exact State.xlat_xlated hx

theorem State.fixAt_xlated (s : State) (p : Place) (n : Nat) : Xlated s (s.fixAt p n) := State.correct_xlated s _

/-- The same for an engine's read. -/
theorem State.engineRead_xlated {s t : State} {va : W64} {n : Nat} {p : Place} {o} (h : s.engineRead va n = .ok (o, p, t)) : Xlated s t := by
  unfold State.engineRead at h
  split at h
  · cases h
  · rename_i hx
    split at h
    · cases h
    · cases h; exact (State.engine_xlated hx).trans (State.fixAt_xlated _ _ _)

theorem State.emitFrom_core (s : State) (n : Nat) (o : Out1) : (s.emitFrom n o).core = s.core := by
  have go : ∀ (fs : List Flit) (t : State), (fs.foldl (·.inject n ·) t).core = t.core := by
    intro fs
    induction fs with
    | nil => intro t; rfl
    | cons f fs ih => intro t; exact ih _
  exact go _ _

theorem State.emit_core (s : State) (o : Out1) : (s.emit o).core = s.core := State.emitFrom_core _ _ _

/-- With no posted store nothing drains. -/
theorem State.drain_of_no_posted (s : State) (p : Posted → Bool) (h : s.core.posted = []) : s.drain p = s := by
  unfold State.drain
  rw [h]
  show (s.setCore fun c => { c with posted := [] }) = s
  obtain ⟨c⟩ := s
  cases c; cases h; rfl

theorem State.drainAll_of_no_posted (s : State) (h : s.core.posted = []) : s.drainAll = s := State.drain_of_no_posted s _ h

theorem Core.ringHit_of_empty (c : Core) (o n : Nat) (h : c.deque = []) : c.ringHit o n = false := by simp [Core.ringHit, h]

/-- With an empty deque a write to local memory changes its bytes alone (R173). -/
theorem Core.locWrite_of_empty (c : Core) (o : Nat) (bs : List Byte) (h : c.deque = []) :
    c.locWrite o bs = { c with lmem := Memory.write c.lmem o (bs.take (c.lmin - o)) } := by
  simp [Core.locWrite, Core.ringHit_of_empty _ _ _ h]

theorem length_toBytes (n v : Nat) : (toBytes n v).length = n := by
  induction n generalizing v with
  | zero => rfl
  | succ n ih => simp [toBytes, ih]

/-- Byte lists and numbers agree (R3). -/
theorem ofBytes_toBytes (n v : Nat) : ofBytes (toBytes n v) = v % 256 ^ n := by
  induction n generalizing v with
  | zero => simp [toBytes, ofBytes, Nat.mod_one]
  | succ n ih =>
    simp only [toBytes, ofBytes, ih, BitVec.toNat_ofNat]
    rw [show 256^(n+1) = 256 * 256^n from by rw [Nat.pow_succ, Nat.mul_comm], Nat.mod_mul]

theorem getElem?_toBytes (n v i : Nat) (h : i < n) : (toBytes n v)[i]? = some (BitVec.ofNat 8 (v / 256 ^ i)) := by
  induction n generalizing v i with
  | zero => omega
  | succ n ih =>
    cases i with
    | zero => simp [toBytes]
    | succ i => simp only [toBytes, List.getElem?_cons_succ]; rw [ih _ _ (by omega), Nat.div_div_eq_div_mul, Nat.pow_succ, Nat.mul_comm]

theorem Memory.read_eq_map (m : Memory) (a n : Nat) : Memory.read m a n = (upTo n).map fun i => Memory.get m (a + i) := by
  apply List.ext_getElem?
  intro i
  rw [Memory.getElem?_read]
  unfold upTo
  by_cases h : i < n <;> simp [h]

theorem Core.locRead_below (c : Core) (o n : Nat) (h : o + n ≤ c.lmin) : c.locRead o n = Memory.read c.lmem o n := by
  rw [Memory.read_eq_map]
  unfold Core.locRead
  apply List.map_congr_left
  intro i hi
  have : i < n := by simpa [upTo] using hi
  simp [Core.locByte]; omega

theorem ofBytes_lt (bs : List Byte) : ofBytes bs < 256 ^ bs.length := by
  induction bs with
  | nil => simp [ofBytes]
  | cons b bs ih => simp only [ofBytes, List.length_cons, Nat.pow_succ]; have := b.isLt; omega

theorem Memory.num_lt (m : Memory) (a n : Nat) : Memory.num m a n < 256 ^ n := by
  have := ofBytes_lt (Memory.read m a n); rwa [Memory.length_read] at this

/-- What is written reads back. -/
theorem Memory.num_write (m : Memory) (o n v : Nat) : Memory.num (Memory.write m o (toBytes n v)) o n = v % 256 ^ n := by
  unfold Memory.num
  have := Memory.read_write m o (toBytes n v)
  rw [length_toBytes] at this
  rw [this, ofBytes_toBytes]

/-- An address in LOCAL is the core's own (R196). -/
theorem State.xlat_local (s : State) (b : Bool) (a : Acc) (va : W64) (h : localBase ≤ va.toNat) (h2 : va.toNat < localBase + 0x40000) :
    s.xlat b a va = .ok (.own (va.toNat - localBase), s) := by
  unfold State.xlat
  simp only []
  rw [if_neg (by unfold winBase; unfold localBase at h; omega), if_pos (by simp [h, h2])]

theorem forward_no_posted (k : Nat × Nat × Nat) (bs : List Byte) : forward [] k bs = bs := by
  induction bs generalizing k with
  | nil => rfl
  | cons b bs ih => simp [forward, ih]

theorem Core.answer_of_no_request (c : Core) (va : W64) (h : c.far = none) : c.answer va = .none := by simp [Core.answer, h]

/-- The core is kept but for its micro-TLB. -/
def CoreKept (s t : State) : Prop := ∃ u, t.core = { s.core with utlb := u }

theorem CoreKept.refl (s : State) : CoreKept s s := ⟨s.core.utlb, rfl⟩

theorem CoreKept.trans {s t u : State} (h : CoreKept s t) (g : CoreKept t u) : CoreKept s u := by
  obtain ⟨a, h⟩ := h; obtain ⟨b, g⟩ := g; exact ⟨b, by rw [g, h]⟩

theorem Xlated.coreKept {s t : State} (h : Xlated s t) : CoreKept s t := by obtain ⟨u, _, _, _, rfl⟩ := h; exact ⟨u, rfl⟩

theorem CoreKept.of_eq {s t : State} (h : t.core = s.core) : CoreKept s t := ⟨s.core.utlb, h⟩

/-- A unit's read keeps the core. -/
theorem State.unitRead_coreKept {s t : State} {va : W64} {n : Nat} {bs} (h : s.unitRead va n = .ok (bs, t)) : CoreKept s t := by
  unfold State.unitRead at h
  split at h
  · cases h
  · rename_i hx; cases h; exact (State.engineRead_xlated hx).coreKept
  · rename_i hx
    split at h
    · cases h
    · cases h; exact (State.engineRead_xlated hx).coreKept.trans (CoreKept.of_eq rfl)

theorem State.cplxLine_coreKept {s t : State} {b k : Nat} {bs} (h : s.cplxLine b k = .ok (bs, t)) : CoreKept s t := by
  unfold State.cplxLine at h
  simp only [] at h
  split at h
  · split at h
    · cases h
    · cases h; exact (State.correct_xlated s _).coreKept
  · split at h
    · cases h
    · rename_i hx; cases h; exact (State.unitRead_coreKept hx).trans (CoreKept.of_eq rfl)

theorem State.fillLines_coreKept {m : Nat} : ∀ {s t : State} {b k : Nat}, s.fillLines b k m = .ok t → CoreKept s t := by
  induction m with
  | zero => intro s t b k h; cases h; exact CoreKept.refl s
  | succ m ih =>
    intro s t b k h
    unfold State.fillLines at h
    split at h
    · cases h
    · rename_i hx; exact (State.cplxLine_coreKept hx).trans (ih h)

theorem State.fillRanges_coreKept {l} : ∀ {s t : State} {b : Nat}, s.fillRanges b l = .ok t → CoreKept s t := by
  induction l with
  | nil => intro s t b h; cases h; exact CoreKept.refl s
  | cons a l ih =>
    intro s t b h
    obtain ⟨o, n⟩ := a
    unfold State.fillRanges at h
    split at h
    · cases h
    · rename_i hx; exact (State.fillLines_coreKept hx).trans (ih h)

/-- Filling a record keeps the core (R39). -/
theorem State.useRec_coreKept {s t : State} {x : Slot} {f} {r} (h : s.useRec x f = .ok (r, t)) : CoreKept s t := by
  unfold State.useRec at h
  split at h
  · cases h
  · rename_i hx
    simp only [] at h
    split at h
    · cases h
    · rename_i hy; cases h; exact (State.fillLines_coreKept hx).trans (State.fillRanges_coreKept hy)

/-- Filling the records of an instruction keeps the core. -/
theorem State.useAll_coreKept {l : Needs} : ∀ {s t : State} {r}, s.useAll l = .ok (r, t) → CoreKept s t := by
  induction l with
  | nil => intro s t r h; cases h; exact CoreKept.refl s
  | cons a l ih =>
    intro s t r h
    obtain ⟨o, n⟩ := a
    unfold State.useAll at h
    split at h
    · cases h
    · rename_i hx
      split at h
      · cases h
      · rename_i hy; cases h; exact (State.useRec_coreKept hx).trans (ih hy)

end Sys2Proof.Machine
end

