-- ==== Sys2Proof/Laws/Decode.lean ====
section
/-!
SUPPORT. What the field functions of the decoder read from a word that the encoder packs.
-/
namespace Sys2Proof

@[simp] theorem fop_packR (op : BitVec 6) (d a b : BitVec 5) (fn : BitVec 7) (la : BitVec 4) : fop (packR op d a b fn la) = op := by
  apply BitVec.eq_of_getLsbD_eq; intro i hi
  simp only [fop, packR, BitVec.getLsbD_extractLsb', BitVec.getLsbD_append]
  grind
@[simp] theorem fd_packR (op : BitVec 6) (d a b : BitVec 5) (fn : BitVec 7) (la : BitVec 4) : fd (packR op d a b fn la) = d := by
  apply BitVec.eq_of_getLsbD_eq; intro i hi
  simp only [fd, packR, BitVec.getLsbD_extractLsb', BitVec.getLsbD_append]
  grind
@[simp] theorem fa_packR (op : BitVec 6) (d a b : BitVec 5) (fn : BitVec 7) (la : BitVec 4) : fa (packR op d a b fn la) = a := by
  apply BitVec.eq_of_getLsbD_eq; intro i hi
  simp only [fa, packR, BitVec.getLsbD_extractLsb', BitVec.getLsbD_append]
  grind
@[simp] theorem fb_packR (op : BitVec 6) (d a b : BitVec 5) (fn : BitVec 7) (la : BitVec 4) : fb (packR op d a b fn la) = b := by
  apply BitVec.eq_of_getLsbD_eq; intro i hi
  simp only [fb, packR, BitVec.getLsbD_extractLsb', BitVec.getLsbD_append]
  grind
@[simp] theorem ffn_packR (op : BitVec 6) (d a b : BitVec 5) (fn : BitVec 7) (la : BitVec 4) : ffn (packR op d a b fn la) = fn := by
  apply BitVec.eq_of_getLsbD_eq; intro i hi
  simp only [ffn, packR, BitVec.getLsbD_extractLsb', BitVec.getLsbD_append]
  grind
@[simp] theorem fla_packR (op : BitVec 6) (d a b : BitVec 5) (fn : BitVec 7) (la : BitVec 4) : fla (packR op d a b fn la) = la := by
  apply BitVec.eq_of_getLsbD_eq; intro i hi
  simp only [fla, packR, BitVec.getLsbD_extractLsb', BitVec.getLsbD_append]
  grind
@[simp] theorem fop_packI (op : BitVec 6) (d a : BitVec 5) (imm : BitVec 16) : fop (packI op d a imm) = op := by
  apply BitVec.eq_of_getLsbD_eq; intro i hi
  simp only [fop, packI, BitVec.getLsbD_extractLsb', BitVec.getLsbD_append]
  grind
@[simp] theorem fd_packI (op : BitVec 6) (d a : BitVec 5) (imm : BitVec 16) : fd (packI op d a imm) = d := by
  apply BitVec.eq_of_getLsbD_eq; intro i hi
  simp only [fd, packI, BitVec.getLsbD_extractLsb', BitVec.getLsbD_append]
  grind
@[simp] theorem fa_packI (op : BitVec 6) (d a : BitVec 5) (imm : BitVec 16) : fa (packI op d a imm) = a := by
  apply BitVec.eq_of_getLsbD_eq; intro i hi
  simp only [fa, packI, BitVec.getLsbD_extractLsb', BitVec.getLsbD_append]
  grind
@[simp] theorem fimm_packI (op : BitVec 6) (d a : BitVec 5) (imm : BitVec 16) : fimm (packI op d a imm) = imm := by
  apply BitVec.eq_of_getLsbD_eq; intro i hi
  simp only [fimm, packI, BitVec.getLsbD_extractLsb', BitVec.getLsbD_append]
  grind
@[simp] theorem fop_packJ (op : BitVec 6) (off : BitVec 26) : fop (packJ op off) = op := by
  apply BitVec.eq_of_getLsbD_eq; intro i hi
  simp only [fop, packJ, BitVec.getLsbD_extractLsb', BitVec.getLsbD_append]
  grind
@[simp] theorem foff_packJ (op : BitVec 6) (off : BitVec 26) : foff (packJ op off) = off := by
  apply BitVec.eq_of_getLsbD_eq; intro i hi
  simp only [foff, packJ, BitVec.getLsbD_extractLsb', BitVec.getLsbD_append]
  grind
@[simp] theorem fop_packM (op : BitVec 6) (d a : BitVec 5) (kind : BitVec 3) (off : BitVec 9) (la : BitVec 4) : fop (packM op d a kind off la) = op := by
  apply BitVec.eq_of_getLsbD_eq; intro i hi
  simp only [fop, packM, BitVec.getLsbD_extractLsb', BitVec.getLsbD_append]
  grind
@[simp] theorem fd_packM (op : BitVec 6) (d a : BitVec 5) (kind : BitVec 3) (off : BitVec 9) (la : BitVec 4) : fd (packM op d a kind off la) = d := by
  apply BitVec.eq_of_getLsbD_eq; intro i hi
  simp only [fd, packM, BitVec.getLsbD_extractLsb', BitVec.getLsbD_append]
  grind
@[simp] theorem fa_packM (op : BitVec 6) (d a : BitVec 5) (kind : BitVec 3) (off : BitVec 9) (la : BitVec 4) : fa (packM op d a kind off la) = a := by
  apply BitVec.eq_of_getLsbD_eq; intro i hi
  simp only [fa, packM, BitVec.getLsbD_extractLsb', BitVec.getLsbD_append]
  grind
@[simp] theorem fkind_packM (op : BitVec 6) (d a : BitVec 5) (kind : BitVec 3) (off : BitVec 9) (la : BitVec 4) : fkind (packM op d a kind off la) = kind := by
  apply BitVec.eq_of_getLsbD_eq; intro i hi
  simp only [fkind, packM, BitVec.getLsbD_extractLsb', BitVec.getLsbD_append]
  grind
@[simp] theorem foff9_packM (op : BitVec 6) (d a : BitVec 5) (kind : BitVec 3) (off : BitVec 9) (la : BitVec 4) : foff9 (packM op d a kind off la) = off := by
  apply BitVec.eq_of_getLsbD_eq; intro i hi
  simp only [foff9, packM, BitVec.getLsbD_extractLsb', BitVec.getLsbD_append]
  grind
@[simp] theorem fla_packM (op : BitVec 6) (d a : BitVec 5) (kind : BitVec 3) (off : BitVec 9) (la : BitVec 4) : fla (packM op d a kind off la) = la := by
  apply BitVec.eq_of_getLsbD_eq; intro i hi
  simp only [fla, packM, BitVec.getLsbD_extractLsb', BitVec.getLsbD_append]
  grind
@[simp] theorem fop_packK (op : BitVec 6) (d a b : BitVec 4) (fn : BitVec 6) (g : BitVec 3) (z : BitVec 1) (la : BitVec 4) : fop (packK op d a b fn g z la) = op := by
  apply BitVec.eq_of_getLsbD_eq; intro i hi
  simp only [fop, packK, BitVec.getLsbD_extractLsb', BitVec.getLsbD_append]
  grind
@[simp] theorem fkd_packK (op : BitVec 6) (d a b : BitVec 4) (fn : BitVec 6) (g : BitVec 3) (z : BitVec 1) (la : BitVec 4) : fkd (packK op d a b fn g z la) = d := by
  apply BitVec.eq_of_getLsbD_eq; intro i hi
  simp only [fkd, packK, BitVec.getLsbD_extractLsb', BitVec.getLsbD_append]
  grind
@[simp] theorem fka_packK (op : BitVec 6) (d a b : BitVec 4) (fn : BitVec 6) (g : BitVec 3) (z : BitVec 1) (la : BitVec 4) : fka (packK op d a b fn g z la) = a := by
  apply BitVec.eq_of_getLsbD_eq; intro i hi
  simp only [fka, packK, BitVec.getLsbD_extractLsb', BitVec.getLsbD_append]
  grind
@[simp] theorem fkb_packK (op : BitVec 6) (d a b : BitVec 4) (fn : BitVec 6) (g : BitVec 3) (z : BitVec 1) (la : BitVec 4) : fkb (packK op d a b fn g z la) = b := by
  apply BitVec.eq_of_getLsbD_eq; intro i hi
  simp only [fkb, packK, BitVec.getLsbD_extractLsb', BitVec.getLsbD_append]
  grind
@[simp] theorem ffn6_packK (op : BitVec 6) (d a b : BitVec 4) (fn : BitVec 6) (g : BitVec 3) (z : BitVec 1) (la : BitVec 4) : ffn6 (packK op d a b fn g z la) = fn := by
  apply BitVec.eq_of_getLsbD_eq; intro i hi
  simp only [ffn6, packK, BitVec.getLsbD_extractLsb', BitVec.getLsbD_append]
  grind
@[simp] theorem fpg_packK (op : BitVec 6) (d a b : BitVec 4) (fn : BitVec 6) (g : BitVec 3) (z : BitVec 1) (la : BitVec 4) : fpg (packK op d a b fn g z la) = g := by
  apply BitVec.eq_of_getLsbD_eq; intro i hi
  simp only [fpg, packK, BitVec.getLsbD_extractLsb', BitVec.getLsbD_append]
  grind
@[simp] theorem fbit4_packK (op : BitVec 6) (d a b : BitVec 4) (fn : BitVec 6) (g : BitVec 3) (z : BitVec 1) (la : BitVec 4) : fbit4 (packK op d a b fn g z la) = z := by
  apply BitVec.eq_of_getLsbD_eq; intro i hi
  simp only [fbit4, packK, BitVec.getLsbD_extractLsb', BitVec.getLsbD_append]
  grind
@[simp] theorem fla_packK (op : BitVec 6) (d a b : BitVec 4) (fn : BitVec 6) (g : BitVec 3) (z : BitVec 1) (la : BitVec 4) : fla (packK op d a b fn g z la) = la := by
  apply BitVec.eq_of_getLsbD_eq; intro i hi
  simp only [fla, packK, BitVec.getLsbD_extractLsb', BitVec.getLsbD_append]
  grind
@[simp] theorem fop_packKS (op : BitVec 6) (d a : BitVec 4) (r fn : BitVec 5) (g : BitVec 3) (z : BitVec 1) (la : BitVec 4) : fop (packKS op d a r fn g z la) = op := by
  apply BitVec.eq_of_getLsbD_eq; intro i hi
  simp only [fop, packKS, BitVec.getLsbD_extractLsb', BitVec.getLsbD_append]
  grind
@[simp] theorem fkd_packKS (op : BitVec 6) (d a : BitVec 4) (r fn : BitVec 5) (g : BitVec 3) (z : BitVec 1) (la : BitVec 4) : fkd (packKS op d a r fn g z la) = d := by
  apply BitVec.eq_of_getLsbD_eq; intro i hi
  simp only [fkd, packKS, BitVec.getLsbD_extractLsb', BitVec.getLsbD_append]
  grind
@[simp] theorem fka_packKS (op : BitVec 6) (d a : BitVec 4) (r fn : BitVec 5) (g : BitVec 3) (z : BitVec 1) (la : BitVec 4) : fka (packKS op d a r fn g z la) = a := by
  apply BitVec.eq_of_getLsbD_eq; intro i hi
  simp only [fka, packKS, BitVec.getLsbD_extractLsb', BitVec.getLsbD_append]
  grind
@[simp] theorem fs_packKS (op : BitVec 6) (d a : BitVec 4) (r fn : BitVec 5) (g : BitVec 3) (z : BitVec 1) (la : BitVec 4) : fs (packKS op d a r fn g z la) = r := by
  apply BitVec.eq_of_getLsbD_eq; intro i hi
  simp only [fs, packKS, BitVec.getLsbD_extractLsb', BitVec.getLsbD_append]
  grind
@[simp] theorem ffn5_packKS (op : BitVec 6) (d a : BitVec 4) (r fn : BitVec 5) (g : BitVec 3) (z : BitVec 1) (la : BitVec 4) : ffn5 (packKS op d a r fn g z la) = fn := by
  apply BitVec.eq_of_getLsbD_eq; intro i hi
  simp only [ffn5, packKS, BitVec.getLsbD_extractLsb', BitVec.getLsbD_append]
  grind
@[simp] theorem fpg_packKS (op : BitVec 6) (d a : BitVec 4) (r fn : BitVec 5) (g : BitVec 3) (z : BitVec 1) (la : BitVec 4) : fpg (packKS op d a r fn g z la) = g := by
  apply BitVec.eq_of_getLsbD_eq; intro i hi
  simp only [fpg, packKS, BitVec.getLsbD_extractLsb', BitVec.getLsbD_append]
  grind
@[simp] theorem fbit4_packKS (op : BitVec 6) (d a : BitVec 4) (r fn : BitVec 5) (g : BitVec 3) (z : BitVec 1) (la : BitVec 4) : fbit4 (packKS op d a r fn g z la) = z := by
  apply BitVec.eq_of_getLsbD_eq; intro i hi
  simp only [fbit4, packKS, BitVec.getLsbD_extractLsb', BitVec.getLsbD_append]
  grind
@[simp] theorem fla_packKS (op : BitVec 6) (d a : BitVec 4) (r fn : BitVec 5) (g : BitVec 3) (z : BitVec 1) (la : BitVec 4) : fla (packKS op d a r fn g z la) = la := by
  apply BitVec.eq_of_getLsbD_eq; intro i hi
  simp only [fla, packKS, BitVec.getLsbD_extractLsb', BitVec.getLsbD_append]
  grind
@[simp] theorem fop_packBrk (n : BitVec 15) : fop (packBrk n) = 0#6 := by
  apply BitVec.eq_of_getLsbD_eq; intro i hi
  simp only [fop, packBrk, BitVec.getLsbD_extractLsb', BitVec.getLsbD_append]
  grind
@[simp] theorem ffn_packBrk (n : BitVec 15) : ffn (packBrk n) = 1#7 := by
  apply BitVec.eq_of_getLsbD_eq; intro i hi
  simp only [ffn, packBrk, BitVec.getLsbD_extractLsb', BitVec.getLsbD_append]
  grind
@[simp] theorem fla_packBrk (n : BitVec 15) : fla (packBrk n) = 0#4 := by
  apply BitVec.eq_of_getLsbD_eq; intro i hi
  simp only [fla, packBrk, BitVec.getLsbD_extractLsb', BitVec.getLsbD_append]
  grind
@[simp] theorem fop_packRpt (op : BitVec 6) (n : BitVec 4) (x y z : BitVec 2) (t : BitVec 16) : fop (packRpt op n x y z t) = op := by
  apply BitVec.eq_of_getLsbD_eq; intro i hi
  simp only [fop, packRpt, BitVec.getLsbD_extractLsb', BitVec.getLsbD_append]
  grind
@[simp] theorem fimm_packRpt (op : BitVec 6) (n : BitVec 4) (x y z : BitVec 2) (t : BitVec 16) : fimm (packRpt op n x y z t) = t := by
  apply BitVec.eq_of_getLsbD_eq; intro i hi
  simp only [fimm, packRpt, BitVec.getLsbD_extractLsb', BitVec.getLsbD_append]
  grind
@[simp] theorem fop_packMod (a b c d e f : BitVec 1) (k : BitVec 6) (n : BitVec 5) : fop (packMod a b c d e f k n) = 62#6 := by
  apply BitVec.eq_of_getLsbD_eq; intro i hi
  simp only [fop, packMod, BitVec.getLsbD_extractLsb', BitVec.getLsbD_append]
  grind

end Sys2Proof
end

