-- ==== Sys2Proof/Laws/Fabric.lean ====
section
/-!
SUPPORT. Header CRCs (R78) and distances on a ring (R71).
-/
namespace Sys2Proof.Machine

theorem crc8Bit_lt (c : Nat) (b : Bool) : crc8Bit c b < 256 := by
  unfold crc8Bit
  refine Nat.xor_lt_two_pow (n := 8) (Nat.mod_lt _ (by decide)) ?_
  split <;> decide

theorem crc8_lt (x n c : Nat) (h : c < 256) : crc8 x n c < 256 := by
  induction n generalizing c with
  | zero => exact h
  | succ n ih => exact ih _ (crc8Bit_lt _ _)

theorem hdrBits_congr (f g : Flit) (h : g.dx = f.dx ∧ g.dy = f.dy ∧ g.inc = f.inc ∧ g.kind = f.kind ∧ g.tag = f.tag) : hdrBits g = hdrBits f := by
  unfold hdrBits
  rw [h.1, h.2.1, h.2.2.1, h.2.2.2.1, h.2.2.2.2]

theorem hdrBits_sealFlit (f : Flit) : hdrBits (sealFlit f) = hdrBits f := by
  refine hdrBits_congr _ _ ?_
  cases f
  exact ⟨rfl, rfl, rfl, rfl, rfl⟩

/-- A flit that carries the CRC of its header passes the check. -/
@[simp] theorem crcOk_sealFlit (f : Flit) : crcOk (sealFlit f) = true := by
  have h := crc8_lt (hdrBits f) 44 0 (by decide)
  have e : (sealFlit f).hcrc = BitVec.ofNat 8 (crc8 (hdrBits f) 44 0) := rfl
  unfold crcOk
  rw [hdrBits_sealFlit, e]
  generalize crc8 (hdrBits f) 44 0 = c at h
  rw [BitVec.toNat_ofNat, Nat.mod_eq_of_lt h]
  exact beq_self_eq_true _

/-- One router on, the positive way. -/
theorem ringPos_succ (n a : Nat) (h : a + 1 < n) : ringPos n a (a + 1) = 1 ∧ ringNeg n a (a + 1) = n - 1 := by
  unfold ringPos ringNeg
  rw [Nat.mod_eq_of_lt (show a < n by omega), Nat.mod_eq_of_lt h]
  refine ⟨?_, ?_⟩
  · rw [show a + 1 + n - a = n + 1 by omega, Nat.add_mod_left, Nat.mod_eq_of_lt (by omega)]
  · rw [show a + n - (a + 1) = n - 1 by omega, Nat.mod_eq_of_lt (by omega)]

end Sys2Proof.Machine
end

