-- ==== Sys2Proof/Laws/PerInstr.lean ====
section
/-!
SUPPORT. One lemma per constructor of Instr, for statements about every instruction as syntax.
-/
namespace Sys2Proof.Laws

/-- The major opcodes that R130 assigns. -/
def assigned (op : BitVec 6) : Bool := decide (op.toNat ≤ 0x2B) || op == 0x3E#6 || op == 0x3F#6

/-- The word of an instruction has a major opcode that the map assigns. -/
def Opcode.Statement (i : Instr) : Prop := isWord i = true → assigned (fop (encode i)) = true

theorem Opcode.nop : Opcode.Statement .nop := fun _ => (congrArg assigned (fop_packR _ _ _ _ _ _)).trans rfl
theorem Opcode.brk (n : BitVec 15) : Opcode.Statement (.brk n) := fun _ => (congrArg assigned (fop_packBrk _)).trans rfl
theorem Opcode.crr (d : BitVec 5) (h : BitVec 5) (l : BitVec 5) : Opcode.Statement (.crr d h l) := fun _ => (congrArg assigned (fop_packR _ _ _ _ _ _)).trans rfl
theorem Opcode.crw (h : BitVec 5) (a : BitVec 5) (l : BitVec 5) : Opcode.Statement (.crw h a l) := fun _ => (congrArg assigned (fop_packR _ _ _ _ _ _)).trans rfl
theorem Opcode.crs (h : BitVec 5) (a : BitVec 5) (l : BitVec 5) : Opcode.Statement (.crs h a l) := fun _ => (congrArg assigned (fop_packR _ _ _ _ _ _)).trans rfl
theorem Opcode.crc (h : BitVec 5) (a : BitVec 5) (l : BitVec 5) : Opcode.Statement (.crc h a l) := fun _ => (congrArg assigned (fop_packR _ _ _ _ _ _)).trans rfl
theorem Opcode.publish (d : BitVec 5) (a : BitVec 5) (b : BitVec 5) : Opcode.Statement (.publish d a b) := fun _ => (congrArg assigned (fop_packR _ _ _ _ _ _)).trans rfl
theorem Opcode.add (d : BitVec 5) (a : BitVec 5) (b : BitVec 5) : Opcode.Statement (.add d a b) := fun _ => (congrArg assigned (fop_packR _ _ _ _ _ _)).trans rfl
theorem Opcode.sub (d : BitVec 5) (a : BitVec 5) (b : BitVec 5) : Opcode.Statement (.sub d a b) := fun _ => (congrArg assigned (fop_packR _ _ _ _ _ _)).trans rfl
theorem Opcode.and (d : BitVec 5) (a : BitVec 5) (b : BitVec 5) : Opcode.Statement (.and d a b) := fun _ => (congrArg assigned (fop_packR _ _ _ _ _ _)).trans rfl
theorem Opcode.or (d : BitVec 5) (a : BitVec 5) (b : BitVec 5) : Opcode.Statement (.or d a b) := fun _ => (congrArg assigned (fop_packR _ _ _ _ _ _)).trans rfl
theorem Opcode.xor (d : BitVec 5) (a : BitVec 5) (b : BitVec 5) : Opcode.Statement (.xor d a b) := fun _ => (congrArg assigned (fop_packR _ _ _ _ _ _)).trans rfl
theorem Opcode.andn (d : BitVec 5) (a : BitVec 5) (b : BitVec 5) : Opcode.Statement (.andn d a b) := fun _ => (congrArg assigned (fop_packR _ _ _ _ _ _)).trans rfl
theorem Opcode.orn (d : BitVec 5) (a : BitVec 5) (b : BitVec 5) : Opcode.Statement (.orn d a b) := fun _ => (congrArg assigned (fop_packR _ _ _ _ _ _)).trans rfl
theorem Opcode.sll (d : BitVec 5) (a : BitVec 5) (b : BitVec 5) : Opcode.Statement (.sll d a b) := fun _ => (congrArg assigned (fop_packR _ _ _ _ _ _)).trans rfl
theorem Opcode.srl (d : BitVec 5) (a : BitVec 5) (b : BitVec 5) : Opcode.Statement (.srl d a b) := fun _ => (congrArg assigned (fop_packR _ _ _ _ _ _)).trans rfl
theorem Opcode.sra (d : BitVec 5) (a : BitVec 5) (b : BitVec 5) : Opcode.Statement (.sra d a b) := fun _ => (congrArg assigned (fop_packR _ _ _ _ _ _)).trans rfl
theorem Opcode.rol (d : BitVec 5) (a : BitVec 5) (b : BitVec 5) : Opcode.Statement (.rol d a b) := fun _ => (congrArg assigned (fop_packR _ _ _ _ _ _)).trans rfl
theorem Opcode.ror (d : BitVec 5) (a : BitVec 5) (b : BitVec 5) : Opcode.Statement (.ror d a b) := fun _ => (congrArg assigned (fop_packR _ _ _ _ _ _)).trans rfl
theorem Opcode.slt (d : BitVec 5) (a : BitVec 5) (b : BitVec 5) : Opcode.Statement (.slt d a b) := fun _ => (congrArg assigned (fop_packR _ _ _ _ _ _)).trans rfl
theorem Opcode.sltu (d : BitVec 5) (a : BitVec 5) (b : BitVec 5) : Opcode.Statement (.sltu d a b) := fun _ => (congrArg assigned (fop_packR _ _ _ _ _ _)).trans rfl
theorem Opcode.min (d : BitVec 5) (a : BitVec 5) (b : BitVec 5) : Opcode.Statement (.min d a b) := fun _ => (congrArg assigned (fop_packR _ _ _ _ _ _)).trans rfl
theorem Opcode.max (d : BitVec 5) (a : BitVec 5) (b : BitVec 5) : Opcode.Statement (.max d a b) := fun _ => (congrArg assigned (fop_packR _ _ _ _ _ _)).trans rfl
theorem Opcode.minu (d : BitVec 5) (a : BitVec 5) (b : BitVec 5) : Opcode.Statement (.minu d a b) := fun _ => (congrArg assigned (fop_packR _ _ _ _ _ _)).trans rfl
theorem Opcode.maxu (d : BitVec 5) (a : BitVec 5) (b : BitVec 5) : Opcode.Statement (.maxu d a b) := fun _ => (congrArg assigned (fop_packR _ _ _ _ _ _)).trans rfl
theorem Opcode.mul (d : BitVec 5) (a : BitVec 5) (b : BitVec 5) (l : BitVec 4) : Opcode.Statement (.mul d a b l) := fun _ => (congrArg assigned (fop_packR _ _ _ _ _ _)).trans rfl
theorem Opcode.mulh (d : BitVec 5) (a : BitVec 5) (b : BitVec 5) (l : BitVec 4) : Opcode.Statement (.mulh d a b l) := fun _ => (congrArg assigned (fop_packR _ _ _ _ _ _)).trans rfl
theorem Opcode.mulhu (d : BitVec 5) (a : BitVec 5) (b : BitVec 5) (l : BitVec 4) : Opcode.Statement (.mulhu d a b l) := fun _ => (congrArg assigned (fop_packR _ _ _ _ _ _)).trans rfl
theorem Opcode.div (d : BitVec 5) (a : BitVec 5) (b : BitVec 5) (l : BitVec 4) : Opcode.Statement (.div d a b l) := fun _ => (congrArg assigned (fop_packR _ _ _ _ _ _)).trans rfl
theorem Opcode.divu (d : BitVec 5) (a : BitVec 5) (b : BitVec 5) (l : BitVec 4) : Opcode.Statement (.divu d a b l) := fun _ => (congrArg assigned (fop_packR _ _ _ _ _ _)).trans rfl
theorem Opcode.rem (d : BitVec 5) (a : BitVec 5) (b : BitVec 5) (l : BitVec 4) : Opcode.Statement (.rem d a b l) := fun _ => (congrArg assigned (fop_packR _ _ _ _ _ _)).trans rfl
theorem Opcode.remu (d : BitVec 5) (a : BitVec 5) (b : BitVec 5) (l : BitVec 4) : Opcode.Statement (.remu d a b l) := fun _ => (congrArg assigned (fop_packR _ _ _ _ _ _)).trans rfl
theorem Opcode.clz (d : BitVec 5) (a : BitVec 5) : Opcode.Statement (.clz d a) := fun _ => (congrArg assigned (fop_packR _ _ _ _ _ _)).trans rfl
theorem Opcode.ctz (d : BitVec 5) (a : BitVec 5) : Opcode.Statement (.ctz d a) := fun _ => (congrArg assigned (fop_packR _ _ _ _ _ _)).trans rfl
theorem Opcode.popc (d : BitVec 5) (a : BitVec 5) : Opcode.Statement (.popc d a) := fun _ => (congrArg assigned (fop_packR _ _ _ _ _ _)).trans rfl
theorem Opcode.bswap (d : BitVec 5) (a : BitVec 5) : Opcode.Statement (.bswap d a) := fun _ => (congrArg assigned (fop_packR _ _ _ _ _ _)).trans rfl
theorem Opcode.sextb (d : BitVec 5) (a : BitVec 5) : Opcode.Statement (.sextb d a) := fun _ => (congrArg assigned (fop_packR _ _ _ _ _ _)).trans rfl
theorem Opcode.sexth (d : BitVec 5) (a : BitVec 5) : Opcode.Statement (.sexth d a) := fun _ => (congrArg assigned (fop_packR _ _ _ _ _ _)).trans rfl
theorem Opcode.sextw (d : BitVec 5) (a : BitVec 5) : Opcode.Statement (.sextw d a) := fun _ => (congrArg assigned (fop_packR _ _ _ _ _ _)).trans rfl
theorem Opcode.zextb (d : BitVec 5) (a : BitVec 5) : Opcode.Statement (.zextb d a) := fun _ => (congrArg assigned (fop_packR _ _ _ _ _ _)).trans rfl
theorem Opcode.zexth (d : BitVec 5) (a : BitVec 5) : Opcode.Statement (.zexth d a) := fun _ => (congrArg assigned (fop_packR _ _ _ _ _ _)).trans rfl
theorem Opcode.zextw (d : BitVec 5) (a : BitVec 5) : Opcode.Statement (.zextw d a) := fun _ => (congrArg assigned (fop_packR _ _ _ _ _ _)).trans rfl
theorem Opcode.csel (d : BitVec 5) (a : BitVec 5) (b : BitVec 5) : Opcode.Statement (.csel d a b) := fun _ => (congrArg assigned (fop_packR _ _ _ _ _ _)).trans rfl
theorem Opcode.addi (d : BitVec 5) (a : BitVec 5) (i : BitVec 16) : Opcode.Statement (.addi d a i) := fun _ => (congrArg assigned (fop_packI _ _ _ _)).trans rfl
theorem Opcode.andi (d : BitVec 5) (a : BitVec 5) (i : BitVec 16) : Opcode.Statement (.andi d a i) := fun _ => (congrArg assigned (fop_packI _ _ _ _)).trans rfl
theorem Opcode.ori (d : BitVec 5) (a : BitVec 5) (i : BitVec 16) : Opcode.Statement (.ori d a i) := fun _ => (congrArg assigned (fop_packI _ _ _ _)).trans rfl
theorem Opcode.xori (d : BitVec 5) (a : BitVec 5) (i : BitVec 16) : Opcode.Statement (.xori d a i) := fun _ => (congrArg assigned (fop_packI _ _ _ _)).trans rfl
theorem Opcode.slti (d : BitVec 5) (a : BitVec 5) (i : BitVec 16) : Opcode.Statement (.slti d a i) := fun _ => (congrArg assigned (fop_packI _ _ _ _)).trans rfl
theorem Opcode.sltiu (d : BitVec 5) (a : BitVec 5) (i : BitVec 16) : Opcode.Statement (.sltiu d a i) := fun _ => (congrArg assigned (fop_packI _ _ _ _)).trans rfl
theorem Opcode.slli (d : BitVec 5) (a : BitVec 5) (n : BitVec 6) : Opcode.Statement (.slli d a n) := fun _ => (congrArg assigned (fop_packI _ _ _ _)).trans rfl
theorem Opcode.srli (d : BitVec 5) (a : BitVec 5) (n : BitVec 6) : Opcode.Statement (.srli d a n) := fun _ => (congrArg assigned (fop_packI _ _ _ _)).trans rfl
theorem Opcode.srai (d : BitVec 5) (a : BitVec 5) (n : BitVec 6) : Opcode.Statement (.srai d a n) := fun _ => (congrArg assigned (fop_packI _ _ _ _)).trans rfl
theorem Opcode.rori (d : BitVec 5) (a : BitVec 5) (n : BitVec 6) : Opcode.Statement (.rori d a n) := fun _ => (congrArg assigned (fop_packI _ _ _ _)).trans rfl
theorem Opcode.lui (d : BitVec 5) (i : BitVec 16) : Opcode.Statement (.lui d i) := fun _ => (congrArg assigned (fop_packI _ _ _ _)).trans rfl
theorem Opcode.insh (d : BitVec 5) (a : BitVec 5) (i : BitVec 16) : Opcode.Statement (.insh d a i) := fun _ => (congrArg assigned (fop_packI _ _ _ _)).trans rfl
theorem Opcode.ceq (p : BitVec 3) (a : BitVec 5) (b : BitVec 5) : Opcode.Statement (.ceq p a b) := fun _ => (congrArg assigned (fop_packR _ _ _ _ _ _)).trans rfl
theorem Opcode.cne (p : BitVec 3) (a : BitVec 5) (b : BitVec 5) : Opcode.Statement (.cne p a b) := fun _ => (congrArg assigned (fop_packR _ _ _ _ _ _)).trans rfl
theorem Opcode.clt (p : BitVec 3) (a : BitVec 5) (b : BitVec 5) : Opcode.Statement (.clt p a b) := fun _ => (congrArg assigned (fop_packR _ _ _ _ _ _)).trans rfl
theorem Opcode.cltu (p : BitVec 3) (a : BitVec 5) (b : BitVec 5) : Opcode.Statement (.cltu p a b) := fun _ => (congrArg assigned (fop_packR _ _ _ _ _ _)).trans rfl
theorem Opcode.cge (p : BitVec 3) (a : BitVec 5) (b : BitVec 5) : Opcode.Statement (.cge p a b) := fun _ => (congrArg assigned (fop_packR _ _ _ _ _ _)).trans rfl
theorem Opcode.cgeu (p : BitVec 3) (a : BitVec 5) (b : BitVec 5) : Opcode.Statement (.cgeu p a b) := fun _ => (congrArg assigned (fop_packR _ _ _ _ _ _)).trans rfl
theorem Opcode.fceq (p : BitVec 3) (a : BitVec 5) (b : BitVec 5) : Opcode.Statement (.fceq p a b) := fun _ => (congrArg assigned (fop_packR _ _ _ _ _ _)).trans rfl
theorem Opcode.fclt (p : BitVec 3) (a : BitVec 5) (b : BitVec 5) : Opcode.Statement (.fclt p a b) := fun _ => (congrArg assigned (fop_packR _ _ _ _ _ _)).trans rfl
theorem Opcode.fcle (p : BitVec 3) (a : BitVec 5) (b : BitVec 5) : Opcode.Statement (.fcle p a b) := fun _ => (congrArg assigned (fop_packR _ _ _ _ _ _)).trans rfl
theorem Opcode.fcun (p : BitVec 3) (a : BitVec 5) (b : BitVec 5) : Opcode.Statement (.fcun p a b) := fun _ => (congrArg assigned (fop_packR _ _ _ _ _ _)).trans rfl
theorem Opcode.pand (p : BitVec 3) (a : BitVec 3) (b : BitVec 3) : Opcode.Statement (.pand p a b) := fun _ => (congrArg assigned (fop_packR _ _ _ _ _ _)).trans rfl
theorem Opcode.por (p : BitVec 3) (a : BitVec 3) (b : BitVec 3) : Opcode.Statement (.por p a b) := fun _ => (congrArg assigned (fop_packR _ _ _ _ _ _)).trans rfl
theorem Opcode.pxor (p : BitVec 3) (a : BitVec 3) (b : BitVec 3) : Opcode.Statement (.pxor p a b) := fun _ => (congrArg assigned (fop_packR _ _ _ _ _ _)).trans rfl
theorem Opcode.pandn (p : BitVec 3) (a : BitVec 3) (b : BitVec 3) : Opcode.Statement (.pandn p a b) := fun _ => (congrArg assigned (fop_packR _ _ _ _ _ _)).trans rfl
theorem Opcode.ptos (p : BitVec 3) (a : BitVec 5) : Opcode.Statement (.ptos p a) := fun _ => (congrArg assigned (fop_packR _ _ _ _ _ _)).trans rfl
theorem Opcode.sbitp (p : BitVec 3) (a : BitVec 5) (b : BitVec 5) : Opcode.Statement (.sbitp p a b) := fun _ => (congrArg assigned (fop_packR _ _ _ _ _ _)).trans rfl
theorem Opcode.beq (a : BitVec 5) (b : BitVec 5) (o : BitVec 16) : Opcode.Statement (.beq a b o) := fun _ => (congrArg assigned (fop_packI _ _ _ _)).trans rfl
theorem Opcode.bne (a : BitVec 5) (b : BitVec 5) (o : BitVec 16) : Opcode.Statement (.bne a b o) := fun _ => (congrArg assigned (fop_packI _ _ _ _)).trans rfl
theorem Opcode.blt (a : BitVec 5) (b : BitVec 5) (o : BitVec 16) : Opcode.Statement (.blt a b o) := fun _ => (congrArg assigned (fop_packI _ _ _ _)).trans rfl
theorem Opcode.bge (a : BitVec 5) (b : BitVec 5) (o : BitVec 16) : Opcode.Statement (.bge a b o) := fun _ => (congrArg assigned (fop_packI _ _ _ _)).trans rfl
theorem Opcode.bltu (a : BitVec 5) (b : BitVec 5) (o : BitVec 16) : Opcode.Statement (.bltu a b o) := fun _ => (congrArg assigned (fop_packI _ _ _ _)).trans rfl
theorem Opcode.bgeu (a : BitVec 5) (b : BitVec 5) (o : BitVec 16) : Opcode.Statement (.bgeu a b o) := fun _ => (congrArg assigned (fop_packI _ _ _ _)).trans rfl
theorem Opcode.bpt (p : BitVec 3) (o : BitVec 16) : Opcode.Statement (.bpt p o) := fun _ => (congrArg assigned (fop_packI _ _ _ _)).trans rfl
theorem Opcode.bpf (p : BitVec 3) (o : BitVec 16) : Opcode.Statement (.bpf p o) := fun _ => (congrArg assigned (fop_packI _ _ _ _)).trans rfl
theorem Opcode.j (o : BitVec 26) : Opcode.Statement (.j o) := fun _ => (congrArg assigned (fop_packJ _ _)).trans rfl
theorem Opcode.jal (o : BitVec 26) : Opcode.Statement (.jal o) := fun _ => (congrArg assigned (fop_packJ _ _)).trans rfl
theorem Opcode.jalr (d : BitVec 5) (a : BitVec 5) (i : BitVec 16) : Opcode.Statement (.jalr d a i) := fun _ => (congrArg assigned (fop_packI _ _ _ _)).trans rfl
theorem Opcode.rpt (n : BitVec 4) (x : BitVec 2) (y : BitVec 2) (z : BitVec 2) (t : BitVec 16) : Opcode.Statement (.rpt n x y z t) := fun _ => (congrArg assigned (fop_packRpt _ _ _ _ _ _)).trans rfl
theorem Opcode.rptr (n : BitVec 4) (x : BitVec 2) (y : BitVec 2) (z : BitVec 2) (b : BitVec 5) : Opcode.Statement (.rptr n x y z b) := fun _ => (congrArg assigned (fop_packRpt _ _ _ _ _ _)).trans rfl
theorem Opcode.fadd (d : BitVec 5) (a : BitVec 5) (b : BitVec 5) (l : BitVec 4) : Opcode.Statement (.fadd d a b l) := fun _ => (congrArg assigned (fop_packR _ _ _ _ _ _)).trans rfl
theorem Opcode.fsub (d : BitVec 5) (a : BitVec 5) (b : BitVec 5) (l : BitVec 4) : Opcode.Statement (.fsub d a b l) := fun _ => (congrArg assigned (fop_packR _ _ _ _ _ _)).trans rfl
theorem Opcode.fmul (d : BitVec 5) (a : BitVec 5) (b : BitVec 5) (l : BitVec 4) : Opcode.Statement (.fmul d a b l) := fun _ => (congrArg assigned (fop_packR _ _ _ _ _ _)).trans rfl
theorem Opcode.fdiv (d : BitVec 5) (a : BitVec 5) (b : BitVec 5) (l : BitVec 4) : Opcode.Statement (.fdiv d a b l) := fun _ => (congrArg assigned (fop_packR _ _ _ _ _ _)).trans rfl
theorem Opcode.fsqrt (d : BitVec 5) (a : BitVec 5) (l : BitVec 4) : Opcode.Statement (.fsqrt d a l) := fun _ => (congrArg assigned (fop_packR _ _ _ _ _ _)).trans rfl
theorem Opcode.fmac (d : BitVec 5) (a : BitVec 5) (b : BitVec 5) (l : BitVec 4) : Opcode.Statement (.fmac d a b l) := fun _ => (congrArg assigned (fop_packR _ _ _ _ _ _)).trans rfl
theorem Opcode.fmin (d : BitVec 5) (a : BitVec 5) (b : BitVec 5) (l : BitVec 4) : Opcode.Statement (.fmin d a b l) := fun _ => (congrArg assigned (fop_packR _ _ _ _ _ _)).trans rfl
theorem Opcode.fmax (d : BitVec 5) (a : BitVec 5) (b : BitVec 5) (l : BitVec 4) : Opcode.Statement (.fmax d a b l) := fun _ => (congrArg assigned (fop_packR _ _ _ _ _ _)).trans rfl
theorem Opcode.frnd (d : BitVec 5) (a : BitVec 5) (l : BitVec 4) : Opcode.Statement (.frnd d a l) := fun _ => (congrArg assigned (fop_packR _ _ _ _ _ _)).trans rfl
theorem Opcode.fclass (d : BitVec 5) (a : BitVec 5) (l : BitVec 4) : Opcode.Statement (.fclass d a l) := fun _ => (congrArg assigned (fop_packR _ _ _ _ _ _)).trans rfl
theorem Opcode.fcvtWS (d : BitVec 5) (a : BitVec 5) (l : BitVec 4) : Opcode.Statement (.fcvtWS d a l) := fun _ => (congrArg assigned (fop_packR _ _ _ _ _ _)).trans rfl
theorem Opcode.fcvtSW (d : BitVec 5) (a : BitVec 5) (l : BitVec 4) : Opcode.Statement (.fcvtSW d a l) := fun _ => (congrArg assigned (fop_packR _ _ _ _ _ _)).trans rfl
theorem Opcode.fcvtSBf (d : BitVec 5) (a : BitVec 5) (l : BitVec 4) : Opcode.Statement (.fcvtSBf d a l) := fun _ => (congrArg assigned (fop_packR _ _ _ _ _ _)).trans rfl
theorem Opcode.fcvtBfS (d : BitVec 5) (a : BitVec 5) (l : BitVec 4) : Opcode.Statement (.fcvtBfS d a l) := fun _ => (congrArg assigned (fop_packR _ _ _ _ _ _)).trans rfl
theorem Opcode.fcvtSH (d : BitVec 5) (a : BitVec 5) (l : BitVec 4) : Opcode.Statement (.fcvtSH d a l) := fun _ => (congrArg assigned (fop_packR _ _ _ _ _ _)).trans rfl
theorem Opcode.fcvtHS (d : BitVec 5) (a : BitVec 5) (l : BitVec 4) : Opcode.Statement (.fcvtHS d a l) := fun _ => (congrArg assigned (fop_packR _ _ _ _ _ _)).trans rfl
theorem Opcode.fcvtSE4 (d : BitVec 5) (a : BitVec 5) (l : BitVec 4) : Opcode.Statement (.fcvtSE4 d a l) := fun _ => (congrArg assigned (fop_packR _ _ _ _ _ _)).trans rfl
theorem Opcode.fcvtE4S (d : BitVec 5) (a : BitVec 5) (l : BitVec 4) : Opcode.Statement (.fcvtE4S d a l) := fun _ => (congrArg assigned (fop_packR _ _ _ _ _ _)).trans rfl
theorem Opcode.fcvtSE5 (d : BitVec 5) (a : BitVec 5) (l : BitVec 4) : Opcode.Statement (.fcvtSE5 d a l) := fun _ => (congrArg assigned (fop_packR _ _ _ _ _ _)).trans rfl
theorem Opcode.fcvtE5S (d : BitVec 5) (a : BitVec 5) (l : BitVec 4) : Opcode.Statement (.fcvtE5S d a l) := fun _ => (congrArg assigned (fop_packR _ _ _ _ _ _)).trans rfl
theorem Opcode.ldb (d : BitVec 5) (a : BitVec 5) (o : BitVec 9) (l : BitVec 4) : Opcode.Statement (.ldb d a o l) := fun _ => (congrArg assigned (fop_packM _ _ _ _ _ _)).trans rfl
theorem Opcode.ldbu (d : BitVec 5) (a : BitVec 5) (o : BitVec 9) (l : BitVec 4) : Opcode.Statement (.ldbu d a o l) := fun _ => (congrArg assigned (fop_packM _ _ _ _ _ _)).trans rfl
theorem Opcode.ldh (d : BitVec 5) (a : BitVec 5) (o : BitVec 9) (l : BitVec 4) : Opcode.Statement (.ldh d a o l) := fun _ => (congrArg assigned (fop_packM _ _ _ _ _ _)).trans rfl
theorem Opcode.ldhu (d : BitVec 5) (a : BitVec 5) (o : BitVec 9) (l : BitVec 4) : Opcode.Statement (.ldhu d a o l) := fun _ => (congrArg assigned (fop_packM _ _ _ _ _ _)).trans rfl
theorem Opcode.ldw (d : BitVec 5) (a : BitVec 5) (o : BitVec 9) (l : BitVec 4) : Opcode.Statement (.ldw d a o l) := fun _ => (congrArg assigned (fop_packM _ _ _ _ _ _)).trans rfl
theorem Opcode.ldwu (d : BitVec 5) (a : BitVec 5) (o : BitVec 9) (l : BitVec 4) : Opcode.Statement (.ldwu d a o l) := fun _ => (congrArg assigned (fop_packM _ _ _ _ _ _)).trans rfl
theorem Opcode.ldd (d : BitVec 5) (a : BitVec 5) (o : BitVec 9) (l : BitVec 4) : Opcode.Statement (.ldd d a o l) := fun _ => (congrArg assigned (fop_packM _ _ _ _ _ _)).trans rfl
theorem Opcode.stb (d : BitVec 5) (a : BitVec 5) (o : BitVec 9) (l : BitVec 4) : Opcode.Statement (.stb d a o l) := fun _ => (congrArg assigned (fop_packM _ _ _ _ _ _)).trans rfl
theorem Opcode.sth (d : BitVec 5) (a : BitVec 5) (o : BitVec 9) (l : BitVec 4) : Opcode.Statement (.sth d a o l) := fun _ => (congrArg assigned (fop_packM _ _ _ _ _ _)).trans rfl
theorem Opcode.stw (d : BitVec 5) (a : BitVec 5) (o : BitVec 9) (l : BitVec 4) : Opcode.Statement (.stw d a o l) := fun _ => (congrArg assigned (fop_packM _ _ _ _ _ _)).trans rfl
theorem Opcode.std (d : BitVec 5) (a : BitVec 5) (o : BitVec 9) (l : BitVec 4) : Opcode.Statement (.std d a o l) := fun _ => (congrArg assigned (fop_packM _ _ _ _ _ _)).trans rfl
theorem Opcode.st64 (d : BitVec 2) (a : BitVec 5) (o : BitVec 9) (l : BitVec 4) : Opcode.Statement (.st64 d a o l) := fun _ => (congrArg assigned (fop_packM _ _ _ _ _ _)).trans rfl
theorem Opcode.stfl (d : BitVec 5) (a : BitVec 5) (o : BitVec 9) (l : BitVec 4) : Opcode.Statement (.stfl d a o l) := fun _ => (congrArg assigned (fop_packM _ _ _ _ _ _)).trans rfl
theorem Opcode.ldf (d : BitVec 5) (a : BitVec 5) (o : BitVec 9) (l : BitVec 4) : Opcode.Statement (.ldf d a o l) := fun _ => (congrArg assigned (fop_packM _ _ _ _ _ _)).trans rfl
theorem Opcode.ldfe (d : BitVec 5) (a : BitVec 5) (o : BitVec 9) (l : BitVec 4) : Opcode.Statement (.ldfe d a o l) := fun _ => (congrArg assigned (fop_packM _ _ _ _ _ _)).trans rfl
theorem Opcode.fetest (d : BitVec 5) (a : BitVec 5) (o : BitVec 9) (l : BitVec 4) : Opcode.Statement (.fetest d a o l) := fun _ => (congrArg assigned (fop_packM _ _ _ _ _ _)).trans rfl
theorem Opcode.feclr (a : BitVec 5) (o : BitVec 9) (l : BitVec 4) : Opcode.Statement (.feclr a o l) := fun _ => (congrArg assigned (fop_packM _ _ _ _ _ _)).trans rfl
theorem Opcode.amoadd (d : BitVec 5) (a : BitVec 5) (b : BitVec 5) (r : BitVec 2) (l : BitVec 4) : Opcode.Statement (.amoadd d a b r l) := fun _ => (congrArg assigned (fop_packR _ _ _ _ _ _)).trans rfl
theorem Opcode.amoswp (d : BitVec 5) (a : BitVec 5) (b : BitVec 5) (r : BitVec 2) (l : BitVec 4) : Opcode.Statement (.amoswp d a b r l) := fun _ => (congrArg assigned (fop_packR _ _ _ _ _ _)).trans rfl
theorem Opcode.amocas (d : BitVec 5) (a : BitVec 5) (b : BitVec 5) (r : BitVec 2) (l : BitVec 4) : Opcode.Statement (.amocas d a b r l) := fun _ => (congrArg assigned (fop_packR _ _ _ _ _ _)).trans rfl
theorem Opcode.amomin (d : BitVec 5) (a : BitVec 5) (b : BitVec 5) (r : BitVec 2) (l : BitVec 4) : Opcode.Statement (.amomin d a b r l) := fun _ => (congrArg assigned (fop_packR _ _ _ _ _ _)).trans rfl
theorem Opcode.amomax (d : BitVec 5) (a : BitVec 5) (b : BitVec 5) (r : BitVec 2) (l : BitVec 4) : Opcode.Statement (.amomax d a b r l) := fun _ => (congrArg assigned (fop_packR _ _ _ _ _ _)).trans rfl
theorem Opcode.amominu (d : BitVec 5) (a : BitVec 5) (b : BitVec 5) (r : BitVec 2) (l : BitVec 4) : Opcode.Statement (.amominu d a b r l) := fun _ => (congrArg assigned (fop_packR _ _ _ _ _ _)).trans rfl
theorem Opcode.amomaxu (d : BitVec 5) (a : BitVec 5) (b : BitVec 5) (r : BitVec 2) (l : BitVec 4) : Opcode.Statement (.amomaxu d a b r l) := fun _ => (congrArg assigned (fop_packR _ _ _ _ _ _)).trans rfl
theorem Opcode.amoand (d : BitVec 5) (a : BitVec 5) (b : BitVec 5) (r : BitVec 2) (l : BitVec 4) : Opcode.Statement (.amoand d a b r l) := fun _ => (congrArg assigned (fop_packR _ _ _ _ _ _)).trans rfl
theorem Opcode.amoor (d : BitVec 5) (a : BitVec 5) (b : BitVec 5) (r : BitVec 2) (l : BitVec 4) : Opcode.Statement (.amoor d a b r l) := fun _ => (congrArg assigned (fop_packR _ _ _ _ _ _)).trans rfl
theorem Opcode.amoxor (d : BitVec 5) (a : BitVec 5) (b : BitVec 5) (r : BitVec 2) (l : BitVec 4) : Opcode.Statement (.amoxor d a b r l) := fun _ => (congrArg assigned (fop_packR _ _ _ _ _ _)).trans rfl
theorem Opcode.redx (a : BitVec 5) (b : BitVec 5) (r : BitVec 2) (l : BitVec 4) : Opcode.Statement (.redx a b r l) := fun _ => (congrArg assigned (fop_packR _ _ _ _ _ _)).trans rfl
theorem Opcode.redq (a : BitVec 5) (b : BitVec 5) (r : BitVec 2) (l : BitVec 4) : Opcode.Statement (.redq a b r l) := fun _ => (congrArg assigned (fop_packR _ _ _ _ _ _)).trans rfl
theorem Opcode.redget (d : BitVec 4) (a : BitVec 5) (b : BitVec 5) (r : BitVec 2) (l : BitVec 4) : Opcode.Statement (.redget d a b r l) := fun _ => (congrArg assigned (fop_packR _ _ _ _ _ _)).trans rfl
theorem Opcode.redclr (a : BitVec 5) (r : BitVec 2) (l : BitVec 4) : Opcode.Statement (.redclr a r l) := fun _ => (congrArg assigned (fop_packR _ _ _ _ _ _)).trans rfl
theorem Opcode.send (d : BitVec 5) (a : BitVec 4) (b : BitVec 5) : Opcode.Statement (.send d a b) := fun _ => (congrArg assigned (fop_packR _ _ _ _ _ _)).trans rfl
theorem Opcode.recv (d : BitVec 4) : Opcode.Statement (.recv d) := fun _ => (congrArg assigned (fop_packR _ _ _ _ _ _)).trans rfl
theorem Opcode.recvp (d : BitVec 4) : Opcode.Statement (.recvp d) := fun _ => (congrArg assigned (fop_packR _ _ _ _ _ _)).trans rfl
theorem Opcode.tkpush (d : BitVec 5) (a : BitVec 5) (b : BitVec 5) : Opcode.Statement (.tkpush d a b) := fun _ => (congrArg assigned (fop_packR _ _ _ _ _ _)).trans rfl
theorem Opcode.tkpop (d : BitVec 4) : Opcode.Statement (.tkpop d) := fun _ => (congrArg assigned (fop_packR _ _ _ _ _ _)).trans rfl
theorem Opcode.tkdone : Opcode.Statement .tkdone := fun _ => (congrArg assigned (fop_packR _ _ _ _ _ _)).trans rfl
theorem Opcode.gang (a : BitVec 5) : Opcode.Statement (.gang a) := fun _ => (congrArg assigned (fop_packR _ _ _ _ _ _)).trans rfl
theorem Opcode.ungang : Opcode.Statement .ungang := fun _ => (congrArg assigned (fop_packR _ _ _ _ _ _)).trans rfl
theorem Opcode.bar (l : BitVec 3) : Opcode.Statement (.bar l) := fun _ => (congrArg assigned (fop_packR _ _ _ _ _ _)).trans rfl
theorem Opcode.vote (d : BitVec 5) (a : BitVec 5) (o : BitVec 2) (l : BitVec 3) : Opcode.Statement (.vote d a o l) := fun _ => (congrArg assigned (fop_packR _ _ _ _ _ _)).trans rfl
theorem Opcode.phase (l : BitVec 3) : Opcode.Statement (.phase l) := fun _ => (congrArg assigned (fop_packR _ _ _ _ _ _)).trans rfl
theorem Opcode.wfe (d : BitVec 5) (a : BitVec 5) : Opcode.Statement (.wfe d a) := fun _ => (congrArg assigned (fop_packR _ _ _ _ _ _)).trans rfl
theorem Opcode.sev (a : BitVec 5) (b : BitVec 5) : Opcode.Statement (.sev a b) := fun _ => (congrArg assigned (fop_packR _ _ _ _ _ _)).trans rfl
theorem Opcode.waitt (d : BitVec 5) (a : BitVec 5) : Opcode.Statement (.waitt d a) := fun _ => (congrArg assigned (fop_packR _ _ _ _ _ _)).trans rfl
theorem Opcode.fence (d : BitVec 5) (s : BitVec 2) (w : BitVec 1) : Opcode.Statement (.fence d s w) := fun _ => (congrArg assigned (fop_packR _ _ _ _ _ _)).trans rfl
theorem Opcode.cfence : Opcode.Statement .cfence := fun _ => (congrArg assigned (fop_packR _ _ _ _ _ _)).trans rfl
theorem Opcode.cpy (d : BitVec 5) (a : BitVec 3) (l : BitVec 4) : Opcode.Statement (.cpy d a l) := fun _ => (congrArg assigned (fop_packR _ _ _ _ _ _)).trans rfl
theorem Opcode.cpynb (d : BitVec 5) (a : BitVec 3) (l : BitVec 4) : Opcode.Statement (.cpynb d a l) := fun _ => (congrArg assigned (fop_packR _ _ _ _ _ _)).trans rfl
theorem Opcode.cpyq (d : BitVec 5) (l : BitVec 4) : Opcode.Statement (.cpyq d l) := fun _ => (congrArg assigned (fop_packR _ _ _ _ _ _)).trans rfl
theorem Opcode.dpost (a : BitVec 5) (b : BitVec 5) (l : BitVec 4) : Opcode.Statement (.dpost a b l) := fun _ => (congrArg assigned (fop_packR _ _ _ _ _ _)).trans rfl
theorem Opcode.xchg (d : BitVec 5) (a : BitVec 5) (b : BitVec 5) (l : BitVec 4) : Opcode.Statement (.xchg d a b l) := fun _ => (congrArg assigned (fop_packR _ _ _ _ _ _)).trans rfl
theorem Opcode.calq (d : BitVec 5) (a : BitVec 5) (l : BitVec 4) : Opcode.Statement (.calq d a l) := fun _ => (congrArg assigned (fop_packR _ _ _ _ _ _)).trans rfl
theorem Opcode.gather (d : BitVec 5) (a : BitVec 3) (l : BitVec 4) : Opcode.Statement (.gather d a l) := fun _ => (congrArg assigned (fop_packR _ _ _ _ _ _)).trans rfl
theorem Opcode.scatter (d : BitVec 5) (a : BitVec 3) (l : BitVec 4) : Opcode.Statement (.scatter d a l) := fun _ => (congrArg assigned (fop_packR _ _ _ _ _ _)).trans rfl
theorem Opcode.dispatch (d : BitVec 5) (a : BitVec 3) (l : BitVec 4) : Opcode.Statement (.dispatch d a l) := fun _ => (congrArg assigned (fop_packR _ _ _ _ _ _)).trans rfl
theorem Opcode.combine (d : BitVec 5) (a : BitVec 3) (l : BitVec 4) : Opcode.Statement (.combine d a l) := fun _ => (congrArg assigned (fop_packR _ _ _ _ _ _)).trans rfl
theorem Opcode.sbind (n : BitVec 3) : Opcode.Statement (.sbind n) := fun _ => (congrArg assigned (fop_packR _ _ _ _ _ _)).trans rfl
theorem Opcode.sfree (n : BitVec 3) : Opcode.Statement (.sfree n) := fun _ => (congrArg assigned (fop_packR _ _ _ _ _ _)).trans rfl
theorem Opcode.sdrain (n : BitVec 3) : Opcode.Statement (.sdrain n) := fun _ => (congrArg assigned (fop_packR _ _ _ _ _ _)).trans rfl
theorem Opcode.sstat (d : BitVec 5) (n : BitVec 3) : Opcode.Statement (.sstat d n) := fun _ => (congrArg assigned (fop_packR _ _ _ _ _ _)).trans rfl
theorem Opcode.accrd (t : BitVec 4) (a : BitVec 5) (b : BitVec 5) (l : BitVec 4) : Opcode.Statement (.accrd t a b l) := fun _ => (congrArg assigned (fop_packR _ _ _ _ _ _)).trans rfl
theorem Opcode.accwr (t : BitVec 4) (a : BitVec 5) (b : BitVec 5) (l : BitVec 4) : Opcode.Statement (.accwr t a b l) := fun _ => (congrArg assigned (fop_packR _ _ _ _ _ _)).trans rfl
theorem Opcode.mxwait (d : BitVec 5) (a : BitVec 5) (l : BitVec 4) : Opcode.Statement (.mxwait d a l) := fun _ => (congrArg assigned (fop_packR _ _ _ _ _ _)).trans rfl
theorem Opcode.mxseq (d : BitVec 5) (l : BitVec 4) : Opcode.Statement (.mxseq d l) := fun _ => (congrArg assigned (fop_packR _ _ _ _ _ _)).trans rfl
theorem Opcode.vadd (d : BitVec 4) (a : BitVec 4) (b : BitVec 4) (g : BitVec 3) (l : BitVec 4) : Opcode.Statement (.vadd d a b g l) := fun _ => (congrArg assigned (fop_packK _ _ _ _ _ _ _ _)).trans rfl
theorem Opcode.vsub (d : BitVec 4) (a : BitVec 4) (b : BitVec 4) (g : BitVec 3) (l : BitVec 4) : Opcode.Statement (.vsub d a b g l) := fun _ => (congrArg assigned (fop_packK _ _ _ _ _ _ _ _)).trans rfl
theorem Opcode.vmul (d : BitVec 4) (a : BitVec 4) (b : BitVec 4) (g : BitVec 3) (l : BitVec 4) : Opcode.Statement (.vmul d a b g l) := fun _ => (congrArg assigned (fop_packK _ _ _ _ _ _ _ _)).trans rfl
theorem Opcode.vdiv (d : BitVec 4) (a : BitVec 4) (b : BitVec 4) (g : BitVec 3) (l : BitVec 4) : Opcode.Statement (.vdiv d a b g l) := fun _ => (congrArg assigned (fop_packK _ _ _ _ _ _ _ _)).trans rfl
theorem Opcode.vmin (d : BitVec 4) (a : BitVec 4) (b : BitVec 4) (g : BitVec 3) (l : BitVec 4) : Opcode.Statement (.vmin d a b g l) := fun _ => (congrArg assigned (fop_packK _ _ _ _ _ _ _ _)).trans rfl
theorem Opcode.vmax (d : BitVec 4) (a : BitVec 4) (b : BitVec 4) (g : BitVec 3) (l : BitVec 4) : Opcode.Statement (.vmax d a b g l) := fun _ => (congrArg assigned (fop_packK _ _ _ _ _ _ _ _)).trans rfl
theorem Opcode.vfma (d : BitVec 4) (a : BitVec 4) (b : BitVec 4) (g : BitVec 3) (l : BitVec 4) : Opcode.Statement (.vfma d a b g l) := fun _ => (congrArg assigned (fop_packK _ _ _ _ _ _ _ _)).trans rfl
theorem Opcode.vfms (d : BitVec 4) (a : BitVec 4) (b : BitVec 4) (g : BitVec 3) (l : BitVec 4) : Opcode.Statement (.vfms d a b g l) := fun _ => (congrArg assigned (fop_packK _ _ _ _ _ _ _ _)).trans rfl
theorem Opcode.vand (d : BitVec 4) (a : BitVec 4) (b : BitVec 4) (g : BitVec 3) (l : BitVec 4) : Opcode.Statement (.vand d a b g l) := fun _ => (congrArg assigned (fop_packK _ _ _ _ _ _ _ _)).trans rfl
theorem Opcode.vor (d : BitVec 4) (a : BitVec 4) (b : BitVec 4) (g : BitVec 3) (l : BitVec 4) : Opcode.Statement (.vor d a b g l) := fun _ => (congrArg assigned (fop_packK _ _ _ _ _ _ _ _)).trans rfl
theorem Opcode.vxor (d : BitVec 4) (a : BitVec 4) (b : BitVec 4) (g : BitVec 3) (l : BitVec 4) : Opcode.Statement (.vxor d a b g l) := fun _ => (congrArg assigned (fop_packK _ _ _ _ _ _ _ _)).trans rfl
theorem Opcode.vcgt (d : BitVec 4) (a : BitVec 4) (b : BitVec 4) (g : BitVec 3) (l : BitVec 4) : Opcode.Statement (.vcgt d a b g l) := fun _ => (congrArg assigned (fop_packK _ _ _ _ _ _ _ _)).trans rfl
theorem Opcode.vcge (d : BitVec 4) (a : BitVec 4) (b : BitVec 4) (g : BitVec 3) (l : BitVec 4) : Opcode.Statement (.vcge d a b g l) := fun _ => (congrArg assigned (fop_packK _ _ _ _ _ _ _ _)).trans rfl
theorem Opcode.vceq (d : BitVec 4) (a : BitVec 4) (b : BitVec 4) (g : BitVec 3) (l : BitVec 4) : Opcode.Statement (.vceq d a b g l) := fun _ => (congrArg assigned (fop_packK _ _ _ _ _ _ _ _)).trans rfl
theorem Opcode.vsel (d : BitVec 4) (a : BitVec 4) (b : BitVec 4) (g : BitVec 3) (l : BitVec 4) : Opcode.Statement (.vsel d a b g l) := fun _ => (congrArg assigned (fop_packK _ _ _ _ _ _ _ _)).trans rfl
theorem Opcode.vmov (d : BitVec 4) (a : BitVec 4) (g : BitVec 3) (l : BitVec 4) : Opcode.Statement (.vmov d a g l) := fun _ => (congrArg assigned (fop_packK _ _ _ _ _ _ _ _)).trans rfl
theorem Opcode.vsqrt (d : BitVec 4) (a : BitVec 4) (g : BitVec 3) (l : BitVec 4) : Opcode.Statement (.vsqrt d a g l) := fun _ => (congrArg assigned (fop_packK _ _ _ _ _ _ _ _)).trans rfl
theorem Opcode.vrcp (d : BitVec 4) (a : BitVec 4) (g : BitVec 3) (l : BitVec 4) : Opcode.Statement (.vrcp d a g l) := fun _ => (congrArg assigned (fop_packK _ _ _ _ _ _ _ _)).trans rfl
theorem Opcode.vrsq (d : BitVec 4) (a : BitVec 4) (g : BitVec 3) (l : BitVec 4) : Opcode.Statement (.vrsq d a g l) := fun _ => (congrArg assigned (fop_packK _ _ _ _ _ _ _ _)).trans rfl
theorem Opcode.vexp2 (d : BitVec 4) (a : BitVec 4) (g : BitVec 3) (l : BitVec 4) : Opcode.Statement (.vexp2 d a g l) := fun _ => (congrArg assigned (fop_packK _ _ _ _ _ _ _ _)).trans rfl
theorem Opcode.vlog2 (d : BitVec 4) (a : BitVec 4) (g : BitVec 3) (l : BitVec 4) : Opcode.Statement (.vlog2 d a g l) := fun _ => (congrArg assigned (fop_packK _ _ _ _ _ _ _ _)).trans rfl
theorem Opcode.vcvt (d : BitVec 4) (a : BitVec 4) (g : BitVec 3) (l : BitVec 4) : Opcode.Statement (.vcvt d a g l) := fun _ => (congrArg assigned (fop_packK _ _ _ _ _ _ _ _)).trans rfl
theorem Opcode.vadds (d : BitVec 4) (a : BitVec 4) (s : BitVec 5) (g : BitVec 3) (l : BitVec 4) : Opcode.Statement (.vadds d a s g l) := fun _ => (congrArg assigned (fop_packKS _ _ _ _ _ _ _ _)).trans rfl
theorem Opcode.vsubs (d : BitVec 4) (a : BitVec 4) (s : BitVec 5) (g : BitVec 3) (l : BitVec 4) : Opcode.Statement (.vsubs d a s g l) := fun _ => (congrArg assigned (fop_packKS _ _ _ _ _ _ _ _)).trans rfl
theorem Opcode.vmuls (d : BitVec 4) (a : BitVec 4) (s : BitVec 5) (g : BitVec 3) (l : BitVec 4) : Opcode.Statement (.vmuls d a s g l) := fun _ => (congrArg assigned (fop_packKS _ _ _ _ _ _ _ _)).trans rfl
theorem Opcode.vfmas (d : BitVec 4) (a : BitVec 4) (s : BitVec 5) (g : BitVec 3) (l : BitVec 4) : Opcode.Statement (.vfmas d a s g l) := fun _ => (congrArg assigned (fop_packKS _ _ _ _ _ _ _ _)).trans rfl
theorem Opcode.vmins (d : BitVec 4) (a : BitVec 4) (s : BitVec 5) (g : BitVec 3) (l : BitVec 4) : Opcode.Statement (.vmins d a s g l) := fun _ => (congrArg assigned (fop_packKS _ _ _ _ _ _ _ _)).trans rfl
theorem Opcode.vmaxs (d : BitVec 4) (a : BitVec 4) (s : BitVec 5) (g : BitVec 3) (l : BitVec 4) : Opcode.Statement (.vmaxs d a s g l) := fun _ => (congrArg assigned (fop_packKS _ _ _ _ _ _ _ _)).trans rfl
theorem Opcode.vfill (d : BitVec 4) (s : BitVec 5) (g : BitVec 3) (l : BitVec 4) : Opcode.Statement (.vfill d s g l) := fun _ => (congrArg assigned (fop_packKS _ _ _ _ _ _ _ _)).trans rfl
theorem Opcode.vgete (a : BitVec 4) (s : BitVec 4) (g : BitVec 3) (l : BitVec 4) : Opcode.Statement (.vgete a s g l) := fun _ => (congrArg assigned (fop_packKS _ _ _ _ _ _ _ _)).trans rfl
theorem Opcode.vpute (d : BitVec 4) (s : BitVec 4) (g : BitVec 3) (l : BitVec 4) : Opcode.Statement (.vpute d s g l) := fun _ => (congrArg assigned (fop_packKS _ _ _ _ _ _ _ _)).trans rfl
theorem Opcode.vsum (a : BitVec 4) (s : BitVec 5) (g : BitVec 3) (l : BitVec 4) : Opcode.Statement (.vsum a s g l) := fun _ => (congrArg assigned (fop_packKS _ _ _ _ _ _ _ _)).trans rfl
theorem Opcode.vdot (b : BitVec 4) (a : BitVec 4) (s : BitVec 5) (g : BitVec 3) (l : BitVec 4) : Opcode.Statement (.vdot b a s g l) := fun _ => (congrArg assigned (fop_packKS _ _ _ _ _ _ _ _)).trans rfl
theorem Opcode.vmaxr (a : BitVec 4) (s : BitVec 4) (g : BitVec 3) (l : BitVec 4) : Opcode.Statement (.vmaxr a s g l) := fun _ => (congrArg assigned (fop_packKS _ _ _ _ _ _ _ _)).trans rfl
theorem Opcode.vminr (a : BitVec 4) (s : BitVec 4) (g : BitVec 3) (l : BitVec 4) : Opcode.Statement (.vminr a s g l) := fun _ => (congrArg assigned (fop_packKS _ _ _ _ _ _ _ _)).trans rfl
theorem Opcode.topk (d : BitVec 4) (a : BitVec 4) (s : BitVec 5) (g : BitVec 3) (l : BitVec 4) : Opcode.Statement (.topk d a s g l) := fun _ => (congrArg assigned (fop_packKS _ _ _ _ _ _ _ _)).trans rfl
theorem Opcode.cmpr48 (d : BitVec 4) (a : BitVec 4) (s : BitVec 5) (g : BitVec 3) (l : BitVec 4) : Opcode.Statement (.cmpr48 d a s g l) := fun _ => (congrArg assigned (fop_packKS _ _ _ _ _ _ _ _)).trans rfl
theorem Opcode.vdec48 (d : BitVec 4) (a : BitVec 4) (s : BitVec 5) (g : BitVec 3) (l : BitVec 4) : Opcode.Statement (.vdec48 d a s g l) := fun _ => (congrArg assigned (fop_packKS _ _ _ _ _ _ _ _)).trans rfl
theorem Opcode.vrand (d : BitVec 4) (s : BitVec 5) (g : BitVec 3) (l : BitVec 4) : Opcode.Statement (.vrand d s g l) := fun _ => (congrArg assigned (fop_packKS _ _ _ _ _ _ _ _)).trans rfl
theorem Opcode.kdef (d : BitVec 4) (s : BitVec 4) (g : BitVec 3) (l : BitVec 4) : Opcode.Statement (.kdef d s g l) := fun _ => (congrArg assigned (fop_packKS _ _ _ _ _ _ _ _)).trans rfl
theorem Opcode.kst (a : BitVec 4) (s : BitVec 5) (g : BitVec 3) (l : BitVec 4) : Opcode.Statement (.kst a s g l) := fun _ => (congrArg assigned (fop_packKS _ _ _ _ _ _ _ _)).trans rfl
theorem Opcode.kget (a : BitVec 4) (s : BitVec 4) (g : BitVec 3) (l : BitVec 4) : Opcode.Statement (.kget a s g l) := fun _ => (congrArg assigned (fop_packKS _ _ _ _ _ _ _ _)).trans rfl
theorem Opcode.kset (d : BitVec 4) (a : BitVec 4) (s : BitVec 5) (g : BitVec 3) (l : BitVec 4) : Opcode.Statement (.kset d a s g l) := fun _ => (congrArg assigned (fop_packKS _ _ _ _ _ _ _ _)).trans rfl
theorem Opcode.kview (d : BitVec 4) (a : BitVec 4) (s : BitVec 5) (g : BitVec 3) (l : BitVec 4) : Opcode.Statement (.kview d a s g l) := fun _ => (congrArg assigned (fop_packKS _ _ _ _ _ _ _ _)).trans rfl
theorem Opcode.dext (d : BitVec 4) (a : BitVec 4) (g : BitVec 3) (l : BitVec 4) : Opcode.Statement (.dext d a g l) := fun _ => (congrArg assigned (fop_packK _ _ _ _ _ _ _ _)).trans rfl
theorem Opcode.dbnd (d : BitVec 4) (a : BitVec 4) (g : BitVec 3) (l : BitVec 4) : Opcode.Statement (.dbnd d a g l) := fun _ => (congrArg assigned (fop_packK _ _ _ _ _ _ _ _)).trans rfl
theorem Opcode.hstar (d : BitVec 4) (a : BitVec 4) (g : BitVec 3) (l : BitVec 4) : Opcode.Statement (.hstar d a g l) := fun _ => (congrArg assigned (fop_packK _ _ _ _ _ _ _ _)).trans rfl
theorem Opcode.hstari (d : BitVec 4) (a : BitVec 4) (g : BitVec 3) (l : BitVec 4) : Opcode.Statement (.hstari d a g l) := fun _ => (congrArg assigned (fop_packK _ _ _ _ _ _ _ _)).trans rfl
theorem Opcode.wedge (d : BitVec 4) (a : BitVec 4) (b : BitVec 4) (g : BitVec 3) (l : BitVec 4) : Opcode.Statement (.wedge d a b g l) := fun _ => (congrArg assigned (fop_packK _ _ _ _ _ _ _ _)).trans rfl
theorem Opcode.interp (d : BitVec 4) (a : BitVec 4) (b : BitVec 4) (g : BitVec 3) (l : BitVec 4) : Opcode.Statement (.interp d a b g l) := fun _ => (congrArg assigned (fop_packK _ _ _ _ _ _ _ _)).trans rfl
theorem Opcode.prolong (d : BitVec 4) (a : BitVec 4) (g : BitVec 3) (l : BitVec 4) : Opcode.Statement (.prolong d a g l) := fun _ => (congrArg assigned (fop_packK _ _ _ _ _ _ _ _)).trans rfl
theorem Opcode.gathi (d : BitVec 4) (a : BitVec 4) (b : BitVec 4) (g : BitVec 3) (l : BitVec 4) : Opcode.Statement (.gathi d a b g l) := fun _ => (congrArg assigned (fop_packK _ _ _ _ _ _ _ _)).trans rfl
theorem Opcode.scati (d : BitVec 4) (a : BitVec 4) (b : BitVec 4) (g : BitVec 3) (l : BitVec 4) : Opcode.Statement (.scati d a b g l) := fun _ => (congrArg assigned (fop_packK _ _ _ _ _ _ _ _)).trans rfl
theorem Opcode.cload (d : BitVec 5) (a : BitVec 5) (l : BitVec 4) : Opcode.Statement (.cload d a l) := fun _ => (congrArg assigned (fop_packR _ _ _ _ _ _)).trans rfl
theorem Opcode.cdrop (a : BitVec 5) (l : BitVec 4) : Opcode.Statement (.cdrop a l) := fun _ => (congrArg assigned (fop_packR _ _ _ _ _ _)).trans rfl
theorem Opcode.cquery (d : BitVec 5) (a : BitVec 5) (b : BitVec 5) (l : BitVec 4) : Opcode.Statement (.cquery d a b l) := fun _ => (congrArg assigned (fop_packR _ _ _ _ _ _)).trans rfl
theorem Opcode.cref (d : BitVec 5) (a : BitVec 5) (l : BitVec 4) : Opcode.Statement (.cref d a l) := fun _ => (congrArg assigned (fop_packR _ _ _ _ _ _)).trans rfl
theorem Opcode.tracq (d : BitVec 5) (l : BitVec 4) : Opcode.Statement (.tracq d l) := fun _ => (congrArg assigned (fop_packR _ _ _ _ _ _)).trans rfl
theorem Opcode.trrel (l : BitVec 4) : Opcode.Statement (.trrel l) := fun _ => (congrArg assigned (fop_packR _ _ _ _ _ _)).trans rfl
theorem Opcode.trload (a : BitVec 5) (b : BitVec 5) (l : BitVec 4) : Opcode.Statement (.trload a b l) := fun _ => (congrArg assigned (fop_packR _ _ _ _ _ _)).trans rfl
theorem Opcode.trset (a : BitVec 5) (b : BitVec 5) (l : BitVec 4) : Opcode.Statement (.trset a b l) := fun _ => (congrArg assigned (fop_packR _ _ _ _ _ _)).trans rfl
theorem Opcode.trgo (d : BitVec 5) (l : BitVec 4) : Opcode.Statement (.trgo d l) := fun _ => (congrArg assigned (fop_packR _ _ _ _ _ _)).trans rfl
theorem Opcode.trget (a : BitVec 5) (b : BitVec 5) (l : BitVec 4) : Opcode.Statement (.trget a b l) := fun _ => (congrArg assigned (fop_packR _ _ _ _ _ _)).trans rfl
theorem Opcode.trrst (l : BitVec 4) : Opcode.Statement (.trrst l) := fun _ => (congrArg assigned (fop_packR _ _ _ _ _ _)).trans rfl
theorem Opcode.mint (d : BitVec 5) (a : BitVec 5) (b : BitVec 5) : Opcode.Statement (.mint d a b) := fun _ => (congrArg assigned (fop_packR _ _ _ _ _ _)).trans rfl
theorem Opcode.mintk (a : BitVec 5) : Opcode.Statement (.mintk a) := fun _ => (congrArg assigned (fop_packR _ _ _ _ _ _)).trans rfl
theorem Opcode.mod (t : BitVec 1) (k : BitVec 1) (a : BitVec 1) (n : BitVec 1) (b : BitVec 1) (m : BitVec 1) (e : BitVec 6) (r : BitVec 5) : Opcode.Statement (.mod t k a n b m e r) := fun _ => (congrArg assigned (fop_packMod _ _ _ _ _ _ _ _)).trans rfl
theorem Opcode.hnop (d : BitVec 5) (a : BitVec 5) (b : BitVec 5) (l : BitVec 4) : Opcode.Statement (.hnop d a b l) := fun _ => (congrArg assigned (fop_packR _ _ _ _ _ _)).trans rfl
theorem Opcode.prefl (d : BitVec 5) (a : BitVec 5) (b : BitVec 5) (l : BitVec 4) : Opcode.Statement (.prefl d a b l) := fun _ => (congrArg assigned (fop_packR _ _ _ _ _ _)).trans rfl
theorem Opcode.prefd (d : BitVec 5) (a : BitVec 5) (b : BitVec 5) (l : BitVec 4) : Opcode.Statement (.prefd d a b l) := fun _ => (congrArg assigned (fop_packR _ _ _ _ _ _)).trans rfl
theorem Opcode.spinh (d : BitVec 5) (a : BitVec 5) (b : BitVec 5) (l : BitVec 4) : Opcode.Statement (.spinh d a b l) := fun _ => (congrArg assigned (fop_packR _ _ _ _ _ _)).trans rfl
theorem Opcode.longLatencyComplete (q l : Nat) : Opcode.Statement (.longLatencyComplete q l) := fun h => Bool.noConfusion h
theorem Opcode.coreWaitEnd (q l : Nat) : Opcode.Statement (.coreWaitEnd q l) := fun h => Bool.noConfusion h
theorem Opcode.contextCreate (slot link : Nat) : Opcode.Statement (.contextCreate slot link) := fun h => Bool.noConfusion h
theorem Opcode.contextDestroy (slot : Nat) : Opcode.Statement (.contextDestroy slot) := fun h => Bool.noConfusion h
theorem Opcode.queueNotify (q tail : Nat) : Opcode.Statement (.queueNotify q tail) := fun h => Bool.noConfusion h
theorem Opcode.queueErrClear (q : Nat) : Opcode.Statement (.queueErrClear q) := fun h => Bool.noConfusion h
theorem Opcode.launchRecord (q : Nat) : Opcode.Statement (.launchRecord q) := fun h => Bool.noConfusion h
theorem Opcode.publishRecord (q : Nat) : Opcode.Statement (.publishRecord q) := fun h => Bool.noConfusion h
theorem Opcode.nopRecord (q : Nat) : Opcode.Statement (.nopRecord q) := fun h => Bool.noConfusion h
theorem Opcode.publisherServe (slot : Nat) : Opcode.Statement (.publisherServe slot) := fun h => Bool.noConfusion h
theorem Opcode.launchPlacement (q : Nat) (x y : List Nat) : Opcode.Statement (.launchPlacement q x y) := fun h => Bool.noConfusion h
theorem Opcode.wakeFlit (q x y : Nat) : Opcode.Statement (.wakeFlit q x y) := fun h => Bool.noConfusion h
theorem Opcode.queueQuantumEnd : Opcode.Statement .queueQuantumEnd := fun h => Bool.noConfusion h
theorem Opcode.launchRetirement (q : Nat) : Opcode.Statement (.launchRetirement q) := fun h => Bool.noConfusion h
theorem Opcode.tlbinv (slot : Nat) (w : W64) : Opcode.Statement (.tlbinv slot w) := fun h => Bool.noConfusion h
theorem Opcode.tlbinvDone (slot : Nat) : Opcode.Statement (.tlbinvDone slot) := fun h => Bool.noConfusion h
theorem Opcode.hcmdResume (slot : Nat) (w : W64) : Opcode.Statement (.hcmdResume slot w) := fun h => Bool.noConfusion h
theorem Opcode.hcmdSkip (slot : Nat) (w : W64) : Opcode.Statement (.hcmdSkip slot w) := fun h => Bool.noConfusion h
theorem Opcode.hcmdKill (slot : Nat) (w : W64) : Opcode.Statement (.hcmdKill slot w) := fun h => Bool.noConfusion h
theorem Opcode.hcmdAbt (slot : Nat) (w : W64) : Opcode.Statement (.hcmdAbt slot w) := fun h => Bool.noConfusion h
theorem Opcode.frheadWrite (slot : Nat) (w : W64) : Opcode.Statement (.frheadWrite slot w) := fun h => Bool.noConfusion h
theorem Opcode.faultRecordDelivery : Opcode.Statement .faultRecordDelivery := fun h => Bool.noConfusion h
theorem Opcode.readbackCoreImage (slot : Nat) (w : W64) : Opcode.Statement (.readbackCoreImage slot w) := fun h => Bool.noConfusion h
theorem Opcode.readbackRaceArray (slot : Nat) (w : W64) : Opcode.Statement (.readbackRaceArray slot w) := fun h => Bool.noConfusion h
theorem Opcode.readbackTellerFlush (slot : Nat) (w : W64) : Opcode.Statement (.readbackTellerFlush slot w) := fun h => Bool.noConfusion h
theorem Opcode.mctpRead8 (h : MctpHead) (off : List Byte) : Opcode.Statement (.mctpRead8 h off) := fun h => Bool.noConfusion h
theorem Opcode.mctpWrite8 (h : MctpHead) (off data : List Byte) : Opcode.Statement (.mctpWrite8 h off data) := fun h => Bool.noConfusion h
theorem Opcode.freeze (h : MctpHead) (addr len : List Byte) : Opcode.Statement (.freeze h addr len) := fun h => Bool.noConfusion h
theorem Opcode.attest (h : MctpHead) (nonce : List Byte) : Opcode.Statement (.attest h nonce) := fun h => Bool.noConfusion h
theorem Opcode.bootstLoad : Opcode.Statement .bootstLoad := fun h => Bool.noConfusion h
theorem Opcode.ramptelClear : Opcode.Statement .ramptelClear := fun h => Bool.noConfusion h
theorem Opcode.lnkstatClear (side pos : Nat) : Opcode.Statement (.lnkstatClear side pos) := fun h => Bool.noConfusion h
theorem Opcode.registerWrite (bar off : Nat) (w : Option W64) : Opcode.Statement (.registerWrite bar off w) := fun h => Bool.noConfusion h
theorem Opcode.powerControlTick (avg peak : BitVec 16) : Opcode.Statement (.powerControlTick avg peak) := fun h => Bool.noConfusion h
theorem Opcode.coolantHot (temp flow : Byte) : Opcode.Statement (.coolantHot temp flow) := fun h => Bool.noConfusion h
theorem Opcode.coolantRecover (temp flow : Byte) : Opcode.Statement (.coolantRecover temp flow) := fun h => Bool.noConfusion h
theorem Opcode.resetBoot (image : List Byte) (train : Bool) (gd cx : Nat) (w : W64) : Opcode.Statement (.resetBoot image train gd cx w) := fun h => Bool.noConfusion h
theorem Opcode.patrolScrub (die : Nat) (who : ErrRead) (loc : ErrLoc) (err : Nat) : Opcode.Statement (.patrolScrub die who loc err) := fun h => Bool.noConfusion h
theorem Opcode.laneTraining (side pos : Nat) (pol : Bool) (rev : Option Bool) : Opcode.Statement (.laneTraining side pos pol rev) := fun h => Bool.noConfusion h
theorem Opcode.laneTrainingTimeout (side pos : Nat) : Opcode.Statement (.laneTrainingTimeout side pos) := fun h => Bool.noConfusion h
theorem Opcode.laneDown (side pos : Nat) : Opcode.Statement (.laneDown side pos) := fun h => Bool.noConfusion h
theorem Opcode.edgeFrameReceive (side pos sym again : Nat) (f : LinkFrame) : Opcode.Statement (.edgeFrameReceive side pos sym again f) := fun h => Bool.noConfusion h
theorem Opcode.routerCycle (r : Nat × Nat) (lost : List Nat) : Opcode.Statement (.routerCycle r lost) := fun h => Bool.noConfusion h
theorem Opcode.readRequestFlit (r : FabricReq) : Opcode.Statement (.readRequestFlit r) := fun h => Bool.noConfusion h
theorem Opcode.writeRequestFlit (r : FabricReq) (data : List Byte) (full : Bool) : Opcode.Statement (.writeRequestFlit r data full) := fun h => Bool.noConfusion h
theorem Opcode.atomicRequestFlit (r : FabricReq) (op : Nat) (x y : W64) (origin : BitVec 58) : Opcode.Statement (.atomicRequestFlit r op x y origin) := fun h => Bool.noConfusion h
theorem Opcode.readReplyFlit (inc : BitVec 4) (tag : BitVec 12) (ws : List W64) : Opcode.Statement (.readReplyFlit inc tag ws) := fun h => Bool.noConfusion h
theorem Opcode.writeAckFlit (inc : BitVec 4) (tag : BitVec 12) (w : W64) : Opcode.Statement (.writeAckFlit inc tag w) := fun h => Bool.noConfusion h
theorem Opcode.atomicReplyFlit (inc : BitVec 4) (tag : BitVec 12) (w v : W64) : Opcode.Statement (.atomicReplyFlit inc tag w v) := fun h => Bool.noConfusion h
theorem Opcode.nackFlit (inc : BitVec 4) (tag : BitVec 12) (code : BitVec 4) : Opcode.Statement (.nackFlit inc tag code) := fun h => Bool.noConfusion h
theorem Opcode.messageFlit (r : FabricReq) (mtag : BitVec 16) (lcn : BitVec 26) (x y : W64) : Opcode.Statement (.messageFlit r mtag lcn x y) := fun h => Bool.noConfusion h
theorem Opcode.copyDataFlit (f : FlitHead) (core addr : Nat) (w : W64) (mask : Byte) : Opcode.Statement (.copyDataFlit f core addr w mask) := fun h => Bool.noConfusion h
theorem Opcode.timeBeacon (w : W64) : Opcode.Statement (.timeBeacon w) := fun h => Bool.noConfusion h
theorem Opcode.remoteCompletionFlag (f : FlitHead) (core addr : Nat) (w : W64) : Opcode.Statement (.remoteCompletionFlag f core addr w) := fun h => Bool.noConfusion h
theorem Opcode.moduleMarkedDown (pkg : Nat) : Opcode.Statement (.moduleMarkedDown pkg) := fun h => Bool.noConfusion h
theorem Opcode.tellerAccept (yard : Nat) : Opcode.Statement (.tellerAccept yard) := fun h => Bool.noConfusion h
theorem Opcode.tellerExecute (yard : Nat) : Opcode.Statement (.tellerExecute yard) := fun h => Bool.noConfusion h
theorem Opcode.copyRequestStart (q l : Nat) : Opcode.Statement (.copyRequestStart q l) := fun h => Bool.noConfusion h
theorem Opcode.copyBeat (yard : Nat) : Opcode.Statement (.copyBeat yard) := fun h => Bool.noConfusion h
theorem Opcode.copyFlagPost (q l : Nat) : Opcode.Statement (.copyFlagPost q l) := fun h => Bool.noConfusion h
theorem Opcode.matrixCommandStart (q l : Nat) : Opcode.Statement (.matrixCommandStart q l) := fun h => Bool.noConfusion h
theorem Opcode.matrixKStep (q l : Nat) : Opcode.Statement (.matrixKStep q l) := fun h => Bool.noConfusion h
theorem Opcode.matrixCommandComplete (q l : Nat) : Opcode.Statement (.matrixCommandComplete q l) := fun h => Bool.noConfusion h
theorem Opcode.rampWindowBoundary : Opcode.Statement .rampWindowBoundary := fun h => Bool.noConfusion h
theorem Opcode.cochainArbitrate (stable : Nat) : Opcode.Statement (.cochainArbitrate stable) := fun h => Bool.noConfusion h
theorem Opcode.cochainComplete (q l : Nat) : Opcode.Statement (.cochainComplete q l) := fun h => Bool.noConfusion h
theorem Opcode.streamFetch (q l n : Nat) : Opcode.Statement (.streamFetch q l n) := fun h => Bool.noConfusion h
theorem Opcode.streamElementWrite (q l n : Nat) : Opcode.Statement (.streamElementWrite q l n) := fun h => Bool.noConfusion h
theorem Opcode.stealProbe (c : Nat × Nat) (side : FarSteal) : Opcode.Statement (.stealProbe c side) := fun h => Bool.noConfusion h
theorem Opcode.writeSetReturn (c : Nat × Nat) (back : Option FarReturn) : Opcode.Statement (.writeSetReturn c back) := fun h => Bool.noConfusion h
theorem Opcode.episodeComplete (q level dom : Nat) (far : List RemoteArrival) : Opcode.Statement (.episodeComplete q level dom far) := fun h => Bool.noConfusion h
theorem Opcode.dpostServe (die : Nat) : Opcode.Statement (.dpostServe die) := fun h => Bool.noConfusion h
theorem Opcode.calendarCompute (q : Nat) (far : List DemandRec) (ready : List W64) : Opcode.Statement (.calendarCompute q far ready) := fun h => Bool.noConfusion h
theorem Opcode.standbyCalendarSend (q : Nat) : Opcode.Statement (.standbyCalendarSend q) := fun h => Bool.noConfusion h
theorem Opcode.calendarTake (q : Nat) (standby : Bool) (cal : List W64) : Opcode.Statement (.calendarTake q standby cal) := fun h => Bool.noConfusion h
theorem Opcode.circuitPhaseStart (q i : Nat) : Opcode.Statement (.circuitPhaseStart q i) := fun h => Bool.noConfusion h
theorem Opcode.circuitSendEnd (q i : Nat) : Opcode.Statement (.circuitSendEnd q i) := fun h => Bool.noConfusion h
theorem Opcode.circuitPhaseEnd (q i : Nat) : Opcode.Statement (.circuitPhaseEnd q i) := fun h => Bool.noConfusion h
theorem Opcode.residueSend (q : Nat) : Opcode.Statement (.residueSend q) := fun h => Bool.noConfusion h
theorem Opcode.exchangeComplete (q : Nat) (far : List Nat) : Opcode.Statement (.exchangeComplete q far) := fun h => Bool.noConfusion h
theorem Opcode.preemptionSave (q l : Nat) : Opcode.Statement (.preemptionSave q l) := fun h => Bool.noConfusion h
theorem Opcode.restoration (q l pcid : Nat) : Opcode.Statement (.restoration q l pcid) := fun h => Bool.noConfusion h
theorem Opcode.gangWaitTimeout (q l : Nat) : Opcode.Statement (.gangWaitTimeout q l) := fun h => Bool.noConfusion h
theorem Opcode.gangDetach (q l why : Nat) : Opcode.Statement (.gangDetach q l why) := fun h => Bool.noConfusion h
theorem Opcode.illegalInstruction (w : W32) : Opcode.Statement (.illegalInstruction w) := fun h => Bool.noConfusion h
theorem Opcode.fetchFault : Opcode.Statement .fetchFault := fun h => Bool.noConfusion h
theorem Opcode.hostDeviceMemoryAccess (link : Nat) (op : HostOp) (addr len : Nat) (data : List Byte) : Opcode.Statement (.hostDeviceMemoryAccess link op addr len data) := fun h => Bool.noConfusion h
theorem Opcode.moduleRejoin (pkg : Nat) (inc : BitVec 4) : Opcode.Statement (.moduleRejoin pkg inc) := fun h => Bool.noConfusion h
theorem Opcode.hostLinkError (q l : Nat) (e : LinkErr) : Opcode.Statement (.hostLinkError q l e) := fun h => Bool.noConfusion h
theorem Opcode.pwrnowRead : Opcode.Statement .pwrnowRead := fun h => Bool.noConfusion h
theorem Opcode.powerDown : Opcode.Statement .powerDown := fun h => Bool.noConfusion h

end Sys2Proof.Laws
end

