-- ==== Sys2Proof/Laws/Place.lean ====
section
/-!
SUPPORT. Where the physical cores of this module lie (R71).
-/
namespace Sys2Proof.Machine

theorem pkgX_lt : Config.pkgX < 4096 := by
  have hx : Config.siteX % Config.MX < Config.MX := Nat.mod_lt _ (Nat.succ_pos _)
  have hy : Config.siteY % Config.MY < Config.MY := Nat.mod_lt _ (Nat.succ_pos _)
  have hX : Config.MX ≤ 64 := by unfold Config.MX; omega
  have hY : Config.MY ≤ 64 := by unfold Config.MY; omega
  unfold Config.pkgX
  omega

/-- The package id of physical core n of this module. -/
theorem pcPkg_here (n : Nat) (h : n < 2 ^ 14) : pcPkg (Config.pkgX * 2 ^ 14 + n) = Config.pkgX := by
  have := pkgX_lt
  unfold pcPkg fld
  omega

/-- Its router and core depend on n alone. -/
theorem pcStable_here (n : Nat) : pcStable (Config.pkgX * 2 ^ 14 + n) = pcStable n := by
  unfold pcStable pcRx pcRy fld
  omega

theorem pcCore_here (n : Nat) : (Config.pkgX * 2 ^ 14 + n) % 4 = n % 4 := by omega

end Sys2Proof.Machine
end

