-- ==== Sys2Proof/Laws/Save.lean ====
section
/-!
SUPPORT. Walks that read the same entries, and what the save sequencer does with one page of a record (R197, R383).
-/
namespace Sys2Proof.Machine

/-- A walk depends on three entries (R197). -/
theorem walk_congr (s t : State) (root va : Nat) (h1 : t.pteAt root (fld va 43 13) = s.pteAt root (fld va 43 13))
    (h2 : ∀ e1, s.pteAt root (fld va 43 13) = .ok e1 → t.pteAt (bf e1 17 29 * 2 ^ 17) (fld va 30 13) = s.pteAt (bf e1 17 29 * 2 ^ 17) (fld va 30 13))
    (h3 : ∀ e1 e2, s.pteAt root (fld va 43 13) = .ok e1 → s.pteAt (bf e1 17 29 * 2 ^ 17) (fld va 30 13) = .ok e2 →
      t.pteAt (bf e2 17 29 * 2 ^ 17) (fld va 17 13) = s.pteAt (bf e2 17 29 * 2 ^ 17) (fld va 17 13)) :
    t.walkVia none none root va = s.walkVia none none root va := by
  unfold State.walkVia
  simp only [h1]
  cases g1 : s.pteAt root (fld va 43 13) with
  | error r => rfl
  | ok e1 =>
    simp only [h2 e1 g1]
    cases g2 : s.pteAt (bf e1 17 29 * 2 ^ 17) (fld va 30 13) with
    | error r => rfl
    | ok e2 => simp only [h3 e1 e2 g1 g2]

/-- An entry depends on its bytes and on the words that cannot be corrected. -/
theorem pteAt_congr (s t : State) (table idx : Nat) (hb : t.bad = s.bad)
    (h : ∀ a, table + 8 * idx ≤ a → a < table + 8 * idx + 8 → Memory.get t.mem a = Memory.get s.mem a) :
    t.pteAt table idx = s.pteAt table idx := by
  unfold State.pteAt
  simp only [hb, Memory.num_congr _ _ _ _ h]

/-- The bytes of page j of an image, as offsets in the page. -/
def pageOf (img : List Host.Cell) (j : Nat) : List Host.Cell :=
  (img.filter fun e => decide (0x20000 * j ≤ e.1) && decide (e.1 < 0x20000 * (j + 1))).map fun e => (e.1 - 0x20000 * j, e.2)

/-- A page of a record that lies in module memory is replaced (R383). -/
theorem savePage_mem (s t : State) (base j a k : Nat) (img : List Host.Cell) (hw : base + 0x20000 * j < winBase)
    (h : s.paged false .store (base + 0x20000 * j) = .ok (.mem a k, t)) :
    s.savePage base j img = .ok { t with mem := pageFill t.mem a (pageOf img j) } := by
  unfold State.savePage pageOf
  simp only [if_neg (Nat.not_le.2 hw), h]

/-- Filling a page leaves every byte below it alone. -/
theorem pageFill_below (m : Memory) (a b : Nat) (cs : List Host.Cell) (h : b < a) : Memory.get (pageFill m a cs) b = Memory.get m b := by
  unfold pageFill
  rw [Memory.get_overlay_below _ _ _ _ h, Memory.get_clear_of_outside _ _ _ _ (Or.inl h)]

theorem wf_pageFill (m : Memory) (a : Nat) (cs : List Host.Cell) (h : Memory.wf m = true) : Memory.wf (pageFill m a cs) = true :=
  Memory.wf_overlay _ _ _ (Memory.wf_clear _ _ _ h)

end Sys2Proof.Machine
end

