-- ==== Sys2Proof/Tests/Slice0.lean ====
section
/-!
SUPPORT. Tests: ill-formed terms, words written out from the encodings of the spec, single steps with results worked out by hand from the spec's
rules, and for each statement with hypotheses the states that meet them.
-/
namespace Sys2Proof.Tests

open Sys2Proof Sys2Proof.Machine

-- One theorem after the other: a kernel evaluation waits for all that stands before it, and each wait takes a thread.
set_option Elab.async false

/-! ### Helpers -/

/-- The state after reset with a core that runs, in a launch of 4 cores, changed by `f`. -/
def on (f : Machine.Core → Machine.Core) : State := { State.reset with core := f { Machine.Core.reset with st := .running, ncores := 4 } }

/-- The core with registers set. -/
def regs (l : List (SReg × W64)) (c : Machine.Core) : Machine.Core := l.foldl (fun c e => c.wr e.1 e.2) c

/-- What an outcome gives of its next state; `d` where there is none. -/
def outOf {α : Type} (d : α) (o : Out) (f : State → α) : α := match o with | .next t => f t | _ => d

/-- The register that an instruction leaves. -/
def res (i : Instr) (l : List (SReg × W64)) (r : SReg) : W64 := outOf 0xDEAD (exec i (on (regs l))) (·.rd r)

/-! ### Ill-formed terms, one for each check of WellFormed -/

theorem test_illformed_words :
    WellFormed (.crr 1 0 12) = false ∧ WellFormed (.crw 0 1 0) = false ∧ WellFormed (.crs 0 1 0x18) = false ∧ WellFormed (.crc 31 1 31) = false ∧
    WellFormed (.redget 0 1 1 0 0) = false ∧ WellFormed (.send 1 0 1) = false ∧ WellFormed (.recv 15) = false ∧ WellFormed (.recvp 0) = false ∧
    WellFormed (.tkpop 0) = false ∧ WellFormed (.bar 6) = false ∧ WellFormed (.vote 1 1 0 7) = false ∧ WellFormed (.phase 6) = false ∧
    WellFormed (.fence 0 3 0) = false ∧ WellFormed (.cpy 1 0 0) = false ∧ WellFormed (.cpynb 1 6 0) = false ∧ WellFormed (.gather 1 7 0) = false ∧
    WellFormed (.scatter 1 0 0) = false ∧ WellFormed (.dispatch 1 6 0) = false ∧ WellFormed (.combine 1 0 0) = false ∧
    WellFormed (.vgete 1 0 0 0) = false ∧ WellFormed (.vpute 1 0 0 0) = false ∧ WellFormed (.vmaxr 1 0 0 0) = false ∧
    WellFormed (.vminr 1 0 0 0) = false ∧ WellFormed (.kdef 1 0 0 0) = false ∧ WellFormed (.kget 1 0 0 0) = false ∧
    WellFormed (.mod 0 1 0 0 0 0 0 11) = false ∧ WellFormed (.mod 0 0 0 0 0 0 0 10) = false := by decide

theorem test_illformed_events :
    WellFormed (.longLatencyComplete 1024 0) = false ∧ WellFormed (.coreWaitEnd 0 67108864) = false ∧ WellFormed (.contextCreate 256 0) = false ∧
    WellFormed (.queueNotify 1024 0) = false ∧ WellFormed (.publisherServe 256) = false ∧ WellFormed (.patrolScrub 8 .gddr (.mem 3 0) 0) = false ∧
    WellFormed (.moduleMarkedDown 4096) = false ∧ WellFormed (.tellerAccept 256) = false ∧ WellFormed (.cochainArbitrate 4096) = false ∧
    WellFormed (.dpostServe 8) = false ∧ WellFormed (.copyBeat 256) = false ∧ WellFormed (.moduleRejoin 4096 0) = false := by decide

/-! ### Words written out from the encodings (R113, R115, R130, and the examples that the rules give) -/

theorem test_decode_scalar :
    decode 0x64A68022 = .ok (.ldw 5 6 2 2) ∧ decode 0x00002810 = .ok (.brk 5) ∧ decode 0x00E05020 = .ok (.crr 7 0 10) ∧
    decode 0x0016B030 = .ok (.crw 0 22 22) ∧ decode 0x00A63860 = .ok (.publish 5 6 7) ∧ decode 0x3085FFFD = .ok (.beq 4 5 0xFFFD) ∧
    decode 0x4A600002 = .ok (.bpf 3 2) ∧ decode 0x54010000 = .ok (.jalr 0 1 0) ∧ decode 0x58900003 = .ok (.rpt 2 1 0 0 3) ∧
    decode 0x60642851 = .ok (.fmac 3 4 5 1) ∧ decode 0x70642C00 = .ok (.amoadd 3 4 5 2 0) ∧ decode 0xACA40000 = .ok (.mint 5 4 0) ∧
    decode 0xFB4F5400 = .ok (.mod 1 1 0 1 0 0 0x3D 10) := by decide +kernel

theorem test_decode_units :
    decode 0x746A6000 = .ok (.send 3 5 12) ∧ decode 0x76800010 = .ok (.recv 10) ∧ decode 0x78050030 = .ok (.gang 5) ∧ decode 0x78000040 = .ok .ungang ∧
    decode 0x78000020 = .ok .tkdone ∧ decode 0x7C050000 = .ok (.bar 5) ∧ decode 0x7C030050 = .ok (.waitt 0 3) ∧ decode 0x80640000 = .ok (.cpy 3 1 0) ∧
    decode 0x847CF010 = .ok (.xchg 3 28 30 0) ∧ decode 0x84640020 = .ok (.calq 3 4 0) ∧ decode 0x8419E800 = .ok (.dpost 25 29 0) ∧
    decode 0x8B000000 = .ok (.sbind 0) ∧ decode 0x8C640020 = .ok (.mxwait 3 4 0) ∧ decode 0xA8600000 = .ok (.tracq 3 0) ∧
    decode 0xA8042820 = .ok (.trload 4 5 0) := by decide +kernel

theorem test_decode_cochain :
    decode 0x91004000 = .ok (.vadd 4 0 1 0 0) ∧ decode 0x9108C600 = .ok (.vfma 4 2 3 0 0) ∧ decode 0x95500600 = .ok (.vcvt 5 4 0 0) ∧
    decode 0x99850D00 = .ok (.topk 6 1 8 0 0) ∧ decode 0x99D90E00 = .ok (.cmpr48 7 6 8 0 0) ∧ decode 0x980DE900 = .ok (.vsum 3 15 0 0) ∧
    decode 0x9C020000 = .ok (.kdef 0 8 0 0) ∧ decode 0x9C424300 = .ok (.kset 1 0 18 0 0) ∧ decode 0x9C0D4200 = .ok (.kget 3 5 0 0) ∧
    decode 0xA1000000 = .ok (.dext 4 0 0 0) ∧ decode 0xA1500200 = .ok (.hstar 5 4 0 0) ∧ decode 0xA0C48400 = .ok (.wedge 3 1 2 0 0) ∧
    decode 0xA4640000 = .ok (.cload 3 4 0) ∧ decode 0xA4640030 = .ok (.cref 3 4 0) := by decide +kernel

/-- R129: a reserved major opcode, a reserved function code, a field that is not zero, a la on an instruction that is not long-latency, a register
limit, an unknown control register. -/
theorem test_decode_refused :
    decode 0xBC000000 = .error 1 ∧ decode 0x04000240 = .error 2 ∧ decode 0x00200000 = .error 3 ∧ decode 0x00000001 = .error 4 ∧
    decode 0x80600000 = .error 6 ∧ decode 0x00E06020 = .error 7 := by decide +kernel

/-- Every constructor with a word decodes from its own encoding, at one value of every operand. -/
theorem test_encode_examples :
    (([.nop, .crs 0 1 19, .crc 0 2 20, .add 1 2 3, .csel 4 5 6, .mul 1 2 3 4, .divu 7 8 9 15, .bswap 1 2, .slli 1 2 63, .rori 3 4 5, .lui 6 0x8000,
      .insh 1 2 3, .ceq 7 1 2, .pandn 1 2 3, .ptos 4 5, .sbitp 1 2 3, .fcun 2 3 4, .bpt 6 0xFFFF, .j 0x2000000, .jal 0x1FFFFFF, .rptr 0 1 2 3 9,
      .fcvtE5S 1 2 3, .std 1 2 0x1FF 0, .st64 3 2 1 0, .stfl 1 2 3 4, .feclr 6 0x100 7, .amoxor 1 2 3 3 1, .redget 15 2 3 0 1, .sev 1 2, .wfe 3 4,
      .tkpush 1 2 3, .tkpop 15, .vote 1 2 3 5, .phase 0, .fence 1 2 1, .cfence, .gather 1 5 0, .cpyq 3 0, .sfree 7, .sstat 9 6, .accrd 15 2 3 0,
      .mxseq 4 0] : List Instr).all fun i => decode (encode i) = .ok i) = true := by decide +kernel

/-! ### Single steps: results worked out from the rules -/

/-- R139's own examples. -/
theorem test_division :
    res (.div 1 2 3 0) [(2, 7), (3, -2)] 1 = -3 ∧ res (.rem 1 2 3 0) [(2, 7), (3, -2)] 1 = 1 ∧ res (.div 1 2 3 0) [(2, -7), (3, 2)] 1 = -3 ∧
    res (.rem 1 2 3 0) [(2, -7), (3, 2)] 1 = -1 ∧ res (.divu 1 2 3 0) [(2, 7)] 1 = -1 ∧ res (.remu 1 2 3 0) [(2, 7)] 1 = 7 ∧
    res (.div 1 2 3 0) [(2, 0x8000000000000000), (3, -1)] 1 = 0x8000000000000000 ∧
    res (.rem 1 2 3 0) [(2, 0x8000000000000000), (3, -1)] 1 = 0 := by decide +kernel

/-- R106's test vectors. -/
theorem test_mint :
    res (.mint 5 4 6) [(4, 0x61C8864680B583EB)] 5 = 0xA4FA7DA39D731F3B ∧
    res (.mint 5 4 6) [(4, 0x61C8864680B583EB), (6, 1)] 5 = 0x4900678ADFFD506F := by decide +kernel

/-- R137's table: wraps, sign changes, a shift count of 64 (which is 0), a source that is the destination. -/
theorem test_integer :
    res (.add 1 1 1) [(1, 0x8000000000000000)] 1 = 0 ∧ res (.sub 1 2 3) [(3, 1)] 1 = -1 ∧ res (.andn 1 2 3) [(2, 0xFF), (3, 0x0F)] 1 = 0xF0 ∧
    res (.orn 1 2 3) [(3, -2)] 1 = 1 ∧ res (.sll 1 2 3) [(2, 5), (3, 64)] 1 = 5 ∧ res (.sra 1 2 3) [(2, -16), (3, 2)] 1 = -4 ∧
    res (.srl 1 2 3) [(2, -1), (3, 63)] 1 = 1 ∧ res (.ror 1 2 3) [(2, 1), (3, 1)] 1 = 0x8000000000000000 ∧
    res (.rol 1 2 3) [(2, 0x8000000000000000), (3, 1)] 1 = 1 ∧ res (.slt 1 2 3) [(2, -1)] 1 = 1 ∧ res (.sltu 1 2 3) [(2, -1)] 1 = 0 ∧
    res (.max 1 2 3) [(2, -1), (3, 1)] 1 = 1 ∧ res (.maxu 1 2 3) [(2, -1), (3, 1)] 1 = -1 ∧ res (.mulh 1 2 3 0) [(2, -1), (3, 1)] 1 = -1 ∧
    res (.mulhu 1 2 3 0) [(2, -1), (3, 2)] 1 = 1 := by decide +kernel

theorem test_bits :
    res (.clz 1 2) [] 1 = 64 ∧ res (.clz 1 2) [(2, 1)] 1 = 63 ∧ res (.ctz 1 2) [(2, 0x100)] 1 = 8 ∧ res (.ctz 1 2) [] 1 = 64 ∧
    res (.popc 1 2) [(2, -1)] 1 = 64 ∧ res (.bswap 1 2) [(2, 0x0102030405060708)] 1 = 0x0807060504030201 ∧ res (.sextb 1 2) [(2, 0x180)] 1 = -128 ∧
    res (.zexth 1 2) [(2, -1)] 1 = 0xFFFF ∧ res (.csel 1 2 3) [(1, 7), (3, 9)] 1 = 7 ∧ res (.csel 1 2 3) [(1, 7), (2, 1), (3, 9)] 1 = 9 := by
  decide +kernel

/-- R142, R143. -/
theorem test_immediates :
    res (.addi 1 2 0xFFFF) [] 1 = -1 ∧ res (.ori 1 2 0xFFFF) [] 1 = 0xFFFF ∧ res (.sltiu 1 2 0xFFFF) [] 1 = 1 ∧ res (.lui 1 0x8000) [] 1 = -0x80000000 ∧
    res (.insh 1 2 0x1234) [(2, 0xABCD)] 1 = 0xABCD1234 ∧ res (.srai 1 2 63) [(2, -5)] 1 = -1 := by decide +kernel

/-- R158's table: E4M3 under RNE, with the flags of the last row (OF and NX). -/
theorem test_e4m3 :
    res (.fcvtE4S 1 2 0) [(2, 0x43960000)] 1 = 0x79 ∧ res (.fcvtE4S 1 2 0) [(2, 0x43E60000)] 1 = 0x7E ∧ res (.fcvtE4S 1 2 0) [(2, 0x43EB0000)] 1 = 0x7F ∧
    outOf 0 (exec (.fcvtE4S 1 2 0) (on (regs [(2, 0x43EB0000)]))) (·.core.fflags) = 5 := by decide +kernel

/-- R155 to R158: 1 + 2, 1 / 3 rounded to nearest, the square root of −1 and of 4, the fused product, a saturated conversion. -/
theorem test_fp :
    res (.fadd 1 2 3 0) [(2, 0x3F800000), (3, 0x40000000)] 1 = 0x40400000 ∧ res (.fdiv 1 2 3 0) [(2, 0x3F800000), (3, 0x40400000)] 1 = 0x3EAAAAAB ∧
    res (.fsqrt 1 2 0) [(2, 0xBF800000)] 1 = 0x7FC00000 ∧ res (.fsqrt 1 2 0) [(2, 0x40800000)] 1 = 0x40000000 ∧
    res (.fmac 1 2 3 0) [(1, 0x3F800000), (2, 0x40000000), (3, 0x40400000)] 1 = 0x40E00000 ∧
    res (.fcvtWS 1 2 0) [(2, 0x4F000000)] 1 = 0x7FFFFFFF ∧ res (.fcvtSW 1 2 0) [(2, -1)] 1 = 0xBF800000 := by decide +kernel

/-- R146 to R149, R131. -/
theorem test_branches :
    outOf 0 (exec (.beq 4 5 0xFFFD) (on fun c => { c with pc := 0x100 })) (·.core.pc) = 0xF4 ∧
    outOf 0 (exec (.bltu 4 5 2) (on fun c => { c with pc := 0x100 })) (·.core.pc) = 0x104 ∧
    outOf 0 (exec (.jal 1) (on fun c => { c with pc := 0x100 })) (·.rd 1) = 0x104 ∧
    outOf (0, 0) (exec (.jalr 3 2 2) (on fun c => regs [(2, 0x200)] { c with pc := 0x100 })) (fun t => (t.core.cause, t.core.tval)) = (2, 0x202) := by
  decide +kernel

/-- R192, R206: the lowest address is the lowest byte; a store below the declared minimum, a load at it. -/
theorem test_local :
    outOf 0 (exec (.std 2 3 1 0) (on (regs [(2, 0x1122334455667788), (3, localBase)]))) (fun t => Memory.num t.core.lmem 8 1) = 0x88 ∧
    outOf 0 (exec (.ldb 1 3 0 0) (on fun c => regs [(3, localBase)] { c with lmem := [(0, 0x80)] })) (·.rd 1) = -128 ∧
    outOf 0 (exec (.ldhu 1 3 0x1FF 0) (on fun c => regs [(3, localBase + 2)] { c with lmem := [(0, 0x34), (1, 0x12)] })) (·.rd 1) = 0x1234 ∧
    outOf 1 (exec (.ldd 1 3 0 0) (on fun c => regs [(1, 5), (3, localBase)] { c with lmin := 0, lmem := [(0, 1)] })) (·.rd 1) = 0 := by decide +kernel

/-- R194, R209: an empty word, filled and read. -/
theorem test_full_empty :
    outOf .idle (exec (.ldfe 1 3 0 0) (on fun c => regs [(3, localBase)] { c with empties := [0] })) (·.core.st) = .waiting ∧
    outOf false (exec (.stfl 1 3 0 0) (on fun c => regs [(3, localBase)] { c with empties := [0] })) (·.core.fe 0) = true ∧
    outOf true (exec (.ldfe 1 3 0 0) (on fun c => regs [(3, localBase)] c)) (·.core.fe 0) = false := by decide +kernel

/-- R218: the old word comes back, the sum stays; CAS that fails. -/
theorem test_atomic :
    outOf (0, 0) (exec (.amoadd 1 2 3 0 0) (on fun c => regs [(2, localBase), (3, 5)] { c with lmem := [(0, 7)] }))
      (fun t => (t.rd 1, Memory.num t.core.lmem 0 8)) = (7, 12) ∧
    outOf (0, 0) (exec (.amocas 1 2 3 0 0) (on fun c => regs [(1, 8), (2, localBase), (3, 5)] { c with lmem := [(0, 7)] }))
      (fun t => (t.rd 1, Memory.num t.core.lmem 0 8)) = (7, 7) := by decide +kernel

/-- R387, R373: BRK stops the core, trapped. -/
theorem test_break :
    outOf (.idle, 0, 0, 0) (exec (.brk 5) (on fun c => { c with pc := 0x40 })) (fun t => (t.core.st, t.core.epc, t.core.cause, t.core.tval))
      = (.trapped, 0x40, 0x15, 5) := by decide +kernel

/-- R165, R166: the second word of a frame of two, on the last trip but one, goes back to the first. -/
theorem test_frame :
    outOf (0, none) (exec .nop (on fun c => { c with pc := 0x44, frame := some ⟨0x40, 2, 0, 1, 0, 1⟩ })) (fun t => (t.core.pc, t.core.frame))
      = (0x40, some ⟨0x40, 2, 0, 0, 1, 0⟩) := by decide +kernel

/-- R118: with la = 1 the product lands after the next word, which still reads the old value. -/
theorem test_shadow :
    (let s := on (regs [(2, 6), (3, 7)])
     outOf (0, 0, 0) (exec (.mul 1 2 3 1) s) fun t => (t.rd 1, outOf 0 (exec (.addi 4 1 1) t) (·.rd 4), outOf 0 (exec .nop t) (·.rd 1))) = (0, 1, 42) := by
  decide +kernel

/-- R115: a cochain instruction whose guard is false has no effect but completing. -/
theorem test_guard :
    outOf (0, []) (exec (.vadd 1 2 3 5 0) (on id)) (fun t => (t.core.pc, t.core.cq)) = (4, []) := by decide +kernel


/-! ### States that meet the hypotheses of the statements -/

/-- Two streams of 4 doublewords at offset 0 of the local memory: port 0 reads, with two elements buffered, and port 1 writes. -/
def ported (c : Machine.Core) : Machine.Core :=
  { c with desc := [(0, localBase), (1, 8), (2, 0x100000004), (3, 0x18), (4, localBase + 64), (5, 8), (6, 0x100000004), (7, 0x38)],
           ports := (c.ports.set 0 ⟨true, 9, 0, [11, 12], [], none⟩).set 1 ⟨true, 0, 0, [], [], none⟩ }

/-- A shadow of `len` positions after `pos` of them. -/
def shadowed (len pos : Nat) (ws : List Wr) (h : Option Trap) (c : Machine.Core) : Machine.Core :=
  { c with shadow := some ⟨0x40, 0, len, pos, 0, 0, ws, h, none, none, none, none⟩ }

/-- A sealed object at 0x1000 with these words, and the PC at its start. -/
def placed (ws : List W32) (f : Machine.Core → Machine.Core) : State :=
  { on (fun c => f { c with pc := 0x1000 }) with ctxs := [(0, { Ctx.reset with objs := [⟨0x1000, ws.length, ws⟩] })] }

def armed : Mod := ⟨0, true, false, false, false, false, false, 0, 0⟩

/-- What LDW d, a reads when it waits. -/
def retry0 : Retry := ⟨0x64A68022, Vector.replicate 32 0, [], none, 0, 0, none⟩

theorem test_wit_Retire :
    (on id).core.shadow = none ∧ (on id).core.frame = none ∧
    (let s := on fun c => { c with frame := some ⟨0x40, 2, 0, 0, 0, 0⟩ }; s.core.shadow = none ∧ s.core.frame = some ⟨0x40, 2, 0, 0, 0, 0⟩) ∧
    (let s := on fun c => { c with frame := some ⟨0x40, 2, 0, 1, 0, 0⟩ }; s.core.shadow = none ∧ s.core.frame = some ⟨0x40, 2, 0, 1, 0, 0⟩) := by
  decide +kernel

theorem test_wit_Retire_position :
    (let sh : Shadow := ⟨0x40, 0, 15, 13, 0, 0, [], none, none, none, none, none⟩; (on (shadowed 15 13 [] none)).core.shadow = some sh ∧ sh.pos + 1 < sh.len) ∧
    (let sh : Shadow := ⟨0x40, 0, 2, 1, 0, 0, [], none, none, none, none, some retry0⟩
     (on fun c => { c with shadow := some sh }).core.shadow = some sh ∧ ¬ sh.pos + 1 < sh.len ∧ sh.retry.isSome = true) ∧
    (let sh : Shadow := ⟨0x40, 0, 15, 14, 0, 0, [.s 1 5], none, none, none, none, none⟩
     let s := on (shadowed 15 14 [.s 1 5] none)
     s.core.shadow = some sh ∧ sh.len ≤ sh.pos + 1 ∧ sh.retry = none ∧ sh.held = none ∧ s.core.raw = false ∧ sh.ovf = none ∧ sh.trap = none ∧ s.core.port? 1 = none) ∧
    (let sh : Shadow := ⟨0x40, 0, 15, 14, 0, 0, [.s 1 5], none, none, some 4, none, none⟩
     let s := on fun c => { c with shadow := some sh }
     s.core.shadow = some sh ∧ sh.held = none ∧ sh.retry = none ∧ s.core.raw = false ∧ sh.ovf = some 4 ∧ s.core.frame = none ∧ s.core.port? 1 = none) ∧
    (let sh : Shadow := ⟨0x40, 0, 1, 0, 0, 0, [], some ⟨2, 3, 0⟩, none, none, none, none⟩
     (on (shadowed 1 0 [] (some ⟨2, 3, 0⟩))).core.shadow = some sh ∧ sh.retry = none ∧ sh.held = some ⟨2, 3, 0⟩) := by decide +kernel

theorem test_wit_LandOrShadow :
    (on id).core.resume = none ∧ (on id).core.port? 31 = none ∧ (0 : BitVec 4) = 0 ∧ (15 : BitVec 4) ≠ 0 ∧
    (let s := on fun c => { c with latch := some 0x64A68022 }
     s.core.latch = some 0x64A68022 ∧ s.core.resume = none ∧ s.core.again = none ∧ s.core.frame = none) := by decide +kernel

theorem test_wit_TrapEntry :
    (let s := on id; s.core.shadow = none ∧ gangRole s.core.gangst = 0 ∧ s.core.unsent = none ∧ (s.die (pcDie s.core.pcid)).room ≠ 0) ∧
    (let s := { on id with dies := [(0, { Die.reset with faultq := List.replicate 64 ⟨0, false, []⟩ })] }
     s.core.shadow = none ∧ gangRole s.core.gangst = 0 ∧ s.core.unsent = none ∧ (s.die (pcDie s.core.pcid)).room = 0) := by decide +kernel

/-- IntegerResults, MulDiv, Immediates, Predicates, RegisterFrame, FpResults, MintResults, Branches, Gangs and the other statements that assume no prefix and
no bound port among their fields. -/
theorem test_wit_plain :
    Safety.plain (on id) [0, 31, 24, 31] = true ∧ (on id).core.shadow = none ∧ (on id).core.resume = none := by decide +kernel

theorem test_wit_ModIntegers :
    (let s := on fun c => { c with modp := some armed }
     s.core.modp = some armed ∧ s.core.port? 24 = none ∧ armed.clamp = false ∧ armed.absa = false ∧ armed.absb = false ∧ armed.nega = false ∧
       armed.negb = false ∧ armed.sat = true ∧ armed.scale = 0) ∧
    (let m : Mod := { armed with sat := false, scale := 0x20 }
     let s := on fun c => { c with modp := some m }; s.core.modp = some m ∧ m.sat = false ∧ m.scale.toInt = -(32 : Nat)) := by decide +kernel

theorem test_wit_PortOperands :
    (let s := on ported
     s.core.modp = none ∧ s.core.port? 24 = some 0 ∧ (s.core.ports.get 0).fetched = [11, 12] ∧ s.core.strWrite 0 = false ∧
       (s.core.ports.get 0).idx + 2 ≤ s.core.strTotal 0 ∧ s.core.port? 1 = none ∧ s.core.port? 25 = some 1 ∧ s.core.strWrite 1 = true ∧ (∀ n, (n = 0 ∨ n = 1) → ((s.core.ports.get n).pushed.length + 1) * s.core.strSize n.val ≤ 256 ∧
         ((s.core.ports.get n).fetched ≠ [] ∨ s.core.strWrite n.val = true))) := by decide +kernel

theorem test_wit_RepeatFrames :
    Safety.plain (on id) [31] = true ∧ (⟨0, 2, 0x1B, 0, 3, 0⟩ : Frame).str = (1 : BitVec 2) ++ (2 : BitVec 2) ++ (3 : BitVec 2) ∧
      (decode (packR 1#6 1 2 31 0 0#4)).isOk = true := by decide +kernel

/-- A branch at the PC, in a frame of one word. -/
theorem test_wit_RepeatFrames_refused :
    let s := placed [0x3085FFFD] fun c => { c with frame := some ⟨0x1000, 1, 0, 0, 0, 0⟩ }
    Safety.coreTurn s = true ∧ Safety.direct s = true ∧ s.core.frame.isSome = true ∧ s.wordAt = some (0x3085FFFD, ⟨0x1000, 1, [0x3085FFFD]⟩) ∧
      decode 0x3085FFFD = .ok (.beq 4 5 0xFFFD) ∧ (0x3085FFFD : W32).toNat / 2 ^ 26 = 12 := by decide +kernel

theorem test_wit_ModArms :
    let s := placed [0xF8000000, 0x04000000] id
    s.nextWord = some 0x04000000 ∧ modTarget 0x04000000 = true ∧ oneOperand 0x04000000 = false ∧ s.core.frame = none := by decide +kernel

theorem test_wit_ModArms_traps :
    (let s := placed [0xFB4F5400, 0x3085FFFD] id; s.nextWord = some 0x3085FFFD ∧ modTarget 0x3085FFFD = false) ∧
    (let s := placed [0xFB4F5400, 0x04000000] fun c => { c with frame := some ⟨0x1000, 1, 0, 0, 0, 0⟩ }
     s.nextWord = some 0x04000000 ∧ modTarget 0x04000000 = true ∧ oneOperand 0x04000000 = false ∧ Safety.coreTurn s = true ∧ Safety.direct s = true ∧
       s.core.frame.isSome = true ∧ s.wordAt = some (0xFB4F5400, ⟨0x1000, 2, [0xFB4F5400, 0x04000000]⟩) ∧ decode 0xFB4F5400 = .ok (.mod 1 1 0 1 0 0 0x3D 10)) := by
  decide +kernel

theorem test_wit_ControlRegisters :
    let s := on id
    Safety.plain s [1, 2] = true ∧ s.core.rx = [] ∧ crKnown 0x0B = true ∧ s.core.crWaits 0x0B true = false ∧ crWritable 0x37 = true ∧
      s.core.crWaits 0x37 false = false := by decide +kernel

theorem test_wit_memory :
    let s := on (regs [(3, localBase), (4, localBase + 0x40000 - 64)])
    Safety.plain s [1, 3, 4] = true ∧ s.core.far = none ∧ s.core.posted = [] ∧ s.bad = [] ∧ s.soft = [] ∧ s.core.st ≠ .saved ∧ s.core.deque = [] ∧ s.core.resume = none ∧
      localBase ≤ (s.rd 3).toNat ∧ (s.rd 3).toNat % 128 = 0 ∧ (s.rd 4).toNat + 64 ≤ localBase + 0x40000 ∧ (s.rd 4).toNat % 64 = 0 ∧
      (s.rd 4).toNat - localBase + 8 ≤ s.core.lmin ∧ s.core.fe ((s.rd 4).toNat - localBase) = true := by decide +kernel

theorem test_wit_Misaligned :
    let s := on (regs [(3, localBase + 1)])
    Safety.plain s [1, 3, 4] = true ∧ s.core.resume = none ∧ (s.rd 3).toNat % 2 ≠ 0 ∧ (s.rd 3).toNat % 8 ≠ 0 ∧ (s.rd 3).toNat % 128 ≠ 0 := by decide +kernel

theorem test_wit_FullEmpty_empty :
    let s := on fun c => regs [(3, localBase + 8)] { c with empties := [1] }
    Safety.plain s [1, 3] = true ∧ s.core.posted = [] ∧ s.core.deque = [] ∧ s.bad = [] ∧ s.soft = [] ∧ s.core.st ≠ .saved ∧ s.core.fe 8 = false := by decide +kernel

theorem test_wit_Atomics :
    (let s := on (regs [(3, localBase + 0x3FFF8)])
     s.core.present = true ∧ (s.rd 3).toNat + 8 ≤ localBase + 0x40000 ∧ (s.yard (pcYard s.core.pcid)).teller.ports = List.replicate 4 [] ∧
       (∀ x ∈ (s.yard (pcYard s.core.pcid)).teller.lines, x.2 = [])) ∧
    (let r : TReq := ⟨0, .mem 64, 1, 0, 0, 0, 0, 0, false⟩
     let t : Teller := { Yard.reset.teller with ports := [[], [], [], [r]] }
     let s := { on id with yards := [(0, { Yard.reset with teller := t })] }
     (s.yard 0).teller.ports.length = 4 ∧ (s.yard 0).teller.ports.getD 3 [] = [r] ∧ (∀ j, j < 4 → j ≠ 3 → (s.yard 0).teller.ports.getD j [] = []) ∧
       (∀ x ∈ (s.yard 0).teller.lines, x.1 ≠ r.home.line) ∧ (s.yard 0).teller.lines.length < 256) ∧
    (let r : TReq := ⟨0, .mem 64, 1, 0, 0, 0, 0, 0, false⟩
     let s := { on id with yards := [(0, { Yard.reset with teller := { Yard.reset.teller with lines := [(r.home.line, [r])] } })] }
     (s.yard 0).teller.lines = [(r.home.line, [r])] ∧ r.home = .mem 64 ∧ r.op < 10 ∧ r.now = false) := by decide +kernel

theorem test_wit_ExactSlots :
    let h : Home := .loc 0 0 0
    let e : ExSlot := ⟨h, List.replicate 16 0⟩
    let s := { on (regs [(3, localBase)]) with yards := [(0, { Yard.reset with teller := { Yard.reset.teller with slots := [e] } })] }
    Safety.plain s [2, 3, 3, 4] = true ∧ s.core.far = none ∧ s.core.posted = [] ∧ s.core.deque = [] ∧ s.core.present = true ∧ s.bad = [] ∧
      localBase ≤ (s.rd 3).toNat ∧ 0 + 128 ≤ s.core.lmin ∧ s.core.lmin ≤ 0x40000 ∧ (s.rd 3).toNat % 128 = 0 ∧
      (s.yard (pcYard s.core.pcid)).teller.ports = List.replicate 4 [] ∧ (∀ x ∈ (s.yard (pcYard s.core.pcid)).teller.lines, x.2 = []) ∧ (s.yard (pcYard s.core.pcid)).teller.slots.find? (·.home == h) = some e ∧ s.soft = [] ∧
      (let u := on (regs [(3, localBase)])
       let t := (u.yard (pcYard u.core.pcid)).teller
       t.slots.find? (·.home == h) = none ∧ t.slots.length < 64 ∧ ∀ k, k < 16 → e.dws.getD k 0 = u.core.dwAt (0 + 8 * k)) := by decide +kernel

/-- A core beside the current one in its stable: core `n`, with LCN n, of queue 0. -/
def mate (n : Nat) (f : Machine.Core → Machine.Core) : Machine.Core := f { Machine.Core.reset with st := .running, pcid := n, lcn := w64 n, ncores := 4 }

/-- A launch of one router, with two tasks. -/
def launch1 : Launch where
  tag := 7
  caddr := 0x2000
  image := 0
  lx := 1
  ly := 1
  cores := true
  spread := 0
  lmin := 262144
  seed := 3
  entry := 0x1000
  bayfmt := List.replicate 8 0
  penbase := 0
  pensize := 0
  steallvl := 0
  stealtry := 0
  tasks := [⟨70, 0x1040, [], [(64, 16)]⟩, ⟨71, 0x1080, [], []⟩]
  segs := []
  locals := []
  savebase := 0
  remap := [0]
  route := [0]
  stage := 2
  fold := 1
  woken := []
  exch := 0
  computed := []
  cal := none
  residue := false
  last := []

/-- The state with this launch in queue 0, which is active. -/
def launched (a : Launch) (s : State) : State := { s with queues := [(0, { Queue.reset with launch := some a, active := true })] }

theorem test_wit_Messages :
    (let m : Msg := ⟨1, 2, 3, 4, none⟩
     let s := on fun c => { c with rx := [m] }
     Safety.plain s [1, 2, 4, 5, 6, 7, 8] = true ∧ Safety.settled s = true ∧ s.core.rx = [m] ∧ (s.rd 2).toNat % 2 ^ 26 = s.core.lcn.toNat) ∧
    (let s := on (regs [(2, 3)])
     let u := { s with peers := [mate 3 id] }
     Safety.settled u = true ∧ (u.rd 2).toNat < u.core.ncores.toNat ∧ u.find u.core.queue 3 = some 0 ∧ (mate 3 id).st ≠ .saved ∧ u.core.rx = []) ∧
    (let s := on (regs [(2, 4)]); Safety.settled s = true ∧ ¬ (s.rd 2).toNat < s.core.ncores.toNat) ∧
    (let c := mate 0 fun c => { c with pensize := 64, penbase := 0x100 }
     let d := { c with rx := List.replicate 16 ⟨0, 0, 0, 0, none⟩ }
     c.rx.length < 16 + c.penSlots ∧ (c.rx.filter (·.pen.isNone)).length < 16 ∧ d.rx.length < 16 + d.penSlots ∧ 16 ≤ (d.rx.filter (·.pen.isNone)).length ∧
       (let e := { c with rx := List.replicate 18 ⟨0, 0, 0, 0, none⟩ }; 16 + e.penSlots ≤ e.rx.length)) := by decide +kernel

theorem test_wit_Events :
    (let s := on fun c => regs [(2, 0x8000), (3, 15)] { c with evlatch := 0x8000 }
     Safety.plain s [1, 2, 3] = true ∧ Safety.settled s = true ∧ s.core.evlatch &&& (s.rd 2 &&& 0xFFFF) ≠ 0 ∧ s.core.evlatch &&& 0x7FFF = 0 ∧
       (s.rd 4).toNat = s.core.lcn.toNat ∧ s.core.present = true ∧ (s.rd 4).toNat < s.core.ncores.toNat ∧ (s.rd 3).toNat < 16) ∧
    (let s := { on (regs [(2, 3)]) with peers := [mate 3 id] }
     (s.rd 2).toNat ≠ s.core.lcn.toNat ∧ (s.rd 2).toNat < s.core.ncores.toNat ∧ s.find s.core.queue 3 = some 0 ∧ (mate 3 id).st ≠ .saved) := by decide +kernel

theorem test_wit_TaskPushDone :
    (let s := launched launch1 (on fun c => regs [(2, 1)] { c with tksize := 1 })
     Safety.plain s [1, 2, 3] = true ∧ Safety.settled s = true ∧ (s.rd 2).toNat < 2 ∧ ¬ s.core.tksize.toNat % 512 ≤ s.core.deque.length) ∧
    (let s := launched launch1 (on id); Safety.settled s = true ∧ s.core.tksize.toNat % 512 ≤ s.core.deque.length ∧ s.core.task = none ∧ s.core.deque = [] ∧
      s.core.st ≠ .trapped ∧ s.core.shadow = none) ∧
    (let s := launched launch1 (on (regs [(2, 4096)])); Safety.settled s = true ∧ 4096 ≤ (s.rd 2).toNat) ∧
    (let s := on fun c => { c with task := some ⟨0, 0, false, 5, []⟩ }; s.core.task = some ⟨0, 0, false, 5, []⟩ ∧ (⟨0, 0, false, 5, []⟩ : Task).stolen = false ∧ s.core.stash = []) ∧
    (let t : Task := ⟨0, 1, true, 5, [1]⟩
     let s := on fun c => { c with task := some t }
     let u := on fun c => { c with task := some t, wsret := some true, stash := [⟨64, [1, 2], []⟩] }
     s.core.task = some t ∧ t.stolen = true ∧ s.core.wsret = none ∧ u.core.task = some t ∧ u.core.wsret = some true ∧ u.wsetOut = false ∧
       u.core.stash = [⟨64, [1, 2], []⟩] ∧ 64 + 1 < u.core.lmin) ∧
    (let s := on fun c => { c with deque := [⟨0, 0, false, 5, []⟩] }; s.core.task = none ∧ s.core.deque ≠ []) := by decide +kernel

theorem test_wit_TaskPop :
    (let t : Task := ⟨1, 0, false, 5, []⟩
     let s := launched launch1 (on fun c => { c with deque := [⟨0, 0, false, 4, []⟩, t], tksize := 256 })
     Safety.plain s [30, 31] = true ∧ s.core.task = none ∧ s.core.probe = none ∧ s.core.deque = [⟨0, 0, false, 4, []⟩] ++ [t] ∧ t.stolen = false ∧
       s.taskEnt t.index = some ⟨71, 0x1080, [], []⟩) ∧
    (let s := on id; s.core.deque = [] ∧ s.core.steallvl.toNat % 8 = 0) ∧
    (let v := mate 1 fun c => { c with deque := [⟨0, 1, false, 4, []⟩, ⟨1, 1, false, 5, []⟩, ⟨0, 1, false, 6, []⟩] }
     let s := { launched launch1 (on fun c => { c with tksize := 2, probe := some ⟨0, 0, some 1, false⟩ }) with peers := [v] }
     s.isCur 0 0 = true ∧ s.find 0 1 = some 0 ∧ v.deque ≠ [] ∧ s.core.deque.length + (v.deque.length + 1) / 2 ≤ s.core.tksize.toNat % 512 ∧ v.st ≠ .trapped ∧
       v.st ≠ .saved ∧ bit s.core.domph 32 = false ∧ bit v.domph 32 = false ∧ s.core.domph.setWidth 32 = v.domph.setWidth 32) ∧
    (let s := { on (fun c => { c with deque := [⟨0, 0, false, 4, []⟩] }) with peers := [mate 1 id] }
     let th : FarThief := ⟨0, 1⟩
     s.isCur 0 0 = true ∧ s.core.deque ≠ [] ∧ (s.core.deque.length + 1) / 2 ≤ th.room ∧ s.core.st ≠ .trapped ∧ s.core.st ≠ .saved ∧
       bit s.core.domph 32 = false ∧ bit th.domph 32 = false ∧ s.core.domph.setWidth 32 = th.domph.setWidth 32 ∧
       ¬ (s.core.deque.length + 1) / 2 ≤ (⟨0, 0⟩ : FarThief).room) := by decide +kernel

theorem test_wit_TaskPop_writes :
    let t : Task := ⟨0, 1, true, 4, []⟩
    let s := { launched launch1 (on fun c => { c with task := some t, wsret := some false }) with peers := [mate 1 id] }
    s.isCur 0 0 = true ∧ s.core.task = some t ∧ s.core.wsret = some false ∧ s.moduleOf s.core.queue t.home = Config.pkgX ∧
      s.taskEnt t.index = some ⟨70, 0x1040, [], [(64, 16)]⟩ ∧ s.find 0 t.home = some 0 ∧ s.isCur 0 t.home = false ∧ s.peers[0]? = some (mate 1 id) ∧
      (mate 1 id).st ≠ .saved ∧ (mate 1 id).deque = [] ∧ (mate 1 id).stash = [] ∧ 64 + 16 ≤ (mate 1 id).lmin :=
  ⟨by decide, rfl, rfl, rfl, by decide, by decide, by decide, rfl, by decide, by decide, by decide, by decide⟩

theorem test_wit_Gangs :
    (let s := { on (regs [(2, 3)]) with peers := [mate 3 id] }
     s.gangRefused 3 = false ∧ gangRole s.core.gangst = 0 ∧ s.core.shadow = none ∧ s.gangRefused 0 = true ∧ s.isCur 0 0 = true) ∧
    (let s := on fun c => { c with st := .waiting, gangst := 0xE0, gangWait := some 0, fwd := List.replicate 8 (0, 0) }
     s.isCur 0 0 = true ∧ s.core.st = .waiting ∧ gangRole s.core.gangst = 2 ∧ s.core.gangWait.isSome = true ∧ 8 ≤ s.core.fwd.length) := by decide +kernel

theorem test_wit_Synchronise :
    (let s := on id
     Safety.plain s [1, 2] = true ∧ s.core.deque = [] ∧ s.core.task = none ∧ s.core.arrival = none ∧ Safety.settled s = true ∧ (5 : BitVec 3) ≠ 0 ∧ s.taskOpen s.core.queue 0 s.core.lcn.toNat = false) ∧
    (let s := on fun c => { c with arrival := some ⟨5, 0, 1, 0, 3, some (0, 9)⟩, domph := 0x1FFFFFFFF }
     s.core.arrival = some ⟨5, 0, 1, 0, 3, some (0, 9)⟩ ∧ bit s.core.domph 32 = true) ∧
    (let s := on fun c => { c with arrival := some ⟨5, 0, 1, 0, 3, some (2 + 1, 0)⟩ }
     s.core.arrival = some ⟨5, 0, 1, 0, 3, some (2 + 1, 0)⟩ ∧ s.core.shadow = none ∧ s.core.frame = none) ∧
    (on id).queues = [] ∧
    (let s := on fun c => { c with arrival := some ⟨5, 0, 1, 0, 3, none⟩ }; s.core.arrival = some ⟨5, 0, 1, 0, 3, none⟩) ∧
    (on fun c => { c with task := some ⟨0, 0, false, 0, []⟩ }).core.task.isSome = true ∧ (on fun c => { c with deque := [⟨0, 0, false, 0, []⟩] }).core.deque ≠ [] := by
  decide +kernel

/-- A package that is not this module's. -/
theorem other_pkg (P : Nat → Prop) (h0 : P 0) (h1 : P 1) : ∃ p, p ≠ Config.pkgX ∧ P p := by
  by_cases h : Config.pkgX = 0
  · exact ⟨1, by omega, h1⟩
  · exact ⟨0, fun e => h e.symm, h0⟩

/-- The root of the domain of level 5 lies on another module. -/
theorem test_wit_Synchronise_far : ∃ p, p ≠ Config.pkgX ∧
    let a : Launch := { launch1 with remap := [w64 (2 ^ 40 + 64 * p)] }
    let s := launched a (on fun c => { c with domph := 0x100000000 })
    (s.queue s.core.queue).launch = some a ∧ (a.domRouters 5 (s.core.domAt 5)).head? = some (w64 (2 ^ 40 + 64 * p)) ∧
      remapPkg (w64 (2 ^ 40 + 64 * p)) = p ∧ s.peers = [] ∧ s.core.arrival = none ∧ Safety.settled s = true ∧ bit s.core.domph 32 = true :=
  other_pkg _ (by decide +kernel) (by decide +kernel)

theorem test_wit_EpisodeOutcome :
    (let a : RemoteArrival := ⟨1, 3, 5, false, 0⟩; let b : RemoteArrival := ⟨2, 0, 0, true, 0⟩; let c : RemoteArrival := ⟨2, 0, 0, true, 1⟩
     (∃ x ∈ [b], x.kind ≠ a.kind ∨ a.kind = 1 ∧ x.op ≠ a.op) ∧ (∀ x ∈ [a], x.kind = 1 ∧ x.op = a.op) ∧ (∀ x ∈ [c], x.kind = 2) ∧ b.kind = 2 ∧ (∃ x ∈ [c], x.phKind ≠ b.phKind ∨ x.phStep ≠ b.phStep) ∧
      ∀ x ∈ [b], x.kind = 2 ∧ x.phKind = b.phKind ∧ x.phStep = b.phStep) ∧
    (let f (c : Machine.Core) : Machine.Core := { c with arrival := some ⟨1, 0, 1, 3, 6, none⟩ }
     let s := { launched launch1 (on f) with peers := [mate 1 f, mate 2 f, mate 3 f] }
     let ms := (s.core :: s.peers).filter fun c => c.present && c.queue == 0 && c.domAt 1 == 0
     (s.queue 0).launch = some launch1 ∧ ms.length = domSize 1 1 1 0 ∧ (∀ c ∈ ms, c.arrival = some ⟨1, 0, 1, 3, 6, none⟩) ∧
       s.taskOpen 0 1 0 = false ∧ launch1.domRouters 1 0 = []) := by decide +kernel

theorem test_wit_Fences :
    (let s := on id; Safety.plain s [0] = true ∧ Safety.plain s [3] = true ∧ Safety.settled s = true) ∧
    (let r : CopyReq := ⟨0, [0, 0, 1, 0], 0, 0, 0, [], false, [], 0, none, false, 0, [], []⟩
     let s := on fun c => { c with cf := { c.cf with reqs := [r] } }
     s.core.posted = [] ∧ s.core.ports.toList.all (!·.bound) = true ∧ s.core.cfTrap = none ∧ s.core.mxTrap = none ∧ s.core.enginesIdle = false) ∧
    (let e : Posted := ⟨.far 1 0 0x80000 false 1, [1], false, 6, 0x80, true⟩
     let s := on fun c => { c with posted := [e] }
     s.core.ports.toList.all (!·.bound) = true ∧ e ∈ s.core.posted ∧ e.sent = true) ∧
    (let e : Posted := ⟨.mem 0x80000 0, [1], false, 6, 0x80, false⟩
     let s := on fun c => { c with posted := [e] }
     s.core.ports.toList.all (!·.bound) = true ∧ s.core.retrying = false ∧ s.core.posted = [e] ∧ e.place.here = true ∧ e.sent = false) := by
  decide +kernel

theorem test_wit_WaitForTime :
    (let s := on (regs [(2, 1)]); Safety.plain s [1, 2] = true ∧ s.core.cfTrap = none ∧ s.cyc.toNat < (s.rd 2).toNat) ∧
    (let s := on id; (s.rd 2).toNat ≤ s.cyc.toNat ∧ (s.core.cf.pending.filter fun r => decide (r.promise.toNat ≤ (s.rd 2).toNat)) = []) ∧
    (let r : CopyReq := ⟨0, [0, 0, 1, 0], 0, 0, 0, [], false, [], 0, none, false, 0, [], []⟩
     let s := on fun c => { c with cf := { c.cf with reqs := [r] } }
     s.core.cfTrap = none ∧ (s.rd 2).toNat ≤ s.cyc.toNat ∧ (s.core.cf.pending.filter fun r => decide (r.promise.toNat ≤ (s.rd 2).toNat)) = [r] ∧
       r.excused = false) := by decide +kernel

/-- A plain vector of `n` elements at an offset. -/
def vec (off n : Nat) : Handle := BitVec.ofNat 128 (2 ^ 124 + off * 2 ^ 62 + n * 2 ^ 46)

/-- A queued instruction with its three handles, on FP32 bays. -/
def entry (i : Instr) (d a b : Handle) (x y : W64) (bd : Option Nat) : CochEntry :=
  ⟨0, i, none, 0, 0, d, a, b, x, y, 0, 0, 0, 0, 0, 0, [], 0, [], List.replicate 8 1, bd⟩

theorem test_wit_CochainIssue :
    let c0 (c : Machine.Core) : Machine.Core := { c with p := c.p.set 1 true, bayfmt := Vector.replicate 8 1, k := ((c.k.set 4 (vec 0 4)).set 5 (vec 16 4)).set 6 (vec 32 4) }
    let s := on c0
    let k := ask3 4 5 6 false true (chkArith true) s.core
    Safety.plain s [3, (1 : BitVec 4) ++ 0#1, (1 : BitVec 4) ++ 1#1] = true ∧ s.rp 1 = true ∧ s.rp 2 = false ∧ s.core.again = none ∧ s.core.resume = none ∧ s.core.cq.length < 8 ∧ k.fail = none ∧ k.needs = [] ∧
      k.late [] = none ∧ (ask3 4 5 7 false true (chkArith true) s.core).fail = some ⟨7, 0x127, 0⟩ ∧
      8 ≤ (on fun c => { c0 c with cq := List.replicate 8 (entry .nop 0 0 0 0 0 none) }).core.cq.length ∧ s.core.ownPosted = false ∧
      (let far : Posted := ⟨.far 1 0 0x80000 false 1, [1], false, 6, 0x80, true⟩
       let own : Posted := ⟨.own 0, [1, 1, 1, 1, 1, 1, 1, 1], true, 7, localBase, false⟩
       let u := on fun c => { c0 c with posted := [far, own] }
       u.rp 1 = true ∧ u.core.ownPosted = true ∧ u.drainAll.core.ownPosted = true) := by decide +kernel

theorem test_wit_CochainResults :
    let e := entry (.vfma 4 5 6 0 0) (vec 0x8000 4) (vec 0x8000 4) (vec 0x8010 4) 0 0 (some 4)
    let c := Machine.Core.reset
    e.md = none ∧ c.deque = [] ∧ e.vrm.setWidth 2 ≠ 3#2 ∧ e.d.kind = 1 ∧ e.d.enc = .fp32 ∧ e.d.len = 4 ∧ e.d.base % 4 = 0 ∧ e.d.base + 4 * 4 ≤ c.lmin ∧
      e.a.kind = 1 ∧ e.a.enc = .fp32 ∧ e.a.len = 4 ∧ e.a.base = e.d.base ∧ e.b.kind = 1 ∧ e.b.enc = .fp32 ∧ e.b.len = 4 ∧ e.d.base + 4 * 4 ≤ e.b.base ∧
      e.b.base + 4 * 4 ≤ c.lmin := by decide +kernel

theorem test_wit_CochainUnit :
    (let e := entry (.vadd 4 5 6 0 0) (vec 0 4) (vec 16 4) (vec 32 4) 0 0 (some 4)
     let s := on fun c => { c with cq := [e] }
     s.core.cq = [e] ∧ s.core.shadow = none ∧ s.isCur 0 0 = true ∧ e.bound = some 4 ∧ bit e.vrm 2 = false ∧ e.push = []) ∧
    (let e : CochEntry := { entry (.kst 5 25 0 0) 0 (vec 0 4) 0 0 0 (some 1) with push := [1] }
     let s := on fun c => { c with cq := [e] }
     s.core.cq = [e] ∧ s.core.shadow = none ∧ s.isCur 0 0 = true ∧ e.bound.isSome = true ∧ e.push = [1] ∧ (25 : SReg).toNat = 24 + 1) ∧
    (let e := entry (.kset 4 5 3 0 0) 0 (vec 0 4) 0 3 0 none
     let s := on fun c => { c with cq := [e] }
     s.core.cq = [e] ∧ s.core.shadow = none ∧ s.isCur 0 0 = true ∧ e.bound = none ∧ bf e.x 0 4 = 3 ∧ s.core.port? 3 = none ∧ s.core.port? ((1 : BitVec 4) ++ 1#1) = none) ∧
    (let e := entry (.vadd 4 5 6 0 0) (vec 0 4) (vec 16 4) (vec 32 4) 0 0 none
     let s := { on (fun c => { c with pcid := Config.pkgX * 2 ^ 14 + 0, cq := [e], bayfmt := Vector.replicate 8 1 }) with stables := [(0, { Stable.reset with dfc := [0, 0, 0, 0] })] }
     s.core.inStable 0 = true ∧ (∀ c ∈ s.peers, c.inStable 0 = false) ∧ e.bound = none ∧ (s.stable 0).res = none ∧ (s.stable 0).dfc.length = 4 ∧
       (e.cost s.core.bayfmt.toList).2 ≠ 0 ∧ (s.stable 0).dfc.getD 0 0 < (e.cost s.core.bayfmt.toList).1) ∧
    (let e := entry (.vadd 4 5 6 0 0) (vec 0 4) (vec 16 4) (vec 32 4) 0 0 none
     let s := { on (fun c => { c with cq := [e], bayfmt := Vector.replicate 8 1 }) with stables := [(0, { Stable.reset with dfc := [16, 0, 0, 0] })] }
     (e.cost s.core.bayfmt.toList).1 ≤ (s.stable 0).dfc.getD 0 0) := by
  refine ⟨⟨rfl, by decide +kernel⟩, ⟨rfl, by decide +kernel⟩, ⟨rfl, by decide +kernel⟩, ?_, by decide +kernel⟩
  intro e s
  refine And.intro ?_ (And.intro (fun c hc => nomatch hc) (And.intro rfl (And.intro rfl (And.intro rfl (by decide +kernel)))))
  simp only [Machine.Core.inStable, s, on, pcPkg_here 0 (by decide), pcStable_here 0, beq_self_eq_true, Bool.true_and]
  decide

/-- A request of each kind: CPY of 8 bytes, GATHER of one doubleword. -/
def cpyReq : CopyReq := ⟨0, [localBase, localBase + 64, 8, 0], 0, 0, 0, [0, 0], false, [], 0, none, false, 0, [], []⟩
def gatherReq : CopyReq := ⟨1, [0x100, 0x200, 0x3000001, 0], 3, 0, 0, [], true, [⟨0, 0, false, false⟩], 0, none, false, 0, [], [0]⟩

theorem test_wit_CopyRequests :
    (let s := on (regs [(4, localBase), (5, localBase + 64), (6, 8)])
     Safety.plain s [1, (1 : BitVec 3) ++ 0#2, (1 : BitVec 3) ++ 1#2, (1 : BitVec 3) ++ 2#2, (1 : BitVec 3) ++ 3#2] = true ∧ s.core.cfTrap = none ∧ s.core.again = none ∧
       s.cpyCheck { cpyReq with dws := [s.rd 4, s.rd 5, s.rd 6, s.rd 7] } = none ∧ s.core.cf.pending.length < 8 ∧ s.core.ownPosted = false) ∧
    (let s := on id; s.cpyCheck { cpyReq with dws := [0, 0, 0, 0] } = some 1 ∧ s.core.listCheck ⟨1, [0, 0, 0, 0], 0, 0, 0, [], false, [], 0, none, false, 0, [], []⟩ = some 2 ∧
       s.core.rowCheck ⟨3, [0, 0, 0, 0], 0, 0, 0, [], false, [], 0, none, false, 0, [], []⟩ = some 2) ∧
    (on id).core.listCheck ⟨1, [0x100, 0x200, 0x3000001, 0], 0, 0, 0, [], false, [], 0, none, false, 0, [], []⟩ = none ∧
    (on id).core.rowCheck ⟨4, [0x100, 0x200, 0x1001000, 0x40000], 0, 0, 0, [], false, [], 0, none, false, 0, [], []⟩ = none ∧
    (let s := on fun c => { c with cf := { c.cf with reqs := List.replicate 8 cpyReq } }; 8 ≤ s.core.cf.pending.length ∧ s.core.cfTrap = none) ∧
    (let s := on fun c => { c with cf := { c.cf with fault := some (0, 4, 9) } }; s.core.cfTrap ≠ none ∧ s.core.cf.next < 65536 ∧ (∀ r ∈ s.core.cf.pending, r.seq < 65536) ∧
       s.core.cf.fl.toNat < 256) := by decide +kernel

theorem test_wit_CopyEngine :
    (let r := { gatherReq with started := false, dests := [] }
     let s := on fun c => { c with cf := { c.cf with reqs := [r] } }
     s.isCur 0 0 = true ∧ s.core.cf.reqs = [r] ∧ s.core.deque = [] ∧ s.core.lmin ≤ 0x40000 ∧ r.units ≠ 0 ∧ s.core.cf.fault = none ∧ s.core.st ≠ .saved ∧ r.owed = 0 ∧ r.started = false) ∧
    (let s := on fun c => { c with cf := { c.cf with reqs := [gatherReq] }, lmem := Memory.write [] 0x100 (toBytes 8 (localBase + 0x40)) }
     gatherReq.kind = 1 ∧ gatherReq.started = true ∧ gatherReq.owed = 0 ∧ s.core.st ≠ .saved ∧ s.peers = [] ∧ gatherReq.flag = false ∧ s.core.st ≠ .idle ∧ s.bad = [] ∧ s.soft = [] ∧
       gatherReq.dests = [⟨0, 0, false, false⟩] ∧ gatherReq.group ⟨0, 0, false, false⟩ = [0] ∧
       (s.core.dwAt (gatherReq.list + 8 * 0)).toNat = localBase + 0x40 ∧ 0x40 + gatherReq.size ≤ s.core.lmin ∧ gatherReq.data + gatherReq.size ≤ s.core.lmin ∧
       (localBase + 0x40) % gatherReq.size = 0) ∧
    (let r := { gatherReq with dws := [0x100, 0x200, 0x4013000001, 0], dests := [⟨0, 1, false, false⟩] }
     let s := on fun c => { c with cf := { c.cf with reqs := [r] } }
     s.isCur 0 0 = true ∧ r.kind = 1 ∧ r.started = true ∧ r.flag = true ∧ (r.group ⟨0, 1, false, false⟩).length ≤ 1 ∧ s.core.lcn.toNat < s.core.ncores.toNat ∧ s.core.lcn.toNat < 2 ^ 26 ∧ r.seq < 65536 ∧ r.owed = 0 ∧
       r.flagOff + 8 ≤ s.core.lmin) := by decide +kernel

theorem test_wit_Exchange :
    (let s := on (regs [(2, 3), (3, 100)])
     Safety.plain s [1, 2, 3] = true ∧ bf (s.rd 2) 26 38 = 0 ∧ bf (s.rd 2) 0 26 < s.core.ncores.toNat ∧ s.core.dack = none ∧ s.core.xch.done = 0) ∧
    ((on fun c => { c with dack := some false }).core.dack = some false ∧ (on fun c => { c with dack := some true }).core.dack = some true) ∧
    ¬ (bf (on (regs [(2, 4)])).core.s[2] 0 26 < (on id).core.ncores.toNat) ∧
    (let s := { on id with dies := [(0, { Die.reset with demq := [(0, 0, 5, 100)] })] }; (s.die 0).demq = [(0, 0, 5, 100)] ∧ s.isCur 0 0 = true) ∧
    (let s := on fun c => { c with xch := { c.xch with arrived := some 0 } }; s.core.xch.arrived.isSome = true ∧ s.core.xch.result = none) ∧
    (let s := on fun c => { c with xch := { c.xch with arrived := some 0, result := some 4, done := 1 } }
     s.core.xch.arrived.isSome = true ∧ s.core.xch.result = some 4 ∧ s.core.xch.done ≠ 0 ∧ s.core.resume = none ∧ s.core.shadow = none) ∧
    (let s := on fun c => { c with xch := { c.xch with arrived := some 0, result := some 4 }, resume := some ⟨1, 0, some retry0⟩ }
     s.core.xch.arrived.isSome = true ∧ s.core.xch.result = some 4 ∧ s.core.again.isSome = true) := by decide +kernel

theorem test_wit_Exchange_down : ∃ p, p ≠ Config.pkgX ∧
    let a : Launch := { launch1 with remap := [w64 (2 ^ 40 + 64 * p)] }
    let s := { launched a (on id) with modules := [(p, (0, true))] }
    (s.queue 0).launch = some a ∧ a.packages = [p] ∧ (tget (0, false) p s.modules).2 = true :=
  other_pkg _ (by decide +kernel) (by decide +kernel)

theorem test_wit_Exchange_done :
    let s := launched launch1 (on fun c => { c with xch := { c.xch with arrived := some 0 } })
    (s.queue 0).launch = some launch1 ∧ launch1.packages.length ≤ 1 ∧ s.isCur 0 0 = true ∧ launch1.cal = none ∧ s.exchangeDone 0 launch1 = true := by decide +kernel

theorem test_wit_StreamPorts :
    (let s := on ported
     s.core.shadow = none ∧ (s.core.ports.get 0).bound = true ∧ s.core.strWrite 0 = false ∧ (s.core.ports.get 1).bound = true ∧ s.core.strWrite 1 = true ∧
       (s.core.ports.get 1).held = none ∧ (s.core.ports.get 1).pushed = [] ∧ (s.core.ports.get 2).bound = false ∧ s.core.strInvalid 2 = true ∧ s.core.modp = none ∧
       s.core.port? 1 = none ∧ s.isCur 0 0 = true ∧ s.bad = [] ∧ (s.core.strAddr 0 2).toNat = localBase + 16 ∧ 2 < s.core.strTotal 0 ∧ s.core.strSize 0 = 8 ∧ s.core.st ≠ .saved ∧ s.reqs = [] ∧
       (∀ y ∈ s.core.ports.toList, y.pushed = []) ∧ s.core.deque = []) ∧
    (let s := on fun c => { ported c with ports := Machine.Core.reset.ports }; (s.core.ports.get 0).bound = false ∧ s.core.strInvalid 0 = false ∧ s.core.ownPosted = false) ∧
    (let s := on fun c => { ported c with ports := (ported c).ports.set 1 ⟨true, 0, 0, [], [7], none⟩ }
     (s.core.ports.get 1).pushed = [7] ∧ (s.core.strAddr 1 0).toNat = localBase + 64 ∧ s.core.lmin ≤ 0x40000) := by decide +kernel

/-- An MZERO of a whole tile of FP32. -/
def mzero : MxCmd := ⟨[0x2020_0010_0001, 0, 0, 0, 0, 0, 0, 0], 0, 0, false⟩

theorem test_wit_Matrix :
    (let s := on (regs [(2, localBase)])
     Safety.plain s [1, 2, 3] = true ∧ s.core.mxTrap = none ∧ s.core.accCheck 0 (s.rd 2) (s.rd 3) = .ok 0 ∧ s.core.deque = [] ∧
       (∀ m ∈ s.core.mx.queue, 32768 ≤ (0 % 65536 + 65536 - m.seq) % 65536)) ∧
    (on id).core.accCheck 0 1 0 = .error (2, 1) ∧
    (let s := on fun c => { c with mx := { c.mx with queue := [mzero] } }; ∃ m ∈ s.core.mx.queue, (0 % 65536 + 65536 - m.seq) % 65536 < 32768) ∧
    (let s := on fun c => regs [(2, 0x007FFFFFFFFF0000), (8, 0x2020_0010_0001)] c
     let ds := [0#3, 1#3, 2#3, 3#3, 4#3, 5#3, 6#3, 7#3].map fun j => (1 : BitVec 2) ++ j
     Safety.plain s ds = true ∧ s.core.posted = [] ∧ s.core.mxCheck ⟨ds.map s.rd, 0, 0, false⟩ = none ∧ s.core.mx.queue.length < 16 ∧
       16 ≤ (on fun c => { c with mx := { c.mx with queue := List.replicate 16 mzero } }).core.mx.queue.length) ∧
    (let s := on fun c => { c with mx := { c.mx with queue := [mzero] } }
     s.isCur 0 0 = true ∧ s.core.mx.queue = [mzero] ∧ s.core.st ≠ .saved ∧ s.core.mx.started = false ∧ (s.mxFormats mzero).2 = true ∧
       (bit s.core.mx.rowprog 0 && bf s.core.mx.rowprog 48 16 == mzero.seq) = false) ∧
    (let s := on fun c => { c with mx := { c.mx with queue := [mzero], rowprog := 1, fmts := [(0, 1)] } }
     (bit s.core.mx.rowprog 0 && bf s.core.mx.rowprog 48 16 == mzero.seq) = true ∧ s.core.mx.fmts ≠ [] ∧ s.core.mx.started = false) ∧
    (let m : MxCmd := ⟨[0x1_0101_0010_4402, localBase, 0, localBase, 0, 0, 0, 0], 0, 0, false⟩
     let s := on fun c => { c with mx := { c.mx with queue := [m] } }; s.core.mx.started = false ∧ (s.mxFormats m).2 = false) ∧
    (let m : MxCmd := ⟨[0x1_0101_0010_4402, localBase, 0, localBase, 0, 0, 0, 0], 0, 0, false⟩
     let s := on fun c => { c with mx := { c.mx with queue := [m], started := true } }
     let t := { s with ramps := [(0, 800, 0)] }
     s.core.mx.started = true ∧ s.core.mx.steps + 1 < m.units * m.per ∧ (s.core.mx.steps + 1) % m.per ≠ 0 ∧ s.cyc.toNat / 800 = s.rampAt ∧
       s.ramp.1 < s.rampHi ∧ t.cyc.toNat / 800 = t.rampAt ∧ t.rampHi ≤ t.ramp.1) ∧
    (let s := on fun c => { c with mx := { c.mx with queue := [mzero], started := true, steps := mzero.units * mzero.per } }
     s.core.mx.started = true ∧ s.core.mx.owed = 0 ∧ mzero.units * mzero.per ≤ s.core.mx.steps ∧
       0 < (on fun c => { c with mx := { c.mx with queue := [mzero], started := true, owed := 1 } }).core.mx.owed) ∧
    (let s := { on id with cyc := 1600, rampAt := 1, ramps := [(0, 7, 3)] }; s.cyc.toNat / 800 = s.rampAt + 1 ∧ (s.ramps.map (·.1)).Nodup) := by decide +kernel

theorem test_wit_RaceArray :
    (let s := on (regs [(2, 8), (3, 5)])
     Safety.plain s [1, 2, 3] = true ∧ s.race.owner = none ∧ s.core.raceLost = false ∧ s.ownsRace = false) ∧
    (let s := { on (regs [(2, 4095), (3, 4095), (4, 8), (5, 0x40001)]) with yards := [(0, { Yard.reset with race := ⟨some (0, 0, 0), some 0, [], [], []⟩ })] }
     s.race.owner = some (0, 0, 0) ∧ s.ownsRace = true ∧ s.core.raceLost = false ∧ (s.rd 2).toNat < 4096 ∧ bf s.core.twin 0 12 ≠ 0 ∧
       raceRange (s.rd 5) = some (1, 4) ∧ bit (s.rd 5) 63 = false ∧ (s.rd 4).toNat % 8 = 0 ∧ s.raceDest (localBase + 64) (2 * 4) = none) ∧
    (on fun c => { c with raceLost := true }).core.raceLost = true ∧ bf (on fun c => { c with twin := 0 }).core.twin 0 12 = 0 := by decide +kernel

theorem test_wit_RaceArray_data :
    let s := { on (regs [(4, localBase + 64), (5, 0x40000)]) with yards := [(0, { Yard.reset with race := ⟨some (0, 0, 0), some 0, [], [], []⟩ })] }
    (match s.raceRead (s.rd 4) 0 4 with | .ok (ds, _) => ds.length == 4 | .error _ => false) = true ∧
      (match s.racePut s.race (s.rd 4) 0 1 with | .ok _ => true | .error _ => false) = true := by
  decide +kernel

/-- Context 0 with pages 0 to 7 of its space on the frames 4 to 11, populated, and these doublewords in page 0 on. -/
def mapped (l : List (Nat × Nat)) (s : State) : State :=
  let m := l.foldl (fun m e => Memory.write m (0x80000 + e.1) (toBytes 8 e.2)) []
  let pt := (List.range 8).foldl (fun m i => Memory.write m (0x60000 + 8 * i) (toBytes 8 (0x8003D + 0x20000 * i))) m
  { s with mem := Memory.write (Memory.write pt 0x20000 (toBytes 8 0x40001)) 0x40000 (toBytes 8 0x60001), bootst := 0x1000000B1,
           ctxs := [(0, { Ctx.reset with st := 2, ptroot := 0x20000, heapbase := 0x100000, heapsize := 0x20000 })] }

/-- The leaf that maps v in context 0 and the physical address, or the reason, as the spec's table walk has it (R197, R198). -/
def pageOf (s : State) (v : Nat) : Except Nat (W64 × Nat) :=
  let entry (table lo : Nat) : W64 := w64 (Memory.num s.mem (table + 8 * (v / 2 ^ lo % 8192)) 8)
  let next (e : W64) : Nat := bf e 17 29 * 2 ^ 17
  let pointer (e : W64) : Bool := decide (bf e 46 18 = 0) && decide (bf e 1 16 = 0)
  let leaf (e : W64) (big : Bool) : Bool := decide (bf e 7 10 = 0) && (!big || decide (bf e 17 13 = 0)) && !(bit e 1 && (decide (bf e 50 2 = 0) || decide (bf e 50 2 = 3)))
  let e1 := entry (s.ctx 0).ptroot.toNat 43
  let e2 := entry (next e1) 30
  let e3 := entry (next e2) 17
  if !bit e1 0 then .error 2 else if !pointer e1 then .error 5 else if !bit e2 0 then .error 3
  else if bit e2 2 then (if leaf e2 true then .ok (e2, next e2 + v % 2 ^ 30) else .error 5) else if !pointer e2 then .error 5
  else if !bit e3 0 then .error 4 else if bit e3 2 && leaf e3 false then .ok (e3, next e3 + v % 2 ^ 17) else .error 5

/-- `mapped`, with the entry e for page 0. -/
def paging (e : W64) (f : Machine.Core → Machine.Core) : State :=
  let s := mapped [] (on f)
  { s with mem := Memory.write s.mem 0x60000 (toBytes 8 e.toNat) }

/-- The addresses are those of s3, and in all cases nothing is cached: an entry that is not valid at each level, the code heap, a page without permissions,
one that is not populated, every range that faults, a page of this module, one of another, and another core's window. -/
theorem test_wit_Translation :
    (let s := mapped [] (on (regs [(3, 0x400)]))
     Safety.plain s [1, 3, 4, 8, 9, 10, 11, 12, 13, 14, 15] = true ∧ s.core.far = none ∧ s.core.posted = [] ∧ s.bad = [] ∧ s.soft = [] ∧ s.core.utlb = [] ∧
       (s.yard (pcYard s.core.pcid)).tlb = [] ∧ (s.die (pcDie s.core.pcid)).walks = [] ∧ s.core.l1 = [] ∧ (s.queue s.core.queue).ctx = 0 ∧ (s.rd 3).toNat % 64 = 0 ∧
       pageOf s 0x400 = .ok (0x8003D, 0x80400) ∧ bf (0x8003D : W64) 50 2 = 0 ∧ bit (0x8003D : W64) 1 = false ∧ (0x8003D : W64) &&& 0x18 = 0x18 ∧
       s.populated (0x80400 / 2 ^ 17) = true ∧ pageOf s (2 ^ 43) = .error 2 ∧ pageOf s (2 ^ 30) = .error 3 ∧ pageOf s 0x200000 = .error 4 ∧
       (s.ctx 0).st = 2 ∧ (s.ctx 0).heapbase.toNat ≤ 0x100000 ∧ 0x100000 < (s.ctx 0).heapbase.toNat + (s.ctx 0).heapsize.toNat ∧
       s.core.ncores.toNat ≤ (2 ^ 54 + 4 * 2 ^ 18 - 2 ^ 54) / 2 ^ 18 ∧ 2 ^ 54 + 4 * 2 ^ 18 < localBase ∧ localBase + 0x40000 < ctlBase ∧ ctlBase + 0x10000 < 2 ^ 64) ∧
    (let e : W64 := 0x80025
     pageOf (paging e id) 0 = .ok (e, 0x80000) ∧ e &&& 0x08 ≠ 0x08 ∧ e &&& 0x10 ≠ 0x10 ∧ e &&& 0x18 ≠ 0x18) ∧
    (let e : W64 := 0x4000003D
     pageOf (paging e id) 0 = .ok (e, 0x40000000) ∧ e &&& 0x18 = 0x18 ∧ bit e 1 = false ∧ (paging e id).populated (0x40000000 / 2 ^ 17) = false) ∧
    (let q := mate 3 id
     let s := { mapped [] (on id) with peers := [q] }
     3 < s.core.ncores.toNat ∧ 3 ≠ s.core.lcn.toNat ∧ s.find s.core.queue 3 = some 0 ∧ s.peers[0]? = some q ∧ q.st ≠ .saved ∧ q.stash = [] ∧
       (2 ^ 54 + 3 * 2 ^ 18 + 8 - 2 ^ 54) / 2 ^ 18 = 3) := by decide +kernel

/-- A page of another module, in mode 1 and in mode 2. -/
theorem test_wit_Translation_far : ∃ p, p ≠ Config.pkgX ∧
    (let e : W64 := w64 (p * 2 ^ 52 + 2 ^ 50 + 0x8001D); pageOf (paging e id) 0 = .ok (e, 0x80000) ∧ bf e 52 12 = p ∧ bf e 50 2 = 1 ∧ e &&& 0x18 = 0x18) ∧
    (let e : W64 := w64 (p * 2 ^ 52 + 2 * 2 ^ 50 + 0x8001F); pageOf (paging e id) 0 = .ok (e, 0x80000) ∧ bf e 52 12 = p ∧ bf e 50 2 = 2 ∧ bit e 1 = true) :=
  other_pkg _ (by decide +kernel) (by decide +kernel)

/-- A page of this module's host. -/
theorem test_wit_Translation_host :
    let e : W64 := w64 (Config.pkgX * 2 ^ 52 + 2 ^ 50 + 0x8001F)
    pageOf (paging e id) 0 = .ok (e, 0x80000) ∧ bf e 52 12 = Config.pkgX ∧ bit e 1 = true ∧ e &&& 0x18 = 0x18 := by
  intro e
  have hp := pkgX_lt
  have hn : e.toNat = Config.pkgX * 2 ^ 52 + 2 ^ 50 + 0x8001F := by
    show (w64 _).toNat = _
    unfold w64
    rw [BitVec.toNat_ofNat]
    omega
  have out (a : Nat) (h : a + 8 ≤ 0x60000) : Memory.num (paging e id).mem a 8 = Memory.num (mapped [] (on id)).mem a 8 :=
    Memory.num_congr _ _ _ _ fun b _ h2 => Memory.get_write_of_outside _ _ _ _ (by omega)
  have m1 : w64 (Memory.num (paging e id).mem 0x20000 8) = 0x40001 := by rw [out _ (by omega)]; decide +kernel
  have m2 : w64 (Memory.num (paging e id).mem 0x40000 8) = 0x60001 := by rw [out _ (by omega)]; decide +kernel
  have m3 : w64 (Memory.num (paging e id).mem 0x60000 8) = e := by
    rw [show Memory.num (paging e id).mem 0x60000 8 = e.toNat % 256 ^ 8 from Memory.num_write _ _ _ _]
    unfold w64
    apply BitVec.eq_of_toNat_eq
    rw [BitVec.toNat_ofNat]
    omega
  have f (lo n : Nat) : bf e lo n = (Config.pkgX * 2 ^ 52 + 2 ^ 50 + 0x8001F) / 2 ^ lo % 2 ^ n := by unfold bf fld; rw [hn]
  have g (i : Nat) : bit e i = decide ((Config.pkgX * 2 ^ 52 + 2 ^ 50 + 0x8001F) / 2 ^ i % 2 = 1) := by
    unfold bit BitVec.getLsbD
    rw [hn, Nat.testBit_eq_decide_div_mod_eq]
  have b0 : bit e 0 = true := by rw [g]; exact decide_eq_true (by omega)
  have b1 : bit e 1 = true := by rw [g]; exact decide_eq_true (by omega)
  have b2 : bit e 2 = true := by rw [g]; exact decide_eq_true (by omega)
  have c1 : bf e 52 12 = Config.pkgX := by rw [f]; omega
  have c2 : bf e 17 29 = 4 := by rw [f]; omega
  have c3 : bf e 7 10 = 0 := by rw [f]; omega
  have c4 : bf e 50 2 = 1 := by rw [f]; omega
  refine ⟨?_, c1, b1, ?_⟩
  · have r : ((paging e id).ctx 0).ptroot.toNat = 0x20000 := rfl
    have n1 : bf (0x40001 : W64) 17 29 * 2 ^ 17 = 0x40000 := by decide
    have n2 : bf (0x60001 : W64) 17 29 * 2 ^ 17 = 0x60000 := by decide
    have d1 : bit (0x40001 : W64) 0 = true ∧ bf (0x40001 : W64) 46 18 = 0 ∧ bf (0x40001 : W64) 1 16 = 0 := by decide
    have d2 : bit (0x60001 : W64) 0 = true ∧ bit (0x60001 : W64) 2 = false ∧ bf (0x60001 : W64) 46 18 = 0 ∧ bf (0x60001 : W64) 1 16 = 0 := by decide
    simp only [pageOf, r, Nat.zero_div, Nat.zero_mod, Nat.mul_zero, Nat.add_zero, m1, n1, m2, n2, m3, b0, b1, b2, c2, c3, c4, d1, d2]
    rfl
  · apply BitVec.eq_of_getLsbD_eq
    intro i hi
    rw [BitVec.getLsbD_and]
    by_cases h3 : i = 3
    · subst h3; rw [show e.getLsbD 3 = true from (g 3).trans (decide_eq_true (by omega))]; decide
    · by_cases h4 : i = 4
      · subst h4; rw [show e.getLsbD 4 = true from (g 4).trans (decide_eq_true (by omega))]; decide
      · have z : (0x18 : W64).getLsbD i = false := by
          interval_cases i <;> first | rfl | omega
        rw [z, Bool.and_false]

/-- A record of one vertex and no edge (n = 1), at address 0: gid table at 64, metric table at 72, coordinates at 80. -/
def edgeRec : List (Nat × Nat) :=
  [(0, 2 ^ 36 + 2 ^ 32 + 2 * 2 ^ 16 + 1), (8, 2 + 2 ^ 13), (16, 2 + 2 ^ 13), (24, 72 * 2 ^ 32 + 64), (32, 96 * 2 ^ 32), (40, 112), (48, 136),
   (64, 2 * 2 ^ 48 + 1), (72, 10), (80, 20), (88, 30), (96, 0x3F8000003F800000), (104, 0x3F800000)]

def edgeSlot : Slot := ⟨1, 2, 0, [0x1100020001, 0x2002, 0x2002]⟩

theorem test_wit_Complexes :
    (let s := on fun c => regs [(2, 0x20001), (4, 0x30000)] { c with slots := [none, none, some edgeSlot, none] }
     Safety.plain s [1, 2, 3] = true ∧ bf (s.rd 2) 32 32 = 0 ∧ bf (s.rd 2) 0 16 = edgeSlot.cplx ∧ bf (s.rd 2) 16 16 = edgeSlot.patch ∧
       (s.core.slotOf 1 2).isSome = true ∧ s.core.slots.getD 2 none = some edgeSlot ∧ s.core.slots.length = 4 ∧ s.rd 4 = 0x30000 ∧
       (s.core.slotOf 1 3) = none ∧ (0x3000 : W64) &&& ~~~0x33FFF = 0 ∧ bf 0x3000 16 2 ≠ 3 ∧ (0x40000 : W64) &&& ~~~0x33FFF ≠ 0) ∧
    (let s := mapped edgeRec (on fun c => { c with slots := [some edgeSlot, none, none, none] })
     s.core.slotOf 1 2 = some edgeSlot ∧ edgeSlot.total 0 = 2 ∧ edgeSlot.owned 0 = 2 ∧ bf (0x10000 : W64) 16 2 = 1 ∧ bf (0x20000 : W64) 16 2 = 2 ∧
       (match s.cplxLine edgeSlot.base 0 with | .ok _ => true | .error _ => false) = true ∧
       (match s.useRec edgeSlot (fun r => [(r.gidAt 0 0, 8)]) with | .ok _ => true | .error _ => false) = true) := by decide +kernel

/-- The first ghost of a patch of one own vertex and two vertices. -/
theorem test_wit_Complexes_ghost :
    let y : Slot := ⟨1, 2, 0, [0x1100020001, 1, 2]⟩
    let m := [(0, 2 ^ 36 + 2 ^ 32 + 2 * 2 ^ 16 + 1), (8, 1), (16, 2), (24, 80 * 2 ^ 32 + 64), (32, 96 * 2 ^ 32 + 88), (40, 120 * 2 ^ 32 + 96), (48, 120)]
    let s := mapped m (on fun c => { c with slots := [some y, none, none, none] })
    s.core.slotOf 1 2 = some y ∧ y.owned 0 = 1 ∧ y.total 0 = 2 ∧ (match s.useRec y (fun r => [(r.ghAt 0 1, 8)]) with | .ok _ => true | .error _ => false) = true := by
  decide +kernel

theorem test_wit_Complexes_load :
    let s := mapped edgeRec (on id)
    s.core.posted = [] ∧ (match (s.dropRec 0).cplxLine 0 0 with
      | .ok (bs, t) =>
        let w := (dwords bs 1).getD 0 0
        (t.core.slotOf (bf w 0 16) (bf w 16 16)).isNone && (upTo 4).find? (fun i => t.core.slots.getD i none == none) == some 0 &&
          t.drainAll.core.posted.isEmpty && (match (t.drainAll.dropRecordLines.dropRec 0).loadRec 0 with | .ok _ => true | .error _ => false)
      | .error _ => false) = true := by decide +kernel

/-- A descriptor in local memory whose record gives code 1 of R298, and one that none refuses. -/
theorem test_wit_Complexes_refine :
    let m (dw1 : Nat) : Memory := Memory.write (Memory.write [] 0x100 (bytesOf [0x500020001, w64 dw1, 0x100000000200, 0])) 0x200 [1]
    let s (dw1 : Nat) : State :=
      mapped edgeRec (on fun c => regs [(2, localBase + 0x100)] { c with slots := [some edgeSlot, none, none, none], lmem := m dw1 })
    let code (s : State) : Option (Option Nat) :=
      match s.unitDws (s.rd 2) 4 with
      | .error _ => none
      | .ok (ds, t) =>
        match t.core.slotOf (bf (ds.getD 0 0) 0 16) (bf (ds.getD 0 0) 16 16) with
        | none => none
        | some y =>
          match t.useRec y (fun r => r.tables) with
          | .error _ => none
          | .ok (r, u) =>
            let mark (e : Nat) : Bool := (u.core.locByte (bf (ds.getD 2 0) 0 18 + e / 8)).toNat / 2 ^ (e % 8) % 2 == 1
            let out := if r.n == 1 || r.n == 2 then r.output mark (bf (ds.getD 0 0) 32 16) (Config.freeBits u.tick) else []
            match crefCode u.core r ds mark out with
            | some k => some (some k)
            | none => if u.core.posted.isEmpty && decide ((ds.getD 1 0).toNat < winBase) && (match u.unitPut (ds.getD 1 0) out with | .ok v => !v.unitWaits | .error _ => false) then some none else none
    (s 0x1000).core.isOwn ((s 0x1000).rd 2).toNat = true ∧ (s 0x1000).core.far = none ∧ (s 0x1000).core.ownPosted = false ∧ code (s 0x1020) = some (some 1) ∧ code (s 0x1000) = some none := by decide +kernel

/-- A launch on this module and on one other: module 0, and the module that is not 0, or module 1. -/
def hiPkg : Nat := if Config.pkgX = 0 then 1 else Config.pkgX
def pkgEntry (n : Nat) : W64 := w64 (1099511627776 + n / 64 * 262144 + n % 64 * 64)
def abroad : Launch := { launch1 with lx := 2, remap := [pkgEntry 0, pkgEntry hiPkg], exch := 5 }

theorem hiPkg_lt : 0 < hiPkg ∧ hiPkg < 4096 := by
  have := pkgX_lt
  unfold hiPkg
  split <;> omega

theorem remapPkg_entry (n : Nat) (h : n < 4096) : remapPkg (pkgEntry n) = n ∧ bit (pkgEntry n) 40 = true := by
  have e : (pkgEntry n).toNat = 1099511627776 + n / 64 * 262144 + n % 64 * 64 := by
    unfold pkgEntry w64
    rw [BitVec.toNat_ofNat]
    omega
  constructor
  · unfold remapPkg bf fld
    rw [e]
    omega
  · unfold bit BitVec.getLsbD
    rw [e, Nat.testBit_eq_decide_div_mod_eq]
    exact decide_eq_true (by omega)

theorem packages_abroad : abroad.packages = [0, hiPkg] := by
  have h := hiPkg_lt
  have z := remapPkg_entry 0 (by omega)
  have n := remapPkg_entry hiPkg h.2
  have hne : (0 : Nat) ≠ hiPkg := by omega
  show (([pkgEntry 0, pkgEntry hiPkg].filter (bit · 40)).map remapPkg).dedup.insertionSort (· ≤ ·) = [0, hiPkg]
  have f : [pkgEntry 0, pkgEntry hiPkg].filter (bit · 40) = [pkgEntry 0, pkgEntry hiPkg] := by simp [z.2, n.2]
  have d : [0, hiPkg].dedup = [0, hiPkg] := List.Nodup.dedup (by simp [hne])
  rw [f, List.map_cons, List.map_cons, List.map_nil, z.1, n.1, d]
  simp [List.insertionSort]

/-- The cores have arrived at exchange 5, and this launch runs. -/
def exchanging (u : Launch) : State := launched u (on fun c => { c with xch := { c.xch with arrived := some 9, done := 5 } })

/-- A calendar of exchange 5 with one phase, from cycle 9000. -/
def cal5 : List W64 := [0x500000001, 9000, 2112 * 2 ^ 16, 0, 0, 0, 0, 0]

theorem test_wit_Circuits :
    (let s := exchanging abroad
     (s.queue 0).launch = some abroad ∧ 1 < abroad.packages.length ∧ (abroad.packages.take 2).contains Config.pkgX = true ∧
       1 + 1 = abroad.packages.length ∧ abroad.computed = [] ∧ s.readyCyc 0 abroad.exch = some 9 ∧ abroad.cal = none ∧ 8 ≤ cal5.length ∧
       calNo cal5 = abroad.exch % 2 ^ 32 ∧ s.cyc.toNat < calStart cal5 ∧
       abroad.packages[if (decide (Config.pkgX = 0)) then 1 else 0]? ≠ some Config.pkgX) ∧
    ([(5, cal5)].find? (·.1 == 5) = some (5, cal5) ∧ calStart cal5 ≤ 4904 + 4096) ∧
    (let c : Calendar := ⟨cal5, false, false, false, [0], [0], [], 0⟩
     0 < calNph c.words ∧ c.held.contains 0 = true ∧ c.sent.contains 1 = false ∧ calPhase c.words 0 + 2096 ≤ 11096 ∧ c.slipped < 2 ^ 32 ∧
       calPhase c.words 0 + calPlen c.words ≤ 11096 + 16 ∧ calPhase c.words (calNph c.words) ≤ 11112) := by
  have h := hiPkg_lt.1
  refine ⟨⟨rfl, ?_, ?_, ?_, rfl, rfl, rfl, by decide, rfl, by decide, ?_⟩, by decide +kernel, by decide +kernel⟩
  · simp [packages_abroad]
  · rw [packages_abroad]; unfold hiPkg; by_cases e : Config.pkgX = 0 <;> simp [e]
  · simp [packages_abroad]
  · rw [packages_abroad]
    by_cases e : Config.pkgX = 0
    · simp [e]; omega
    · simp [e]; omega

/-- A staged object of one word at address 0x400, and in the ring of queue 0, at 0x1000, the record `r`. -/
def staged (r : List Nat) (s : State) : State :=
  { mapped ([(0x400, 0x100000001)] ++ (List.range 8).map fun i => (0x1000 + 8 * i, r.getD i 0)) s with
    queues := [(0, { Queue.reset with qbase := 0x1000, log2n := 2, qtail := 1, ctl := 1, active := true })] }

/-- The module has booted. -/
def booted (s : State) : State := { s with bootst := 0x1000000B1 }

def okB {α β : Type} (e : Except α β) : Bool := match e with | .ok _ => true | .error _ => false

theorem test_wit_Publishing :
    (let s := staged [] (on (regs [(2, 0x400), (3, 24), (4, 0x401), (5, 0x40000000)]))
     Safety.plain s [1, 2, 3] = true ∧ s.core.posted = [] ∧ s.ctxOf s.core = 0 ∧ (s.ctx 0).pubq = [] ∧ (s.ctx 0).pubres = [] ∧ (s.rd 4).toNat % 64 ≠ 0 ∧
       (s.rd 2).toNat % 64 = 0 ∧ (match s.unitDws (s.rd 2) 2 with
         | .ok (h, t) => bf (h.getD 0 0) 32 32 == 1 && bf (h.getD 0 0) 16 16 == 0 && okB (t.unitDws (s.rd 2 + 16) 1)
         | .error _ => false) = true ∧ (s.rd 3).toNat = 16 + 8 * ((1 + 1) / 2) + 16 * 0 ∧ (s.rd 5).toNat % 64 = 0 ∧ okB (s.unitDws (s.rd 5) 2) = false) ∧
    (Staged.words ⟨0x100000001, 0, [0], 0, []⟩).length = bf 0x100000001 32 32 ∧
    (let a : PubReq := ⟨none, 0x400, 24, some (0, 0)⟩
     let s := staged [] { on id with ctxs := [] }
     let s := s.setCtx 0 fun x => { x with pubq := [a] }
     (s.ctx 0).pubq = [a] ∧ s.isCur 0 0 = true ∧ s.core.posted = [] ∧ okB (s.publish 0 State.unitDws 0x400 24) = true ∧
       okB ((on id).publish 0 State.unitDws 0x400 24) = false) ∧
    (let a : PubReq := ⟨some 0, 0x400, 24, none⟩
     let s := (staged [0x700000002, 0x400, 24] (on id)).setCtx 0 fun x => { x with pubq := [a] }
     let u := s.setCtx 0 fun x => { x with pubq := [] }
     (s.ctx 0).pubq = [a] ∧ (match u.record? 0 with | some (.ok _) => true | _ => false) = true ∧ okB (u.publish 0 (hubStage 0) 0x400 24) = true) ∧
    (let s (op : Nat) : State := staged [op] (on id)
     let good (op : Nat) : Bool := match (s op).record? 0 with | some (.ok r) => recOk r && bf (r.getD 0 0) 0 8 == op | _ => false
     good 2 = true ∧ good 0 = true ∧ (s 2).ctx 0 = (s 0).ctx 0 ∧ ((s 2).ctx 0).pubq = []) := by decide +kernel

/-- A context that may be created: all modules are its partition. -/
def whole : Ctx :=
  { Ctx.reset with ptroot := 0x20000, heapbase := 0x100000, heapsize := 0x20000, frbase := 6, part := w64 (Config.MX * 65536 + Config.MY * 16777216) }
def roomy (x : Ctx) : State := { on id with bootst := 0x1000000B1, ctxs := [(0, x)] }

theorem part_fields (m n : Nat) (hm : m ≤ 64) (hn : n ≤ 64) :
    bf (w64 (m * 65536 + n * 16777216)) 16 7 = m ∧ bf (w64 (m * 65536 + n * 16777216)) 24 7 = n ∧
    bf (w64 (m * 65536 + n * 16777216)) 0 6 = 0 ∧ bf (w64 (m * 65536 + n * 16777216)) 8 6 = 0 := by
  have e : (w64 (m * 65536 + n * 16777216)).toNat = m * 65536 + n * 16777216 := by
    unfold w64
    rw [BitVec.toNat_ofNat]
    omega
  unfold bf fld
  rw [e]
  omega

theorem ringPos_lt (n a b : Nat) (h : 0 < n) : ringPos n a b < n := Nat.mod_lt _ h

theorem whole_ok : (roomy whole).ctxOk 0 = true := by
  have hx : Config.MX ≤ 64 ∧ 0 < Config.MX := by unfold Config.MX; omega
  have hy : Config.MY ≤ 64 ∧ 0 < Config.MY := by unfold Config.MY; omega
  have c : (roomy whole).ctx 0 = whole := rfl
  obtain ⟨w, h, x0, y0⟩ := part_fields Config.MX Config.MY hx.1 hy.1
  replace w : whole.mw = Config.MX := w
  replace h : whole.mh = Config.MY := h
  replace x0 : whole.mx0 = 0 := x0
  replace y0 : whole.my0 = 0 := y0
  have f : whole.holds (Config.pkgX % 64) (Config.pkgX / 64) = true := by
    unfold Ctx.holds
    rw [w, h, decide_eq_true (ringPos_lt _ _ _ hx.2), decide_eq_true (ringPos_lt _ _ _ hy.2)]
    rfl
  have a : (roomy whole).populated (whole.ptroot.toNat / 2 ^ 17) = true := by decide +kernel
  have b : (whole.ptroot.toNat % 2 ^ 17 == 0 && whole.heapbase != 0 && decide (whole.heapbase.toNat + whole.heapsize.toNat ≤ winBase) && whole.heapsize != 0
    && decide (6 ≤ bf whole.frbase 0 5) && decide (bf whole.frbase 0 5 ≤ 16)) = true := by decide +kernel
  simp only [Bool.and_eq_true, decide_eq_true_eq] at b
  unfold State.ctxOk
  simp only [c, w, h, x0, y0, f, a, Bool.and_eq_true, decide_eq_true_eq]
  exact ⟨⟨⟨⟨⟨⟨⟨⟨⟨⟨⟨⟨⟨trivial, b.1.1.1.1.1⟩, b.1.1.1.1.2⟩, b.1.1.1.2⟩, b.1.1.2⟩, hx.2⟩, le_refl _⟩, hy.2⟩, le_refl _⟩, by omega⟩, by omega⟩, trivial⟩, b.1.2⟩, b.2⟩

theorem test_wit_HostQueues :
    (bf (on id).bootst 0 4 ≠ 1 ∧ bf (roomy whole).bootst 0 4 = 1 ∧ ((roomy whole).ctx 0).st = 0 ∧ (roomy whole).ctxOk 0 = true) ∧
    (let s := roomy { whole with st := 2 }; (s.ctx 0).st = 2 ∧ s.queues = []) ∧ ((roomy whole).ctx 0).st ≠ 2 ∧
    (let s := { mapped [] (on id) with queues := [(3, { Queue.reset with ctl := 1, log2n := 4 })] }
     let u := s.setQueue 3 fun v => { v with qtail := 5 % 65536 }
     u.slotsUsed < 32 ∧ u.nextQueue = some 3 ∧ s.nextQueue = none ∧ bf s.bootst 0 4 = 1) ∧
    (let s := booted { on id with queues := [(3, { Queue.reset with err := true })] }; bf s.bootst 0 4 = 1 ∧ (s.queue 3).err = true ∧ (s.queue 4).err = false) ∧
    (bf 0 0 7 = 0 ∧ (whole.tlbq).length < 16 ∧ bf 1 0 7 ≠ 0 ∧ 16 ≤ (List.replicate 16 (0 : W64)).length) ∧
    (let s := roomy { whole with tlbq := [5] }; (s.ctx 0).tlbq = [5] ∧ Safety.settled s = true ∧ s.peers = [] ∧ s.reqs = [] ∧ bf (5 : W64) 46 2 ≠ 1 ∧
       ({ s with reqs := [⟨5, 0, 0, .load, .far 1 0 0x80000 false 1, 8⟩] } : State).reqs ≠ []) ∧
    (let r : FaultRec := ⟨0, false, [1, 2, 3, 4, 5, 6, 7, 8]⟩
     let s (x : Ctx) : State := { roomy x with dies := [(7, { Die.reset with faultq := [r] })] }
     ((s whole).die 7).faultq = [r] ∧ (∀ e, e < 8 → e ≠ 7 → ((s whole).die e).faultq = []) ∧ ((s whole).ctx r.ctx).ringFull = false ∧
       ((s { whole with frtail := 63 }).ctx r.ctx).ringFull = true ∧ (s whole).core.unsent = none ∧ (s whole).peers = [] ∧ r.dws.length = 8) := by
  refine ⟨⟨by decide, by decide, rfl, whole_ok⟩, ⟨rfl, rfl⟩, by decide, by decide +kernel, by decide +kernel, by decide +kernel, ⟨rfl, by decide +kernel, rfl, rfl, by decide +kernel, by decide +kernel⟩, ?_⟩
  exact ⟨rfl, by decide +kernel, by decide +kernel, by decide +kernel, rfl, rfl, rfl⟩

/-- A launch on four cores of this module's first router, and the context whose partition is this module. -/
def base : Nat := Config.pkgX * 16384
def home : Launch := { launch1 with remap := [pkgEntry Config.pkgX], tasks := [] }
def siteCtx : Ctx := { Ctx.reset with st := 2, part := w64 (Config.siteX % Config.MX + Config.siteY % Config.MY * 256 + 16842752) }

theorem site : Config.pkgX % 64 = Config.siteX % Config.MX ∧ Config.pkgX / 64 = Config.siteY % Config.MY ∧
    Config.siteX % Config.MX < Config.MX ∧ Config.siteY % Config.MY < Config.MY ∧ Config.MX ≤ 64 ∧ Config.MY ≤ 64 := by
  have hx : Config.siteX % Config.MX < Config.MX := Nat.mod_lt _ (Nat.succ_pos _)
  have hy : Config.siteY % Config.MY < Config.MY := Nat.mod_lt _ (Nat.succ_pos _)
  have hX : Config.MX ≤ 64 := by unfold Config.MX; omega
  have hY : Config.MY ≤ 64 := by unfold Config.MY; omega
  unfold Config.pkgX
  generalize Config.siteX % Config.MX = x at *
  generalize Config.siteY % Config.MY = y at *
  omega

theorem pcidOf_home (a : Launch) (n l : Nat) (hn : n < 4096) (hl : l < 4) (hr : a.remap = [pkgEntry n]) : a.pcidOf l = some (n * 16384 + l) := by
  have e := remapPkg_entry n hn
  have f : (pkgEntry n).toNat = 1099511627776 + n / 64 * 262144 + n % 64 * 64 := by
    unfold pkgEntry w64
    rw [BitVec.toNat_ofNat]
    omega
  have g : bf (pkgEntry n) 0 12 % 64 = 0 ∧ bf (pkgEntry n) 12 12 % 64 = 0 := by
    unfold bf fld
    rw [f]
    omega
  have h : l / 4 = 0 := by omega
  unfold Launch.pcidOf
  rw [hr, h]
  have k : n * 2 ^ 14 + 0 * 2 ^ 8 + 0 * 4 + l % 4 = n * 16384 + l := by omega
  show (if bit (pkgEntry n) 40 then _ else _) = _
  rw [if_pos e.2, e.1, g.1, g.2, k]

theorem pcPkg_n (n l : Nat) (hn : n < 4096) (hl : l < 4) : pcPkg (n * 16384 + l) = n ∧ pcX (n * 16384 + l) = 64 * (n % 64) ∧ pcY (n * 16384 + l) = 64 * (n / 64) := by
  unfold pcPkg pcX pcY fld
  omega

theorem first_four {α : Type} (f : Nat → Option α) (g : Nat → α) (h : ∀ l, l < 4 → f l = some (g l)) :
    (upTo (1 * 1 * 4)).filterMap f = [g 0, g 1, g 2, g 3] := by
  show [0, 1, 2, 3].filterMap f = _
  simp [h]

theorem hereCores_home (a : Launch) (h : a.lx = 1 ∧ a.ly = 1) (hr : a.remap = [pkgEntry Config.pkgX]) :
    a.hereCores = [(0, base + 0), (1, base + 1), (2, base + 2), (3, base + 3)] := by
  unfold Launch.hereCores
  rw [h.1, h.2]
  refine first_four _ (fun l => (l, base + l)) fun l hl => ?_
  rw [pcidOf_home a Config.pkgX l pkgX_lt hl hr]
  exact if_pos (pcPkg_n Config.pkgX l pkgX_lt hl).1

theorem aligned_one (x : Nat) : alignedSide 1 x 1 4 = true ∧ alignedSide 1 x 1 32 = true ∧ alignedSide 1 x 1 16 = true ∧ alignedSide 1 x 1 64 = true := by
  refine ⟨?_, ?_, ?_, ?_⟩ <;> simp [alignedSide, cdiv, upTo]

theorem ring_self (m x : Nat) (h : x < m) : ringPos m x x < 1 := by
  unfold ringPos
  rw [Nat.mod_eq_of_lt h, Nat.add_sub_cancel_left, Nat.mod_self]
  exact Nat.one_pos

theorem site_part (x y : Nat) (hx : x < 64) (hy : y < 64) :
    bf (w64 (x + y * 256 + 16842752)) 0 6 = x ∧ bf (w64 (x + y * 256 + 16842752)) 8 6 = y ∧
    bf (w64 (x + y * 256 + 16842752)) 16 7 = 1 ∧ bf (w64 (x + y * 256 + 16842752)) 24 7 = 1 := by
  have e : (w64 (x + y * 256 + 16842752)).toNat = x + y * 256 + 16842752 := by
    unfold w64
    rw [BitVec.toNat_ofNat]
    omega
  unfold bf fld
  rw [e]
  omega

theorem site_holds : siteCtx.holds (Config.siteX % Config.MX) (Config.siteY % Config.MY) = true := by
  obtain ⟨-, -, hx, hy, hX, hY⟩ := site
  obtain ⟨a, b, c, d⟩ := site_part _ _ (Nat.lt_of_lt_of_le hx hX) (Nat.lt_of_lt_of_le hy hY)
  replace a : siteCtx.mx0 = _ := a
  replace b : siteCtx.my0 = _ := b
  replace c : siteCtx.mw = 1 := c
  replace d : siteCtx.mh = 1 := d
  unfold Ctx.holds
  rw [a, b, c, d, decide_eq_true (ring_self _ _ hx), decide_eq_true (ring_self _ _ hy)]
  rfl

theorem torus_at (m x : Nat) (h : x < m) : 64 * x < 64 * m ∧ (64 * x / 64 * 64 + 0) % (64 * m) / 64 = x ∧ 64 * x % 64 = 0 ∧ 64 * x / 64 = x ∧ 1 ≤ 64 * m := by
  have e : 64 * x / 64 = x := by omega
  refine ⟨by omega, ?_, by omega, e, by omega⟩
  rw [e, Nat.mod_eq_of_lt (by omega)]
  omega

theorem placeOk_home (s : State) (n : Nat) (a : Launch) (h : a.lx = 1 ∧ a.ly = 1 ∧ a.fold = 1 ∧ a.spread = 0) (hc : s.ctx n = siteCtx) :
    s.placeOk n a [(64 * (Config.siteX % Config.MX), 64 * (Config.siteY % Config.MY))] = true := by
  obtain ⟨-, -, hx, hy, -, -⟩ := site
  obtain ⟨x1, -, x3, x4, -⟩ := torus_at _ _ hx
  obtain ⟨y1, -, y3, y4, -⟩ := torus_at _ _ hy
  have p := aligned_one (64 * (Config.siteX % Config.MX))
  have q := aligned_one (64 * (Config.siteY % Config.MY))
  have f0 : foldXY a.foldF = (1, 1) := by unfold Launch.foldF; rw [h.2.2.1]; decide
  have d : a.doms = [(0, 0)] := by unfold Launch.doms; rw [h.1, h.2.1]; decide
  have z : a.domSize (0, 0) = (1, 1) := by unfold Launch.domSize; rw [f0, h.1, h.2.1]; decide
  have g : s.domOk n a (0, 0) (64 * (Config.siteX % Config.MX), 64 * (Config.siteY % Config.MY)) = true := by
    unfold State.domOk
    simp only [f0, z, h.1, h.2.1, hc, x3, y3, x4, y4, site_holds, show torusW = 64 * Config.MX from rfl, show torusH = 64 * Config.MY from rfl,
      decide_eq_true x1, decide_eq_true y1, show Min.min 64 (1 - 64 * 0) = 1 from rfl, p.1, p.2.1, q.1, q.2.2.1]
    rfl
  unfold State.placeOk
  simp [d, g, h.2.2.2, allApart]

/-- The record `r` in queue 0, of a context that spans one module, and at 0x2000 an image of one code segment, the object staged at 0x20C0. -/
def imaged (r : List Nat) (s : State) : State :=
  let img := [0x0100000001000001, 0, 2 ^ 48, 152 * 2 ^ 32 + 128, 0, 256, 0, 0, 0, 0, 0, 0, 0, 0, 0, 0, 24 * 2 ^ 32 + 2, 0, 192, 0, 0, 0, 0, 0, 0x100000001, 0, 0]
  let t := staged r s
  { t with mem := (List.range 27).foldl (fun m i => Memory.write m (0x82000 + 8 * i) (toBytes 8 (img.getD i 0))) t.mem,
           ctxs := t.ctxs.map fun x => (x.1, { x.2 with part := 0x1010000 }) }

/-- The first four cores of the module, placed for launch `a` in queue 0. -/
def waking (a : Launch) : State :=
  { launched a State.reset with
    peers := [0, 1, 2, 3].map fun l => { Machine.Core.reset with placed := true, pcid := base + l, lcn := w64 l, ncores := 4 } }

theorem test_wit_Launches_record :
    let s (r : List Nat) : State := imaged r (on id)
    let rec? (r : List Nat) : List W64 := match (s r).record? 0 with | some (.ok x) => if recOk x && bf (x.getD 0 0) 0 8 == 1 then x else [] | _ => []
    rec? [1, 0x2000] ≠ [] ∧ rec? [0x101, 0x2000, 0, 0x400, 1] ≠ [] ∧
    (s [0x101, 0x2000, 0, 0x400, 1]).predicate 0 (rec? [0x101, 0x2000, 0, 0x400, 1]) = some false ∧ (s [1, 0x2000]).predicate 0 (rec? [1, 0x2000]) = some true ∧
    (s [1, 0x2000]).baseTaken 0 = false ∧ ({ s [1] with queues := (s [1]).queues ++ [(1, { Queue.reset with launch := some launch1 })] } : State).baseTaken 0 = true ∧
    (s [1, 0]).readImage 0 0 = none ∧
    (match (s [1, 0x2000]).readImage 0 0x2000 with
     | some i => (upTo i.segs.length).all ((s [1, 0x2000]).segRefsOk 0 0x2000 i) &&
       (match (s [1, 0x2000]).imageObjs 0 0x2000 i with | (.ok _, t) => (match foldFor (t.ctx 0) i with | .ok f => f == 0 | _ => false) | _ => false)
     | none => false) = true := by decide +kernel

theorem test_wit_Launches_place :
    let a : Launch := { home with stage := 0, remap := [] }
    let s := { launched a State.reset with ctxs := [(0, siteCtx)] }
    (s.queue 0).launch = some a ∧ (s.queue 0).active = true ∧ a.stage = 0 ∧ (∀ k, s.busyCore k = false) ∧
      s.placeOk 0 a [(64 * (Config.siteX % Config.MX), 64 * (Config.siteY % Config.MY))] = true := by
  refine ⟨rfl, rfl, rfl, fun k => ?_, placeOk_home _ _ _ ⟨rfl, rfl, rfl, rfl⟩ rfl⟩
  show (0 == k && false || false) = false
  simp

theorem test_wit_Launches_wake :
    let a : Launch := { home with stage := 1 }
    let s := waking a
    let mine := a.hereCores.filter fun e => pcX e.2 == 64 * (Config.pkgX % 64) && pcY e.2 == 64 * (Config.pkgX / 64)
    (s.queue 0).launch = some a ∧ a.stage ≠ 0 ∧ (64 * (Config.pkgX % 64), 64 * (Config.pkgX / 64)) ∉ a.woken ∧ mine = a.hereCores ∧ mine ≠ [] ∧
      (∀ e ∈ mine, a.lowest e.1 e.2 = true) ∧ s.isCur 0 3 = false ∧ s.find 0 3 = some 3 ∧ (s.peers[3]?).isSome = true := by
  intro a s mine
  have h : a.hereCores = [(0, base + 0), (1, base + 1), (2, base + 2), (3, base + 3)] := hereCores_home a ⟨rfl, rfl⟩ rfl
  have p (l : Nat) (hl : l < 4) : (pcX (base + l) == 64 * (Config.pkgX % 64) && pcY (base + l) == 64 * (Config.pkgX / 64)) = true := by
    have q := (pcPkg_n Config.pkgX l pkgX_lt hl).2
    rw [show base + l = Config.pkgX * 16384 + l from rfl, q.1, q.2, beq_self_eq_true, beq_self_eq_true]
    rfl
  have m : mine = a.hereCores := by
    refine List.filter_eq_self.2 fun e he => ?_
    rw [h] at he
    simp only [List.mem_cons, List.not_mem_nil, or_false] at he
    obtain rfl | rfl | rfl | rfl := he <;> exact p _ (by omega)
  refine ⟨rfl, by decide, List.not_mem_nil, m, by rw [m, h]; simp, fun e he => ?_, by decide +kernel, by decide +kernel, rfl⟩
  rw [m, h] at he
  unfold Launch.lowest
  rw [h]
  simp only [List.mem_cons, List.not_mem_nil, or_false] at he
  obtain rfl | rfl | rfl | rfl := he <;> simp

theorem test_wit_Launches_slots :
    let act (n p : Nat) : Nat × Queue := (n, { Queue.reset with active := true, ctl := w64 (1 + 4 * p) })
    let one : Nat × Queue := (40, { Queue.reset with ctl := 9, log2n := 2, qtail := 1 })
    let s (p k : Nat) : State :=
      let t : State := { mapped [] (on id) with queues := one :: (List.range k).map fun n => act n p }
      { t with queues := t.queues.map fun v => (v.1, { v.2 with prio := bf v.2.ctl 2 2 }) }
    ({ s 0 0 with queues := [] } : State).nextQueue = none ∧ (s 1 3).nextQueue = some 40 ∧ (s 1 3).slotsUsed < 32 ∧ (s 1 32).nextQueue = some 40 ∧
      32 ≤ (s 1 32).slotsUsed ∧ (((s 1 32).queues.map (·.1)).Nodup) ∧ (∀ v ∈ (s 1 32).queues, v.2.active = true → v.2.prio < ((s 1 32).queue 40).prio) ∧
      (s 3 32).nextQueue = some 40 ∧ 32 ≤ (s 3 32).slotsUsed ∧ (((s 3 32).queues.map (·.1)).Nodup) ∧
      (∃ v ∈ (s 3 32).queues, v.2.active = true ∧ ((s 3 32).queue 40).prio ≤ v.2.prio) := by decide +kernel

/-- 32 holders and a waiting queue, of which 33 are eligible, and 32 when a holder has been disabled. -/
theorem test_wit_Launches_eligible :
    let act (n : Nat) : Nat × Queue := (n, { Queue.reset with active := true, ctl := 13, prio := 3, log2n := 2, qtail := 1 })
    let one : Nat × Queue := (40, { Queue.reset with ctl := 9, prio := 2, log2n := 2, qtail := 1 })
    let s (off : Nat) : State :=
      { mapped [] (on id) with queues := (one :: (List.range 32).map act).map fun v => (v.1, if v.1 = off then { v.2 with ctl := 12 } else v.2) }
    let same (s : State) : Prop := { s with queues := s.queues.map fun v => (v.1, { v.2 with prio := bf v.2.ctl 2 2 }) } = s
    (same (s 99) ∧ (s 99).nextQueue = some 40 ∧ 32 ≤ (s 99).slotsUsed ∧ 32 < ((s 99).queues.filter fun v => (s 99).eligible v.2).length ∧
      ((s 99).queues.map (·.1)).Nodup ∧ ∃ v ∈ (s 99).queues, v.2.active = true ∧ ((s 99).queue 40).prio ≤ v.2.prio) ∧
    (same (s 5) ∧ (s 5).nextQueue = some 40 ∧ 32 ≤ (s 5).slotsUsed ∧ ((s 5).queues.filter fun v => (s 5).eligible v.2).length ≤ 32) ∧
    (let low (s : State) : State := { s with queues := s.queues.map fun v => (v.1, if v.1 = 40 then v.2 else { v.2 with ctl := 1, prio := 0 }) }
     let t := low (s 99)
     same t ∧ t.nextQueue = some 40 ∧ 32 ≤ t.slotsUsed ∧ 32 < (t.queues.filter fun v => t.eligible v.2).length ∧
       ∀ v ∈ t.queues, v.2.active = true → v.2.prio < (t.queue 40).prio) := by decide +kernel

/-- A launch that lies wholly on another module. -/
theorem test_wit_Launches_abroad : ∃ p, p ≠ Config.pkgX ∧
    (let a : Launch := { home with stage := 1, remap := [pkgEntry p] }
     ((launched a State.reset).queue 0).launch = some a ∧ a.stage = 1 ∧ a.hereCores = [] ∧ (launched a State.reset).members 0 = []) := by
  have key (p : Nat) (hp : p < 2) (h : p ≠ Config.pkgX) : ({ home with stage := 1, remap := [pkgEntry p] } : Launch).hereCores = [] := by
    unfold Launch.hereCores
    rw [List.filterMap_eq_nil_iff]
    intro l hl
    have hl : l < 4 := by simpa [upTo, home, launch1] using hl
    rw [pcidOf_home _ p l (by omega) hl rfl]
    exact if_neg (by rw [(pcPkg_n p l (by omega) hl).1]; exact h)
  by_cases h : Config.pkgX = 0
  · exact ⟨1, by omega, rfl, rfl, key 1 (by omega) (by omega), by decide +kernel⟩
  · exact ⟨0, fun e => h e.symm, rfl, rfl, key 0 (by omega) fun e => h e.symm, by decide +kernel⟩

theorem test_wit_Launches_end :
    (let s := launched launch1 (on fun c => { c with st := .done })
     (s.queue 0).launch = some launch1 ∧ launch1.stage = 2 ∧ (∀ c ∈ s.members 0, c.st = .done ∧ c.posted = [] ∧ c.cf.reqs = []) ∧ s.reqs = []) ∧
    (let s := booted (launched launch1 (on id))
     bf s.bootst 0 4 = 1 ∧ bf 3 0 2 = 3 ∧ bit 3 2 = false ∧ bit 3 3 = false ∧ bf 3 14 2 = 0 ∧ bf 3 58 6 = 0 ∧ bf 3 4 10 = 0 ∧ (s.queue 0).ctx = 0 ∧ (s.queue 0).launch.isSome = true ∧
       (s.queue 0).ctx ≠ 1) ∧
    (let a := { launch1 with woken := [(0, 0)] }; ((launched a (on id)).queue 0).launch = some a ∧ (0, 0) ∈ a.woken) := by decide +kernel

/-- The command word of the host: operation, logical core 0 of queue 0, and TSEQ. -/
theorem test_wit_HostAnswers_commands :
    let named (s : State) : Bool := decide ((s.queue 0).ctx = 0) && (s.queue 0).launch.isSome && s.isCur 0 0 && (s.find 0 0).isNone
    let w (op tseq : Nat) : W64 := w64 (op + tseq * 65536)
    let s := booted (launched launch1 (placed [0x91004000] fun c => { c with st := .trapped, tseq := 3, epc := 0x1000, cause := 7 }))
    let f : Far := ⟨5, 0x40, (0, 0, 0), false, [], false, none, none⟩
    let r : Machine.Req := ⟨5, 0, 0, .load, .far 1 0 0 false 1, 8⟩
    let e : Posted := ⟨.far 1 0 0x80000 false 1, [1], false, 6, 0x80, true⟩
    let g := booted { launched launch1 (on fun c => { c with st := .waiting, far := some f }) with reqs := [r] }
    let h := booted (launched launch1 (on fun c => { c with st := .waiting }))
    let k := booted { launched launch1 (on fun c => { c with st := .waiting, posted := [e], latch := some 0x7C000060 }) with
      reqs := [⟨6, 0, 0, .posted, .far 1 0 0x80000 false 1, 8⟩] }
    (∀ t ∈ [s, g, h, k], named t = true ∧ bf t.bootst 0 4 = 1 ∧ t.core.shadow = none) ∧
    (∀ op, op < 3 → bf (w op 3) 14 2 = 0 ∧ bit (w op 3) 3 = false ∧ bf (w op 3) 58 6 = 0 ∧ bit (w op 3) 2 = false ∧ bf (w op 3) 0 2 = op) ∧
    bf (w 1 3) 16 16 = s.core.tseq ∧ bf (w 1 4) 16 16 ≠ s.core.tseq ∧ s.core.st = .trapped ∧ s.core.raised = 0 ∧ s.core.cause ≠ 0x09#64 ∧
    bit s.core.shdone 31 = false ∧ bit s.core.rptst 63 = false ∧ ({ s with core := { s.core with pc := s.core.epc } } : State).wordAt.isSome = true ∧
    decode 0x91004000 = .ok (.vadd 4 0 1 0 0) ∧ (0x91004000 : W32).toNat / 2 ^ 26 ≠ 62 ∧
    (bit (w 4 0) 2 = true ∧ bf (w 4 0) 0 2 = 0 ∧ g.core.st = .waiting ∧ g.core.far = some f ∧ r ∈ g.reqs ∧ r.use = .load ∧ r.tag = f.tag ∧
      h.core.st = .waiting ∧ h.reqs = [] ∧ h.core.posted = []) ∧
    ((∀ r ∈ k.reqs, r.use = .posted) ∧ k.core.arrival = none ∧ k.core.xch.arrived = none ∧ decode 0x7C000060 = .ok (.fence 0 0 0) ∧ k.core.posted = [e] ∧
      e.place.here = false) := by decide +kernel

theorem test_wit_HostAnswers_readback :
    let w (k : Nat) : W64 := w64 (k + 9 * 65536)
    let s (st : CoreSt) : State := booted (on fun c => { c with st := st })
    bf (s .done).bootst 0 4 = 1 ∧ (∀ k, k < 3 → bf (w k) 0 2 = k ∧ ((s .done).rbTarget 0 (w k)).isSome = true ∧ (s .done).rbTarget 1 (w k) = none) ∧
    ((s .running).rbTarget 0 (w 0)).map (·.st) = some .running ∧ ((s .done).rbTarget 0 (w 0)).map (·.st) = some .done ∧
    (s .done).core.lmem = [] ∧ (s .done).core.tiles = [] ∧ (s .done).core.slots.length = 4 ∧
    (let t := s .saved; (t.rbTarget 0 (w 0)).map (·.st) = some .saved ∧ (t.coreImage 0 t.core).isNone = true) ∧
    (let own : Race := ⟨some (0, 0, 0), none, [], [], []⟩
     let t (word : W32) : State := booted { on (fun c => { c with st := .waiting, latch := some word }) with yards := [(0, { Yard.reset with race := own })] }
     ((t 0xA8042820).yard 0).race = own ∧ (t 0xA8042820).raceBusy own = true ∧ (t 0).raceBusy own = false ∧ ((t 0).rbTarget 0 (w 1)).map (pcYard ·.pcid) = some 0) :=
  by decide +kernel

/-- A translation that an entry of the yard TLB gives reads no memory: page j of context 0 for the hub, whatever the memory holds. -/
theorem paged_hit (s : State) (e : TlbE) (va : Nat) (h1 : (s.ctx (s.ctxOf s.core)).inHeap va = false)
    (h2 : (s.yard (pcYard s.core.pcid)).tlb.find? (TlbE.hit · (s.ctxOf s.core) va) = some e) (h3 : Acc.allowed .store e.pte = true) (h4 : bit e.pte 1 = false)
    (h5 : bf e.pte 50 2 = 0) (h6 : e.big = false) (h7 : s.populated ((bf e.pte 17 29 * 2 ^ 17 + va % 2 ^ 17) / 2 ^ 17) = true) :
    s.paged false .store va = .ok (.mem (bf e.pte 17 29 * 2 ^ 17 + va % 2 ^ 17) 0, s) := by
  unfold State.paged State.leaf
  simp only [h1, Bool.false_and, Bool.false_eq_true, if_false, h2, h3, Bool.not_true, h4, h5, h6, beq_self_eq_true, Bool.true_or, if_true, h7]

/-- A state whose yard TLB maps the pages of the record of LCN 0. -/
def savedOn : State :=
  { (mapped [] (on id)).setYard 0 (fun y => { y with tlb := (List.range 3).map fun j => ⟨0, 0x20000 * j, false, w64 (0x8003D + 0x20000 * j), 0⟩ }) with
    queues := [(0, { Queue.reset with launch := some launch1 })] }

/-- Each page of the record is written to memory, whatever the record and the memory hold. -/
theorem savedOn_page (m : Memory) (j : Nat) (img : List Host.Cell) (hj : j < 3) : ∃ m', { savedOn with mem := m }.savePage 0 j img = .ok { savedOn with mem := m' } := by
  have key (e : TlbE) (h1 : (savedOn.ctx (savedOn.ctxOf savedOn.core)).inHeap (0 + 0x20000 * j) = false)
      (h2 : (savedOn.yard (pcYard savedOn.core.pcid)).tlb.find? (TlbE.hit · (savedOn.ctxOf savedOn.core) (0 + 0x20000 * j)) = some e)
      (h3 : Acc.allowed .store e.pte = true) (h4 : bit e.pte 1 = false) (h5 : bf e.pte 50 2 = 0) (h6 : e.big = false)
      (h7 : savedOn.populated ((bf e.pte 17 29 * 2 ^ 17 + (0 + 0x20000 * j) % 2 ^ 17) / 2 ^ 17) = true) :
      ∃ m', { savedOn with mem := m }.savePage 0 j img = .ok { savedOn with mem := m' } :=
    ⟨_, savePage_mem _ { savedOn with mem := m } _ _ _ _ _ (by unfold winBase; omega) (paged_hit { savedOn with mem := m } e _ h1 h2 h3 h4 h5 h6 h7)⟩
  obtain rfl | rfl | rfl : j = 0 ∨ j = 1 ∨ j = 2 := by omega
  · exact key ⟨0, 0, false, 0x8003D, 0⟩ (by decide +kernel) (by decide +kernel) (by decide) (by decide) (by decide) rfl (by decide +kernel)
  · exact key ⟨0, 0x20000, false, 0xA003D, 0⟩ (by decide +kernel) (by decide +kernel) (by decide) (by decide) (by decide) rfl (by decide +kernel)
  · exact key ⟨0, 0x40000, false, 0xC003D, 0⟩ (by decide +kernel) (by decide +kernel) (by decide) (by decide) (by decide) rfl (by decide +kernel)

theorem test_wit_HostAnswers_save :
    savedOn.isCur 0 0 = true ∧ savedOn.core.st = .running ∧ savedOn.core.shadow = none ∧ gangRole savedOn.core.gangst = 0 ∧ Safety.settled savedOn = true ∧
      savedOn.saveable = true ∧ (savedOn.launchOf savedOn.core).isSome = true ∧ (savedOn.queue 0).active = false ∧
      ∃ s1 s2 s3, savedOn.savePage (savedOn.recBase savedOn.core) 0 savedOn.record = .ok s1 ∧ s1.savePage (savedOn.recBase savedOn.core) 1 savedOn.record = .ok s2 ∧
        s2.savePage (savedOn.recBase savedOn.core) 2 savedOn.record = .ok s3 := by
  have b : savedOn.recBase savedOn.core = 0 := by decide +kernel
  refine ⟨by decide +kernel, by decide, by decide, by decide, by decide, by decide +kernel, by decide, by decide, ?_⟩
  rw [b]
  generalize savedOn.record = img
  obtain ⟨m1, h1⟩ := savedOn_page savedOn.mem 0 img (by omega)
  obtain ⟨m2, h2⟩ := savedOn_page m1 1 img (by omega)
  obtain ⟨m3, h3⟩ := savedOn_page m2 2 img (by omega)
  exact ⟨_, _, _, h1, h2, h3⟩

/-- The yard of a core of this module depends on its place alone. -/
theorem pcYard_here (n : Nat) : pcYard (Config.pkgX * 2 ^ 14 + n) = pcYard n := by
  have x : pcRx (Config.pkgX * 2 ^ 14 + n) = pcRx n := by unfold pcRx fld; omega
  have y : pcRy (Config.pkgX * 2 ^ 14 + n) = pcRy n := by unfold pcRy fld; omega
  unfold pcYard pcDie
  rw [x, y]

theorem test_wit_HostAnswers_restore :
    let c := mate 0 fun c => { c with st := .saved }
    let s := launched home { mapped [] State.reset with peers := [c] }
    let k := Config.pkgX * 2 ^ 14 + 8
    s.find 0 0 = some 0 ∧ s.peers[0]? = some c ∧ c.st = .saved ∧ c.saveTrapped = false ∧ s.busyCore k = false ∧
      ((s.restored c).map (·.saveTrapped)) = some false ∧ s.mayRestore 0 0 k = true ∧ s.mayRestore 0 0 (k + 1) = false := by
  intro c s k
  have h : k % 4 = 0 ∧ (k + 1) % 4 = 1 := by omega
  have p : pcPkg k = Config.pkgX := pcPkg_here 8 (by decide)
  have l : (s.queue 0).launch = some home := rfl
  have i : home.pcidOf 0 = some (Config.pkgX * 16384 + 0) := pcidOf_home home _ 0 pkgX_lt (by decide) rfl
  have r : s.runnable 0 home 0 = true := rfl
  have y : (pcYard (Config.pkgX * 16384 + 0) == pcYard k) = true := by
    have e : (16384 : Nat) = 2 ^ 14 := by norm_num
    rw [e, pcYard_here 0, show pcYard k = pcYard (Config.pkgX * 2 ^ 14 + 8) from rfl, pcYard_here 8]
    decide
  have m (x : Nat) : s.mayRestore 0 0 x = ((s.queue 0).active && home.stage != 0 && x % 4 == 0 && pcPkg x == Config.pkgX
      && (pcYard (Config.pkgX * 16384 + 0) == pcYard x) && s.runnable 0 home 0) := by
    unfold State.mayRestore
    rw [l]
    simp only [i]
    rfl
  refine ⟨by decide, rfl, rfl, rfl, ?_, by decide +kernel, ?_, ?_⟩
  · have e : s.allCores = [Machine.Core.reset, c] := rfl
    unfold State.busyCore
    rw [e]
    show (_ && false || (_ && false || false)) = false
    simp
  · rw [m, h.1, p, r, y, beq_self_eq_true, beq_self_eq_true]; rfl
  · rw [m, h.2]; simp

theorem layBlocks_ge (o : Nat) (bs : List (List Host.Cell × Nat)) : o ≤ (layBlocks o bs).2 := by
  induction bs generalizing o with
  | nil => exact le_refl _
  | cons b r ih =>
    obtain ⟨cs, n⟩ := b
    have := ih (o + n)
    show o ≤ (layBlocks (o + n) r).2
    omega

theorem layBlocks_first (cs : List Host.Cell) (n : Nat) (a b c d : List (List Host.Cell × Nat)) :
    n ≤ (layBlocks 0 ([(cs, n)] ++ a ++ b ++ c ++ d)).2 := by
  have h := layBlocks_ge (0 + n) (a ++ b ++ c ++ d)
  rw [show [(cs, n)] ++ a ++ b ++ c ++ d = (cs, n) :: (a ++ b ++ c ++ d) by simp]
  show n ≤ (layBlocks (0 + n) (a ++ b ++ c ++ d)).2
  omega

theorem capture_ge (s : State) : 4096 ≤ s.capture.2 := by
  have h := layBlocks_first (cellsOf (toBytes 8 s.cyc.toNat)) 4096
  unfold State.capture
  generalize 4096 = n at h ⊢
  exact h _ _ _ _

theorem test_wit_Management :
    (on id).recovering = false ∧ ({ on id with bootst := 0xB2 } : State).recovering = true ∧ 0 < (on id).capture.2 ∧ (on id).capture.2 ≤ (on id).capture.2 ∧
    ([] : List Byte).length ≠ 32 ∧ (List.replicate 32 (0 : Byte)).length = 32 ∧ (mapped [] (on id)).powered = true ∧ bf (mapped [] (on id)).bootst 0 4 = 1 ∧
    45 < (46 : Byte).toNat ∧ (42 : Byte).toNat < 43 ∧ (mapped [] (on id)).populated (0x80000 / 2 ^ 17) = true :=
  ⟨by decide, by decide, Nat.lt_of_lt_of_le (by decide) (capture_ge _), le_refl _, by decide, by decide, rfl, by decide, by decide, by decide, by decide +kernel⟩

/-- A flit for module router (rx, ry), or for the one after it in X, with its header CRC. -/
theorem test_wit_Links :
    (let s := { on id with lanes := [(64, { Lane.reset with stat := 2 })] }
     let t := { on id with lanes := [(64, { Lane.reset with stat := 1 })] }
     bf (s.lane 64).stat 0 2 = 2 ∧ bf (s.lane 65).stat 0 2 = 0 ∧ bf (t.lane 64).stat 0 2 = 1 ∧ s.queues = [] ∧
       (0 : W32) ≠ flitCrc ⟨1, 2, 0, 0, 0, 0, 0, 5⟩) ∧
    (let f : Flit := ⟨0, 0, 0, 0, 7, 0, 0, 5⟩
     let s := { on id with routers := [(64 * 5 + 6, ⟨[(0, f)], [[], [], [], []], 3, [], 0⟩)] }
     s.router 6 5 = ⟨[(0, f)], [[], [], [], []], 3, [], 0⟩ ∧ 0 ∈ [0] ∧ 0 < 6 ∧ 6 < 63 ∧ 5 < 63) ∧
    (let f : Flit := sealFlit ⟨0, 0, 0, 0, 7, 0, 0, 5⟩
     let s := { on id with routers := [(0, ⟨[(0, f)], [[], [], [], []], 3, [], 0⟩)] }
     s.router 0 0 = ⟨[(0, f)], [[], [], [], []], 3, [], 0⟩ ∧ crcOk f = true ∧ f.kind.toNat < 13 ∧ s.queues = []) := by decide +kernel

theorem test_wit_Links_here :
    let f : Flit := sealFlit ⟨myX 0, myY 0, 0, 0, 7, 0, 0, 0⟩
    let g : Flit := sealFlit ⟨myX 0 + 1, myY 0, 0, 0, 7, 0, 0, 0⟩
    let s (f : Flit) : State := { on id with routers := [(0, ⟨[(0, f)], [[], [], [], []], 3, [], 0⟩)] }
    (f.dx = myX 0 ∧ f.dy = myY 0 ∧ crcOk f = true ∧ f.kind.toNat < 13 ∧ ((s f).module (flitPkg f)).2 = false) ∧
    (g.dy = myY 0 ∧ crcOk g = true ∧ g.kind.toNat < 13 ∧ ((s g).module (flitPkg g)).2 = false ∧ 0 < ringPos torusW (myX 0) g.dx ∧
      ringPos torusW (myX 0) g.dx ≤ ringNeg torusW (myX 0) g.dx) := by
  have m (n : Nat) : ((on id).module n).2 = false := by
    unfold State.module
    split <;> rfl
  have h := ringPos_succ torusW (myX 0) (by
    have := site.1
    have := site.2.2.1
    unfold myX torusW
    omega)
  have hn : 2 ≤ torusW := by unfold torusW Config.MX; omega
  refine ⟨⟨rfl, rfl, crcOk_sealFlit _, by decide, m _⟩, ⟨rfl, crcOk_sealFlit _, by decide, m _, ?_, ?_⟩⟩
  · show 0 < ringPos torusW (myX 0) (myX 0 + 1)
    rw [h.1]
    exact Nat.one_pos
  · show ringPos torusW (myX 0) (myX 0 + 1) ≤ ringNeg torusW (myX 0) (myX 0 + 1)
    rw [h.1, h.2]
    omega

theorem test_wit_RequestFlits :
    (let s := mapped [] (on id)
     let r (sp a : Nat) : FabricReq := ⟨0, 5, 16384, 3, sp, 0, a, 8⟩
     (r 0 0x80000).inc = s.inc ∧ ({ r 0 0x80000 with inc := 1 } : FabricReq).inc ≠ s.inc ∧ s.populated (0x80000 / 2 ^ 17) = true ∧
       s.populated (0x4000000000 / 2 ^ 17) = false ∧ s.bad = [] ∧ (∀ n, ((s.yard n).teller.ports.getD 2 []).length < 32) ∧
       (s.yard (32 * (0x80000 / 2 ^ 12 % 8) + 0x80000 / 2 ^ 15 % 32)).teller.ports.length = 4 ∧ s.core.present = true ∧ s.core.lcn.toNat = 0x3FFF8 / 2 ^ 18 ∧
       s.core.pcid % 2 ^ 14 = 0 % 2 ^ 14 ∧ s.core.deque = [] ∧ 0x3FFF8 % 2 ^ 18 % 8 = 0 ∧ 0x3FFF8 + 8 ≤ s.core.lmin ∧
       (s.core.accept ⟨1, 2, 3, 4, none⟩).isSome = true) ∧
    (let c := mate 0 fun c => { c with rx := List.replicate 16 ⟨0, 0, 0, 0, none⟩ }; c.accept ⟨1, 2, 3, 4, none⟩ = none) ∧
    (let s := on id; s.isCur 0 0 = true ∧ s.core.deque = [] ∧ (0x3FFF8 % 2 ^ 18) % 8 = 0 ∧ 0x3FFF8 + 8 ≤ s.core.lmin) :=
  ⟨⟨rfl, by decide, by decide +kernel, by decide +kernel, rfl, fun n => (show ([] : List TReq).length < 32 by decide), by decide +kernel⟩, by decide +kernel, by decide +kernel⟩

theorem test_wit_AnswerFlits :
    (let r : Machine.Req := ⟨5, 0, 0, .load, .far 1 0 0x80000 false 1, 8⟩
     let p : Machine.Req := ⟨6, 0, 0, .posted, .far 1 0 0x80000 false 1, 8⟩
     let f : Far := ⟨5, 0x80, (1, 0, 0x80000), false, [], false, none, none⟩
     let e : Posted := ⟨.far 1 0 0x80000 false 1, List.replicate 8 1, false, 6, 0x80, true⟩
     let s := { on (fun c => regs [(2, 0x80)] { c with far := some f, posted := [e] }) with reqs := [r, p] }
     (1 : BitVec 4) ≠ s.inc ∧ (0 : BitVec 4) = s.inc ∧ s.reqs.find? (·.tag == 5) = some r ∧ s.reqs.find? (·.tag == 6) = some p ∧ s.isCur 0 0 = true ∧
       r.use = .load ∧ p.use = .posted ∧ s.core.far = some f ∧ f.tag = r.tag ∧ e ∈ s.core.posted ∧ e.tag = p.tag ∧ s.find 0 0 = none ∧
       s.core.posted.find? (·.tag == p.tag) = some e) ∧
    (let e (p : Place) (sent : Bool) : Posted := ⟨p, [1], false, 6, 0x80, sent⟩
     let s (p : Place) (sent : Bool) : State := on fun c => { c with posted := [e p sent] }
     (e (.far 4095 0 0x80000 false 1) false).place.here = false ∧ (e (.far 4095 0 0x80000 false 1) true).place.peerKey.1 = 4095 ∧
       (s (.host 0x40 1 2) true).core.posted[0]? = some (e (.host 0x40 1 2) true) ∧ (s (.far 1 0 0 true 1) true).core.posted[0]? = some (e (.far 1 0 0 true 1) true) ∧
       (s (.mem 0 0) false).core.posted[0]? = some (e (.mem 0 0) false) ∧ (s (.host 0x40 1 2) true).isCur 0 0 = true ∧ (2 : Nat) ≠ 3) ∧
    (let f (line stale : Bool) (own : List (Option Byte)) (rep : Option (List W64)) (nak : Option Nat) : Far := ⟨5, 0x80, (1, 0, 0x80000), line, own, stale, rep, nak⟩
     let s (f : Far) : State := on fun c => regs [(2, 0x80)] { c with far := some f }
     let ok (f : Far) : Bool := Safety.plain (s f) [1, 2] && (s f).core.far == some f &&
       f.va == ((s f).rd 2 + (0 : BitVec 9).signExtend 64 * 8#64).toNat && f.va % 8 == 0
     ok (f false false [] (some [1]) none) = true ∧ (f false false [] none none).key.1 ≠ 6 ∧ ok (f false false ((toBytes 8 9).map some) (some [1]) none) = true ∧
       ok (f true false [] (some (List.replicate 8 1)) none) = true ∧ ok (f true true [] (some (List.replicate 8 1)) none) = true ∧
       ok (f false false [] none (some 7)) = true ∧ ok (f true false [] none none) = true) := by
  decide +kernel

/-- Another module that a store of the core goes to, sent and not, and a store that the mark does not touch. -/
theorem test_wit_AnswerFlits_down : ∃ p, p ≠ Config.pkgX ∧
    (let e (sent : Bool) : Posted := ⟨.far p 0 0x80000 false 1, [1], false, 6, 0x80, sent⟩
     ∀ sent, (on fun c => { c with posted := [e sent] }).core.posted = [e sent] ∧ (e sent).place.here = false ∧ (e sent).place.peerKey.1 = p) ∧
    ∀ e ∈ (on id).core.posted, e.place.here = true ∨ e.place.peerKey.1 ≠ p :=
  other_pkg _ ⟨fun _ => ⟨rfl, rfl, rfl⟩, fun _ h => nomatch h⟩ ⟨fun _ => ⟨rfl, rfl, rfl⟩, fun _ h => nomatch h⟩

/-- A running core with one word at its PC, whose turn it is. -/
theorem test_wit_StepRunsDecoded :
    (let s := placed [0x04642800] id
     Safety.coreTurn s = true ∧ Safety.straight s = true ∧ s.wordAt = some (0x04642800, ⟨0x1000, 1, [0x04642800]⟩) ∧ decode 0x04642800 = .ok (.add 3 4 5)) ∧
    (let s := placed [0xBC000000] id
     Safety.coreTurn s = true ∧ Safety.straight s = true ∧ s.wordAt = some (0xBC000000, ⟨0x1000, 1, [0xBC000000]⟩) ∧ decode 0xBC000000 = .error 1) ∧
    (let s := on id; Safety.coreTurn s = true ∧ Safety.straight s = true ∧ s.wordAt = none) := by decide +kernel

theorem test_wit_DecodeEncode : isWord (.ldw 5 6 0x1FF 2) = true ∧ WellFormed (.ldw 5 6 0x1FF 2) = true := by decide

/-- A state whose memories are in canonical form, with a step that answers a next state. -/
theorem test_wit_StepInvariant : Safety.memInv State.reset ∧ ∃ t, step (State.reset.withFetchWord 32 0) = .next t := by
  refine ⟨⟨by decide, by decide, by decide, fun c h => nomatch h⟩, ?_⟩
  have h : (match step (State.reset.withFetchWord 32 0) with | .next _ => true | _ => false) = true := by decide +kernel
  revert h
  cases step (State.reset.withFetchWord 32 0) with
  | next t => exact fun _ => ⟨t, rfl⟩
  | fault f => exact fun h => nomatch h
  | refused r => exact fun h => nomatch h

end Sys2Proof.Tests
end

section
/-!
SUPPORT. What an instruction of the scalar unit does when its fields name no bound port and no MOD is armed (R137, R142, R146, R149).
-/
namespace Sys2Proof.Machine

/-- Operands that are among the fields of a plain instruction: their values, and the state as it is. -/
theorem State.operands_of_subset {s : State} {fs : List SReg} (h : Safety.plain s fs = true) (b : Bool) (rs ws : List SReg)
    (k : List W64 → State → State → State) (hsub : rs ++ ws ⊆ fs) : s.operands b rs ws k = k (rs.map s.core.rd) s s :=
  State.operands_plain s b rs ws k fun r hr => ((plain_iff s fs).1 h).2 r (hsub hr)

/-- An instruction of two operands whose result function gives `v` ends with `v` in s[d]. -/
theorem exec_eq_of_int2 {s : State} {d a b : SReg} {i : Instr} {f : W64 → W64 → W64} {u : Bool} {g : Int → Int → Int} {v : W64}
    (h : Safety.plain s [d, a, b] = true) (hi : exec i s = .next (int2 d a b f u g s)) (hv : f (s.rd a) (s.rd b) = v) :
    exec i s = .next ((s.wr d v).retire) := by
  rw [hi, int2_plain s d a b f u g h, hv]

/-- The same for a long-latency instruction, whose result lands under its la. -/
theorem exec_eq_of_int2L {s : State} {d a b : SReg} {l : BitVec 4} {i : Instr} {f : W64 → W64 → W64} {u : Bool} {g : Int → Int → Int}
    {v : W64} (h : Safety.plain s [d, a, b] = true) (hi : exec i s = .next (int2L d a b l f u g s)) (hv : f (s.rd a) (s.rd b) = v) :
    exec i s = .next (s.landL l [.s d v]) := by
  rw [hi, int2L_plain s d a b l f u g h, hv]

/-- The same for one operand. -/
theorem exec_eq_of_int1 {s : State} {d a : SReg} {fs : List SReg} {i : Instr} {f : W64 → W64} {v : W64}
    (h : Safety.plain s fs = true) (hd : d ∈ fs) (ha : a ∈ fs) (hi : exec i s = .next (int1 d a f s)) (hv : f (s.rd a) = v) :
    exec i s = .next ((s.wr d v).retire) := by
  rw [hi, int1_plain s d a f fs h hd ha, hv]

/-- R140: CSEL. -/
theorem exec_csel_plain {s : State} {d a b : SReg} (h : Safety.plain s [d, a, b] = true) :
    exec (.csel d a b) s = .next ((s.wr d (if s.rd a = 0 then s.rd d else s.rd b)).retire) := by
  have hport : s.core.port? d = none := ((plain_iff _ _).1 h).2 d (by simp)
  show execCsel d a b s = _
  unfold execCsel
  rw [State.operands_of_subset h _ [a, b] [d] _ (by simp), State.finish_plain _ _ _ hport]
  rfl

/-- R163: MINTK. -/
theorem exec_mintk_plain {s : State} {a : SReg} {fs : List SReg} (h : Safety.plain s fs = true) (ha : a ∈ fs) :
    exec (.mintk a) s = .next ((s.setCore fun c => { c with streamid := s.rd a, mintkey := mint s.core.jobseed (s.rd a) }).retire) := by
  show execMintk a s = _
  unfold execMintk
  rw [State.operands_of_subset h _ [a] [] _ (by simp [ha])]
  simp [State.setCore, State.rd]

/-- The target of a branch or jump, as R113 writes it. -/
theorem target_eq (pc : W64) {n : Nat} (o : BitVec n) : target pc o = pc + 4#64 * o.signExtend 64 := by
  unfold target
  rw [BitVec.shiftLeft_eq_mul_twoPow, BitVec.mul_comm]
  rfl

/-- The low two bits of an address are clear where it is a multiple of 4. -/
theorem and_three_eq_zero_iff (t : W64) : t &&& 3#64 = 0#64 ↔ t.toNat % 4 = 0 := by
  rw [← BitVec.toNat_inj, BitVec.toNat_and]
  exact (Nat.and_two_pow_sub_one_eq_mod t.toNat 2) ▸ Iff.rfl

/-- R146: a branch on two registers whose condition is `c`. -/
theorem exec_eq_of_br2 {s : State} {a b : SReg} {fs : List SReg} {o : BitVec 16} {i : Instr} {f : W64 → W64 → Bool} {c : Bool}
    (h : Safety.plain s fs = true) (ha : a ∈ fs) (hb : b ∈ fs) (hi : exec i s = .next (br2 a b o f s)) (hc : f (s.rd a) (s.rd b) = c) :
    exec i s = .next (if c then s.jump (s.core.pc + 4#64 * o.signExtend 64) else s.retire) := by
  rw [hi, ← hc, ← target_eq]
  unfold br2
  rw [State.operands_of_subset h _ [a, b] [] _ (by simp [ha, hb])]
  rfl

/-- R147: a branch on a predicate that is set. -/
theorem exec_bpt (s : State) (p : PReg) (o : BitVec 16) :
    exec (.bpt p o) s = .next (if s.rp p then s.jump (s.core.pc + 4#64 * o.signExtend 64) else s.retire) := by
  show Host.Outcome.next (brp p o false s) = _
  rw [brp, Bool.bne_false, target_eq]

/-- R147: a branch on a predicate that is clear. -/
theorem exec_bpf (s : State) (p : PReg) (o : BitVec 16) :
    exec (.bpf p o) s = .next (if !s.rp p then s.jump (s.core.pc + 4#64 * o.signExtend 64) else s.retire) := by
  show Host.Outcome.next (brp p o true s) = _
  rw [brp, Bool.bne_true, target_eq]

/-- R148: J goes to its target. -/
theorem exec_j (s : State) (o : BitVec 26) : exec (.j o) s = .next (s.jump (s.core.pc + 4#64 * o.signExtend 64)) := by
  rw [← target_eq]
  rfl

/-- R148: JAL links in s1 and goes to its target. -/
theorem exec_jal (s : State) (o : BitVec 26) :
    exec (.jal o) s = .next ((s.wr 1#5 (s.core.pc + 4#64)).jump (s.core.pc + 4#64 * o.signExtend 64)) := by
  rw [← target_eq]
  rfl

/-- R149: JALR links and jumps where its target is a multiple of 4, and otherwise traps. -/
theorem exec_jalr_plain {s : State} {d a : SReg} {fs : List SReg} (o : BitVec 16) (h : Safety.plain s fs = true) (hd : d ∈ fs) (ha : a ∈ fs) :
    let t := s.rd a + o.signExtend 64
    exec (.jalr d a o) s = .next (if t.toNat % 4 = 0 then (s.wr d (s.core.pc + 4#64)).jump t else s.trap 0x02#8 t) := by
  intro t
  have hport : s.core.port? d = none := ((plain_iff _ _).1 h).2 d hd
  have hlink : (s.setCore fun c => c.out d (c.pc + 4#64)) = s.wr d (s.core.pc + 4#64) := by
    simp only [State.setCore, Core.out_plain _ _ _ hport, State.wr]
  simp only [← and_three_eq_zero_iff, ← ite_not (t &&& 3#64 = 0#64) (s.trap 0x02#8 t)]
  show execJalr d a o s = _
  unfold execJalr
  rw [State.operands_of_subset h _ [a] [d] _ (by simp [hd, ha]), ← hlink]
  rfl

end Sys2Proof.Machine
end

section
/-!
SUPPORT. The result functions of the INT instructions, as the tables of R138 to R140 write them.
-/
namespace Sys2Proof.Machine

/-! ### Shifts, comparisons and extensions -/

/-- R138: the amount of a shift or rotate. -/
theorem amt_eq (y : W64) : amt y = y.toNat % 64 := by simp [amt, bf, fld]

theorem sllW_eq (x y : W64) : sllW x y = x <<< (y.toNat % 64) := by rw [sllW, amt_eq]
theorem srlW_eq (x y : W64) : srlW x y = x >>> (y.toNat % 64) := by rw [srlW, amt_eq]
theorem sraW_eq (x y : W64) : sraW x y = x.sshiftRight (y.toNat % 64) := by rw [sraW, amt_eq]
theorem rolW_eq (x y : W64) : rolW x y = x.rotateLeft (y.toNat % 64) := by rw [rolW, amt_eq]
theorem rorW_eq (x y : W64) : rorW x y = x.rotateRight (y.toNat % 64) := by rw [rorW, amt_eq]

theorem sltW_eq (x y : W64) : sltW x y = if x.toInt < y.toInt then 1 else 0 := by simp [sltW, b64, BitVec.slt]
theorem sltuW_eq (x y : W64) : sltuW x y = if x.toNat < y.toNat then 1 else 0 := by simp [sltuW, b64, BitVec.ult]
theorem minW_eq (x y : W64) : minW x y = if x.toInt < y.toInt then x else y := by simp [minW, BitVec.slt]
theorem maxW_eq (x y : W64) : maxW x y = if x.toInt < y.toInt then y else x := by simp [maxW, BitVec.slt]
theorem minuW_eq (x y : W64) : minuW x y = if x.toNat < y.toNat then x else y := by simp [minuW, BitVec.ult]
theorem maxuW_eq (x y : W64) : maxuW x y = if x.toNat < y.toNat then y else x := by simp [maxuW, BitVec.ult]

/-- A zero extension of the low n bits keeps them by a mask. -/
theorem zextW_eq (n : Nat) (x : W64) : zextW n x = x &&& BitVec.ofNat 64 (2 ^ n - 1) := by
  apply BitVec.eq_of_getLsbD_eq
  intro i hi
  have hmask : (BitVec.ofNat 64 (2 ^ n - 1)).getLsbD i = decide (i < n) := by
    rw [BitVec.getLsbD_ofNat, Nat.testBit_two_pow_sub_one, decide_eq_true hi, Bool.true_and]
  rw [BitVec.getLsbD_and, hmask, Bool.and_comm]
  simp [zextW, hi]

/-! ### Conditions of branches (R146) -/

theorem bne_eq_decide_ne (x y : W64) : (x != y) = decide (x ≠ y) := by rw [bne, beq_eq_decide, ← decide_not]
theorem not_slt_eq_decide (x y : W64) : (!x.slt y) = decide (y.toInt ≤ x.toInt) := by simp [BitVec.slt, ← decide_not]
theorem not_ult_eq_decide (x y : W64) : (!x.ult y) = decide (y.toNat ≤ x.toNat) := by simp [BitVec.ult, ← decide_not]

/-! ### Multiplication and division (R139) -/

theorem mulhW_eq (x y : W64) : mulhW x y = BitVec.ofInt 64 (x.toInt * y.toInt / 2 ^ 64) := by
  rw [mulhW, i64, Int.fdiv_eq_ediv_of_nonneg _ (by decide)]

/-- The quotient of the least value by -1 is the least value, as 2^63 wraps; no case of its own is needed. -/
theorem divW_eq (x y : W64) :
    divW x y = if y = 0#64 then BitVec.allOnes 64
      else if x = 0x8000000000000000 ∧ y = BitVec.allOnes 64 then 0x8000000000000000 else BitVec.ofInt 64 (x.toInt.tdiv y.toInt) := by
  unfold divW i64
  split_ifs with hy hl
  · rfl
  · obtain ⟨rfl, rfl⟩ := hl
    decide
  · rfl

theorem remW_eq (x y : W64) :
    remW x y = if y = 0#64 then x
      else if x = 0x8000000000000000 ∧ y = BitVec.allOnes 64 then 0 else BitVec.ofInt 64 (x.toInt.tmod y.toInt) := by
  unfold remW i64
  split_ifs with hy hl
  · rfl
  · obtain ⟨rfl, rfl⟩ := hl
    decide
  · rfl

theorem divuW_eq (x y : W64) : divuW x y = if y = 0#64 then BitVec.allOnes 64 else BitVec.ofNat 64 (x.toNat / y.toNat) := by
  rw [divuW, ← BitVec.toNat_udiv, BitVec.ofNat_toNat, BitVec.setWidth_eq]

theorem remuW_eq (x y : W64) : remuW x y = if y = 0#64 then x else BitVec.ofNat 64 (x.toNat % y.toNat) := by
  rw [remuW, ← BitVec.toNat_umod, BitVec.ofNat_toNat, BitVec.setWidth_eq]

/-! ### Counts of zeros -/

theorem clzGo_le (x : W64) (n : Nat) : clzGo x n ≤ n := by
  induction n with
  | zero => rfl
  | succ n ih =>
    rw [clzGo]
    split <;> omega

/-- The bits that CLZ counts are clear. -/
theorem getLsbD_of_lt_clzGo (x : W64) (n i : Nat) (h : i < clzGo x n) : x.getLsbD (n - 1 - i) = false := by
  induction n generalizing i with
  | zero => exact absurd h (Nat.not_lt_zero i)
  | succ n ih =>
    rw [clzGo] at h
    split at h
    · exact absurd h (Nat.not_lt_zero i)
    · rename_i hn
      cases i with
      | zero => simpa using hn
      | succ i =>
        have := ih i (by omega)
        rwa [show n + 1 - 1 - (i + 1) = n - 1 - i by omega]

/-- The bit after them, where there is one, is set. -/
theorem getLsbD_clzGo (x : W64) (n : Nat) (h : clzGo x n < n) : x.getLsbD (n - 1 - clzGo x n) = true := by
  induction n with
  | zero => exact absurd h (Nat.not_lt_zero _)
  | succ n ih =>
    rw [clzGo] at h ⊢
    split
    · rename_i hn
      exact hn
    · rename_i hn
      rw [if_neg hn] at h
      have := ih (by omega)
      rwa [show n + 1 - 1 - (clzGo x n + 1) = n - 1 - clzGo x n by omega]

theorem ctzGo_le (x : W64) (i n : Nat) : ctzGo x i n ≤ n := by
  induction n generalizing i with
  | zero => rfl
  | succ n ih =>
    have := ih (i + 1)
    rw [ctzGo]
    split <;> omega

/-- The bits that CTZ counts are clear. -/
theorem getLsbD_of_lt_ctzGo (x : W64) (i n j : Nat) (h : j < ctzGo x i n) : x.getLsbD (i + j) = false := by
  induction n generalizing i j with
  | zero => exact absurd h (Nat.not_lt_zero j)
  | succ n ih =>
    rw [ctzGo] at h
    split at h
    · exact absurd h (Nat.not_lt_zero j)
    · rename_i hi
      cases j with
      | zero => simpa using hi
      | succ j =>
        have := ih (i + 1) j (by omega)
        rwa [show i + (j + 1) = i + 1 + j by omega]

/-- The bit after them, where there is one, is set. -/
theorem getLsbD_ctzGo (x : W64) (i n : Nat) (h : ctzGo x i n < n) : x.getLsbD (i + ctzGo x i n) = true := by
  induction n generalizing i with
  | zero => exact absurd h (Nat.not_lt_zero _)
  | succ n ih =>
    rw [ctzGo] at h ⊢
    split
    · rename_i hi
      exact hi
    · rename_i hi
      rw [if_neg hi] at h
      have := ih (i + 1) (by omega)
      rwa [show i + (ctzGo x (i + 1) n + 1) = i + 1 + ctzGo x (i + 1) n by omega]

theorem popcW_eq (x : W64) : popcW x = w64 ((List.range 64).filter fun i => x.getLsbD i).length := by
  rw [popcW, upTo, List.countP_eq_length_filter]

/-! ### The order of bytes -/

/-- Numbers and byte lists agree (R3). -/
theorem toBytes_ofBytes (bs : List Byte) : toBytes bs.length (ofBytes bs) = bs := by
  induction bs with
  | nil => rfl
  | cons b bs ih =>
    have hb := b.isLt
    have hhead : BitVec.ofNat 8 (b.toNat + 256 * ofBytes bs) = b := BitVec.eq_of_toNat_eq (by simp; omega)
    have htail : (b.toNat + 256 * ofBytes bs) / 256 = ofBytes bs := by omega
    simp only [List.length_cons, ofBytes, toBytes, hhead, htail, ih]

/-- Byte i of a doubleword. -/
theorem extractLsb'_w64 (v i : Nat) (h : i < 8) : (w64 v).extractLsb' (8 * i) 8 = BitVec.ofNat 8 (v / 256 ^ i) := by
  apply BitVec.eq_of_getLsbD_eq
  intro j hj
  have h64 : 8 * i + j < 64 := by omega
  rw [show (256 : Nat) ^ i = 2 ^ (8 * i) by rw [Nat.pow_mul],
    BitVec.getLsbD_extractLsb', w64, BitVec.getLsbD_ofNat,
    BitVec.getLsbD_ofNat, Nat.testBit_div_two_pow, Nat.add_comm j]
  simp [hj, h64]

/-- BSWAP's byte i is byte 7 - i of the operand. -/
theorem extractLsb'_bswapW (x : W64) (i : Nat) (h : i < 8) : (bswapW x).extractLsb' (8 * i) 8 = x.extractLsb' (56 - 8 * i) 8 := by
  have hx : x.extractLsb' (56 - 8 * i) 8 = BitVec.ofNat 8 (x.toNat / 256 ^ (7 - i)) := by
    rw [show 56 - 8 * i = 8 * (7 - i) by omega, ← extractLsb'_w64 _ _ (by omega), w64, BitVec.ofNat_toNat, BitVec.setWidth_eq]
  rw [bswapW, extractLsb'_w64 _ _ h, hx]
  apply Option.some_injective
  have hlen : (toBytes 8 x.toNat).reverse.length = 8 := by rw [List.length_reverse, length_toBytes]
  calc some (BitVec.ofNat 8 (ofBytes (toBytes 8 x.toNat).reverse / 256 ^ i))
      = (toBytes 8 (ofBytes (toBytes 8 x.toNat).reverse))[i]? := (getElem?_toBytes _ _ _ h).symm
    _ = (toBytes 8 x.toNat).reverse[i]? := by
        have := toBytes_ofBytes (toBytes 8 x.toNat).reverse
        rw [hlen] at this
        rw [this]
    _ = (toBytes 8 x.toNat)[7 - i]? := by rw [List.getElem?_reverse (by rwa [length_toBytes]), length_toBytes, Nat.sub_right_comm]
    _ = some (BitVec.ofNat 8 (x.toNat / 256 ^ (7 - i))) := getElem?_toBytes _ _ _ (by omega)

end Sys2Proof.Machine
end

section
/-!
PROOFS. The obligations of the scalar instructions.
-/
namespace Sys2Proof.Machine

/-- Settles O5: every instruction has the shape of `int2` or `int1`, and its result function is the table's; CLZ and CTZ by the bits that their
counts pass and stop at, BSWAP by its bytes. -/
theorem integerResults : Obligations.IntegerResults := by
  unfold Obligations.IntegerResults
  constructor
  · intro s d a b h x y n ends
    have hd : d ∈ [d, a, b] := by simp
    have ha : a ∈ [d, a, b] := by simp
    exact ⟨exec_eq_of_int2 h rfl rfl, exec_eq_of_int2 h rfl rfl, exec_eq_of_int2 h rfl rfl, exec_eq_of_int2 h rfl rfl,
      exec_eq_of_int2 h rfl rfl, exec_eq_of_int2 h rfl rfl, exec_eq_of_int2 h rfl rfl,
      exec_eq_of_int2 h rfl (sllW_eq x y), exec_eq_of_int2 h rfl (srlW_eq x y), exec_eq_of_int2 h rfl (sraW_eq x y),
      exec_eq_of_int2 h rfl (rolW_eq x y), exec_eq_of_int2 h rfl (rorW_eq x y),
      exec_eq_of_int2 h rfl (sltW_eq x y), exec_eq_of_int2 h rfl (sltuW_eq x y),
      exec_eq_of_int2 h rfl (minW_eq x y), exec_eq_of_int2 h rfl (maxW_eq x y),
      exec_eq_of_int2 h rfl (minuW_eq x y), exec_eq_of_int2 h rfl (maxuW_eq x y), exec_csel_plain h,
      exec_eq_of_int1 h hd ha rfl rfl, exec_eq_of_int1 h hd ha rfl rfl, exec_eq_of_int1 h hd ha rfl rfl,
      exec_eq_of_int1 h hd ha rfl (zextW_eq 8 x), exec_eq_of_int1 h hd ha rfl (zextW_eq 16 x),
      exec_eq_of_int1 h hd ha rfl (zextW_eq 32 x)⟩
  · intro s d a h x ends
    have hd : d ∈ [d, a] := by simp
    have ha : a ∈ [d, a] := by simp
    refine ⟨⟨clzGo x 64, exec_eq_of_int1 h hd ha rfl rfl, clzGo_le x 64, getLsbD_of_lt_clzGo x 64, getLsbD_clzGo x 64⟩,
      ⟨ctzGo x 0 64, exec_eq_of_int1 h hd ha rfl rfl, ctzGo_le x 0 64, fun i hi => ?_, fun hn => ?_⟩,
      exec_eq_of_int1 h hd ha rfl (popcW_eq x), ⟨bswapW x, exec_eq_of_int1 h hd ha rfl rfl, extractLsb'_bswapW x⟩⟩
    · simpa using getLsbD_of_lt_ctzGo x 0 64 i hi
    · simpa using getLsbD_ctzGo x 0 64 hn

/-- Settles O6: every instruction has the shape of `int2L`, and its result function is the table's. -/
theorem mulDiv : Obligations.MulDiv := by
  unfold Obligations.MulDiv
  intro s d a b l h x y minusOne least lands
  exact ⟨exec_eq_of_int2L h rfl rfl, exec_eq_of_int2L h rfl (mulhW_eq x y), exec_eq_of_int2L h rfl rfl,
    exec_eq_of_int2L h rfl (divW_eq x y), exec_eq_of_int2L h rfl (divuW_eq x y),
    exec_eq_of_int2L h rfl (remW_eq x y), exec_eq_of_int2L h rfl (remuW_eq x y)⟩

/-- Settles O13: the statement's `goes` writes out `State.jump`, and its conditions those of the branches. -/
theorem branches : Obligations.Branches := by
  unfold Obligations.Branches
  intro s p d a b o f h x y goes there branches
  have hd : d ∈ [d, a, b] := by simp
  have ha : a ∈ [d, a, b] := by simp
  have hb : b ∈ [d, a, b] := by simp
  exact ⟨exec_eq_of_br2 h ha hb rfl (beq_eq_decide x y), exec_eq_of_br2 h ha hb rfl (bne_eq_decide_ne x y),
    exec_eq_of_br2 h ha hb rfl rfl, exec_eq_of_br2 h ha hb rfl (not_slt_eq_decide x y),
    exec_eq_of_br2 h ha hb rfl rfl, exec_eq_of_br2 h ha hb rfl (not_ult_eq_decide x y),
    exec_bpt s p o, exec_bpf s p o, exec_j s f, exec_jal s f, exec_jalr_plain o h hd ha⟩

/-- Settles O18: the statement writes out `mintRound` and `mint`. -/
theorem mintResults : Obligations.MintResults := by
  unfold Obligations.MintResults
  intro s d a b h round mix
  have hmix : ∀ key c, mix key c = mint key c := fun _ _ => rfl
  rw [hmix, hmix]
  exact ⟨exec_eq_of_int2 h rfl rfl, exec_mintk_plain h (by simp)⟩

end Sys2Proof.Machine
end
